-- ==== Sys2Proof/Word.lean ====
section
/-!
DEFINITION. The word and byte types of the IB740 (R5, R73: every value on the fabric is a 64-bit
token value; memory is byte-addressed) and the reading of a word as a number.
-/

namespace Sys2Proof

/-- A 64-bit token value, register or instruction word (R36, R95, R200). -/
abbrev Word := BitVec 64

/-- One byte of memory (R5). -/
abbrev Byte := BitVec 8

end Sys2Proof
end

