-- ==== Sys2Proof/Config.lean ====
section
/-!
DEFINITION. What one module fixes for good and software cannot write, and the values the spec leaves
open: each is an uninterpreted constant, so a statement about it holds for every value.
-/

namespace Sys2Proof.Config

/-- Free bytes: R367 leaves the bytes of the staging page's frame undefined after an abandoned
migration (log 3). -/
opaque freeByte : Nat → Byte

/-- Free token values, for a result the spec gives an instruction without stating its value (log 3). -/
opaque freeWord : Nat → Word

/-- Whether a node of the scale-up fabric is a host (R490: the firmware assigns node IDs). -/
opaque isHost : Nat → Bool

/-- The node ID that the firmware assigns to this module, and the fault ring it gives context 0 before READY (R461, R490,
R505). -/
opaque nodeId : BitVec 11
opaque ring0 : BitVec 52

/-- The four public keys in the fuses (R506). -/
opaque fuseKey : Nat → BitVec 256

/-- The four revocation bits in the fuses (R506). -/
opaque fuseRevoked : Nat → Bool

/-- Ed25519 verification of a message under a public key (R506: named and not defined; log 4). -/
opaque ed25519Verify : BitVec 256 → List Byte → BitVec 512 → Bool

/-- Ed25519 signing with the module's identity key of a message (R508; log 4). -/
opaque ed25519SignIdentity : List Byte → BitVec 512

/-- The module's serial number in the fuses (R508). -/
opaque serialNumber : BitVec 64

/-- The identity certificate that Phostad signs at manufacture (R508, R509). -/
opaque certificate : Nat → Byte

end Sys2Proof.Config
end

