-- ==== Sys2Proof/Syntax.lean ====
section
/-!
DEFINITION. The steps of the machine as syntax: one constructor per row of the table of operations
and events (opcode_table.json). The first 173 are the instructions (R102, R103), with the fields of
their encodings; the last 94 are the events of the machine's other agents, whose operands name the
instance that acts.
-/

set_option linter.unusedVariables false

namespace Sys2Proof

/-- Predicate mode, bits [55:54] of a word (R95, R45): 00, 01 `?t`, 10 `?f`; 11 is no mode. -/
inductive Pm where
  | always | onTrue | onFalse
deriving DecidableEq, Repr

/-- Operand slot (R27): 01 a, 10 b, 11 p. -/
inductive Slot where
  | a | b | p
deriving DecidableEq, Repr

/-- A target (R27, R96): an operand slot and an instruction index or route-table entry. -/
structure Tgt where
  slot : Slot
  idx : Fin 128
deriving DecidableEq, Repr

/-- A target field: none, or a target. -/
abbrev Target := Option Tgt

/-- Type codes (R73). -/
inductive Ty where
  | s64 | z64 | s32 | z32 | s16x4 | z16x4 | s8x8 | z8x8
  | f32 | f32x2 | f16x4 | bf16x4 | e4m3x8 | e5m2x8 | e2m1x16 | p4x8
deriving DecidableEq, Repr

/-- Rounding modes (R79). -/
inductive RMode where
  | rne | rtz | rdn | rup | rna
deriving DecidableEq, Repr

/-- The md field of a rounding instruction (R79): mode in [2:0], saturation in [3]. -/
structure Round where
  mode : RMode
  sat : Bool
deriving DecidableEq, Repr

/-- The order bits of a memory modifier (R99): 00 none, 01 `.acq`, 10 `.rel`. -/
inductive Order where
  | plain | acq | rel
deriving DecidableEq, Repr

/-- The md bits and the memory layout of a memory-format word (R99, R100). -/
structure Mem where
  c : Bool
  ord : Bool
  order : Order
  lsid : Fin 32
  scope : Fin 8
  off : BitVec 20
deriving DecidableEq, Repr

/-- The fields every word has beside op, ty and md (R95). -/
structure Hdr where
  pm : Pm
  t0 : Target
  t1 : Target
deriving DecidableEq, Repr

/-- Fault causes (R467). -/
inductive Cause where
  | illegalOp | reservedField | blockFormat | blockHang | tagAlias | tagExhaust | overflowFull | slotAbsent
  | translation | permission | alignment | kvUnmapped | biasConflict | trackMismatch | derivedSuspended
  | poison | uncorrectable | engineError | ringBroken | trapInstr | breakInstr
deriving DecidableEq, Repr

/-- Privilege levels (R459). -/
inductive Priv where
  | user | supervisor | monitor
deriving DecidableEq, Repr

/-- A request that a link peer sends to this module's memory (R490, R412, R496). -/
inductive LinkReq where
  /-- a read of `n` bytes at a local physical address -/
  | read (pa n : Nat)
  /-- a write of bytes at a local physical address -/
  | write (pa : Nat) (bytes : List Byte)
  /-- an atomic add of a size of 4 or 8 bytes -/
  | amoadd (pa n : Nat) (v : Word)
  /-- a host's request for a 64-byte half, owned or shared (R412) -/
  | half (m pa : Nat) (owned : Bool)
  /-- a host's write-back of an owned half (R412) -/
  | writeBack (m pa : Nat) (bytes : List Byte)
deriving DecidableEq, Repr

/-- A management message (R509, R510, R318). -/
inductive MgmtMsg where
  /-- a write to the management space by a host master: offset and 8-byte value -/
  | write (m off : Nat) (v : Word)
  /-- a host's flip request (R365, R498) -/
  | flip (m frame : Nat) (host : Bool)
  /-- the mailbox command byte of a master (R510) -/
  | command (m : Nat)
deriving DecidableEq, Repr

/-- Who writes a register: a context through CSRWR, or a host master through the management space. -/
inductive Writer where
  | ctx (c : Nat)
  | host (m : Nat)
deriving DecidableEq, Repr

/-- A register that has no event of its own: a CSR of a context (R461), a word of a queue descriptor
(R223), or a port word (R494). -/
inductive RegName where
  | csr (c : Nat) (n : BitVec 12)
  | queueWord (q k : Nat)
  | portWord (p : Nat)
deriving DecidableEq, Repr

/-- The steps of the machine: one constructor per row of opcode_table.json. -/
inductive Instr where
  -- token and dataflow control (R61)
  | mov (h : Hdr)
  | fan3 (h : Hdr) (t2 : Target)
  | fan4 (h : Hdr) (t2 : Target) (t3 : Target)
  | nul (h : Hdr)
  | steer (h : Hdr) (n : Bool)
  | gate (h : Hdr) (n : Bool)
  | merge (h : Hdr)
  | iter (h : Hdr) (w : Fin 1024)
  | iterx (h : Hdr) (imm : Option (BitVec 16))
  | tagget (h : Hdr)
  | tagset (h : Hdr)
  | slotset (h : Hdr) (s : Fin 7)
  | sticky (h : Hdr)
  | purge (h : Hdr)
  | stop (h : Hdr) (l : Fin 4)
  | stopt (h : Hdr) (l : Fin 4)
  -- integer, logic, shift, compare, immediate (R114)
  | add (h : Hdr) (ty : Ty)
  | sub (h : Hdr) (ty : Ty)
  | adds (h : Hdr) (ty : Ty)
  | subs (h : Hdr) (ty : Ty)
  | neg (h : Hdr) (ty : Ty)
  | abs (h : Hdr) (ty : Ty)
  | mul (h : Hdr) (ty : Ty)
  | mulh (h : Hdr) (ty : Ty)
  | div (h : Hdr) (ty : Ty)
  | rem (h : Hdr) (ty : Ty)
  | min (h : Hdr) (ty : Ty)
  | max (h : Hdr) (ty : Ty)
  | lea (h : Hdr) (ty : Ty) (s : Fin 8) (off : BitVec 17)
  | sel (h : Hdr) (ty : Ty)
  | sext (h : Hdr) (ty : Ty) (n : Fin 64)
  | zext (h : Hdr) (ty : Ty) (n : Fin 64)
  | and (h : Hdr) (ty : Ty)
  | or (h : Hdr) (ty : Ty)
  | xor (h : Hdr) (ty : Ty)
  | andn (h : Hdr) (ty : Ty)
  | not (h : Hdr) (ty : Ty)
  | shl (h : Hdr) (ty : Ty)
  | shr (h : Hdr) (ty : Ty)
  | sra (h : Hdr) (ty : Ty)
  | rol (h : Hdr) (ty : Ty)
  | clz (h : Hdr) (ty : Ty)
  | ctz (h : Hdr) (ty : Ty)
  | popc (h : Hdr) (ty : Ty)
  | bswap (h : Hdr) (ty : Ty)
  | teq (h : Hdr) (ty : Ty)
  | tne (h : Hdr) (ty : Ty)
  | tlt (h : Hdr) (ty : Ty)
  | tle (h : Hdr) (ty : Ty)
  | addi (h : Hdr) (ty : Ty) (imm : BitVec 20)
  | andi (h : Hdr) (ty : Ty) (imm : BitVec 20)
  | ori (h : Hdr) (ty : Ty) (imm : BitVec 20)
  | xori (h : Hdr) (ty : Ty) (imm : BitVec 20)
  | shli (h : Hdr) (ty : Ty) (k : Fin 64)
  | shri (h : Hdr) (ty : Ty) (k : Fin 64)
  | srai (h : Hdr) (ty : Ty) (k : Fin 64)
  | teqi (h : Hdr) (ty : Ty) (imm : BitVec 20)
  | tlti (h : Hdr) (ty : Ty) (imm : BitVec 20)
  | tlei (h : Hdr) (ty : Ty) (imm : BitVec 20)
  | movi (h : Hdr) (ty : Ty) (imm : BitVec 20)
  | movhi (h : Hdr) (ty : Ty) (imm : BitVec 20)
  | movx (h : Hdr) (ty : Ty) (v : Word)
  -- floating point, conversion, probability (R138)
  | fadd (h : Hdr) (ty : Ty) (r : Round)
  | fsub (h : Hdr) (ty : Ty) (r : Round)
  | fmul (h : Hdr) (ty : Ty) (r : Round)
  | fma (h : Hdr) (ty : Ty) (r : Round)
  | fms (h : Hdr) (ty : Ty) (r : Round)
  | fnma (h : Hdr) (ty : Ty) (r : Round)
  | fmin (h : Hdr) (ty : Ty)
  | fmax (h : Hdr) (ty : Ty)
  | fabs (h : Hdr) (ty : Ty)
  | fneg (h : Hdr) (ty : Ty)
  | fcps (h : Hdr) (ty : Ty)
  | fdiv (h : Hdr) (ty : Ty) (r : Round)
  | fsqrt (h : Hdr) (ty : Ty) (r : Round)
  | frcp (h : Hdr) (ty : Ty) (r : Round)
  | frsq (h : Hdr) (ty : Ty) (r : Round)
  | fexp2 (h : Hdr) (ty : Ty) (r : Round)
  | tfeq (h : Hdr) (ty : Ty)
  | tflt (h : Hdr) (ty : Ty)
  | tfle (h : Hdr) (ty : Ty)
  | tfun (h : Hdr) (ty : Ty)
  | frnd (h : Hdr) (ty : Ty) (r : Round)
  | cvt (h : Hdr) (dty : Ty) (sty : Ty) (r : Round) (q : Fin 8)
  | fsum (h : Hdr) (ty : Ty) (r : Round) (w : Bool)
  | fdot (h : Hdr) (ty : Ty) (r : Round) (w : Bool)
  | pexp (h : Hdr) (ty : Ty)
  | pmac (h : Hdr) (ty : Ty) (r : Round)
  -- memory access (R167)
  | ld (h : Hdr) (ty : Ty) (m : Mem)
  | ldx (h : Hdr) (ty : Ty) (m : Mem)
  | ldl (h : Hdr) (ty : Ty) (m : Mem)
  | ldt (h : Hdr) (ty : Ty) (m : Mem)
  | st (h : Hdr) (ty : Ty) (m : Mem)
  | stx (h : Hdr) (ty : Ty) (m : Mem)
  | stl (h : Hdr) (ty : Ty) (m : Mem)
  | pref (h : Hdr) (m : Mem)
  | amoadd (h : Hdr) (ty : Ty) (m : Mem)
  | amoand (h : Hdr) (ty : Ty) (m : Mem)
  | amoor (h : Hdr) (ty : Ty) (m : Mem)
  | amoxor (h : Hdr) (ty : Ty) (m : Mem)
  | amomin (h : Hdr) (ty : Ty) (m : Mem)
  | amomax (h : Hdr) (ty : Ty) (m : Mem)
  | amoswp (h : Hdr) (ty : Ty) (m : Mem)
  | amocas (h : Hdr) (ty : Ty) (m : Mem)
  | amofadd (h : Hdr) (ty : Ty) (m : Mem)
  | fence (h : Hdr) (m : Mem)
  | waita (h : Hdr) (ty : Ty) (m : Mem)
  | wake (h : Hdr) (m : Mem)
  | retry (h : Hdr)
  -- streams and merge (R300)
  | sopen (h : Hdr) (port : Fin 16) (sc : Fin 4)
  | sclose (h : Hdr)
  | spos (h : Hdr)
  | mrg (h : Hdr) (ty : Ty) (d : Bool)
  | mrgcfg (h : Hdr)
  | crd (h : Hdr) (ty : Ty)
  -- matrix tile (R309)
  | mwld (h : Hdr) (l : Bool)
  | mwswap (h : Hdr)
  | mstr (h : Hdr)
  | mrdo (h : Hdr)
  | mzero (h : Hdr)
  | mcfg (h : Hdr)
  -- KV and attention (R388)
  | kvld (h : Hdr) (ty : Ty) (m : Mem)
  | kvst (h : Hdr) (ty : Ty) (m : Mem)
  | kvapp (h : Hdr)
  | kvqry (h : Hdr)
  | smxupd (h : Hdr) (ty : Ty)
  -- derived regions (R446)
  | drvdecl (h : Hdr)
  | drvdrop (h : Hdr)
  | dld (h : Hdr) (ty : Ty) (m : Mem)
  | dldl (h : Hdr) (ty : Ty) (m : Mem)
  | drvsync (h : Hdr)
  | drvstat (h : Hdr)
  -- lease and replica (R414)
  | lease (h : Hdr) (n : Fin 256) (d : Bool)
  | rplhint (h : Hdr) (x : Fin 3)
  | tickrd (h : Hdr) (x : Fin 4)
  | rplcnt (h : Hdr)
  -- block control (R215)
  | read (h : Hdr) (g : Fin 64)
  | write (h : Hdr) (g : Fin 64)
  | bro (h : Hdr) (off : BitVec 28)
  | bri (h : Hdr)
  | call (h : Hdr) (off : BitVec 28)
  | ret (h : Hdr)
  | halt (h : Hdr)
  -- launch and group (R242)
  | launch (h : Hdr) (q : Fin 16384)
  | unitend (h : Hdr)
  | yield (h : Hdr)
  | grpcnt (h : Hdr)
  | grpwait (h : Hdr)
  | grpcan (h : Hdr)
  -- barrier and engine (R327)
  | barinit (h : Hdr)
  | baradd (h : Hdr)
  | bararr (h : Hdr)
  | barwt (h : Hdr)
  | bartst (h : Hdr)
  | engpost (h : Hdr)
  | engqry (h : Hdr)
  -- system (R481)
  | trap (h : Hdr) (code : BitVec 16)
  | eret (h : Hdr)
  | csrrd (h : Hdr) (n : BitVec 12) (x : Bool)
  | csrwr (h : Hdr) (n : BitVec 12) (x : Bool)
  | mark (h : Hdr)
  | brk (h : Hdr)
  | ownqry (h : Hdr)
  -- configuration (R274)
  | cfgld (h : Hdr) (pin : Bool)
  | cfgswap (h : Hdr)
  | cfgdrain (h : Hdr)
  | cfgpin (h : Hdr) (pin : Bool)
  | cfgqry (h : Hdr) (x : Fin 6)
  -- page (R369)
  | tlbinv (h : Hdr) (s : Fin 8)
  | tlbinva (h : Hdr) (s : Fin 8)
  | biasreq (h : Hdr)
  | pgmig (h : Hdr)
  | pgqry (h : Hdr)
  -- events of the fabric
  | tokenAccept (core : Nat) (x : Nat) (y : Nat)
  | spillRefill (core : Nat) (x : Nat) (y : Nat)
  | slotImageFetch (core : Nat) (x : Nat) (y : Nat) (slot : Nat)
  | coreQuiescent (core : Nat) (c : Nat)
  | markerArrival (core : Nat) (n : Nat)
  -- events of strands and blocks
  | trestleGrant (core : Nat) (c : Nat) (unit : Nat) (t : Nat)
  | blockMap (core : Nat) (t : Nat)
  | blockSettlement (core : Nat) (t : Nat)
  | watchdog (core : Nat) (t : Nat)
  -- events of queues and units
  | doorbell (q : Nat) (v : Word)
  | queueEnable (q : Nat)
  | queueDisable (q : Nat)
  | recordTake (die : Nat)
  | unitTakesPlace (core : Nat)
  | unitCompletion (core : Nat) (c : Nat) (unit : Nat)
  -- events of configurations
  | configLoad (cluster : Nat) (n : Nat)
  | drainComplete (id : Nat)
  | drainTimeout (id : Nat)
  | spareRepair (core : Nat) (x : Nat) (y : Nat)
  -- events of ports, streams and tiles
  | portReport (id : Nat)
  | portAccessIssue (id : Nat)
  | streamElement (core : Nat) (port : Nat) (sc : Nat)
  | outputStreamToken (core : Nat) (port : Nat) (sc : Nat)
  | mergeInput (core : Nat) (n : Nat)
  | mergeNodeDecision (core : Nat) (n : Nat)
  | fifoAccept (core : Nat) (n : Nat)
  | fifoEmit (core : Nat) (m : Nat)
  | formatIsland (core : Nat) (n : Nat)
  | matrixCommandFire (core : Nat) (n : Nat)
  | planeLoadComplete (core : Nat)
  -- events of memory
  | homeAccess (id : Nat)
  | accessCompletion (id : Nat)
  | waitaPoll (id : Nat)
  | orderedAtomicArrival (id : Nat)
  | orderedAtomicRetry (id : Nat)
  -- events of derived regions
  | deltaApply (die : Nat) (n : Nat)
  | rescan (die : Nat) (n : Nat)
  | flushMarker (id : Nat) (home : Nat)
  | publish (die : Nat) (n : Nat) (res : Nat)
  | buildComplete (die : Nat) (n : Nat)
  -- events of logical time and replicas
  | ptsAdvance (core : Nat)
  | trackerDecay
  | rebase
  | scrubReport
  -- events of engine jobs
  | jobArrival (die : Nat) (n : Nat)
  | jobStart (die : Nat) (e : Nat)
  | jobLanding (die : Nat) (e : Nat)
  | ringTimeout (die : Nat) (e : Nat)
  -- events of pages and contexts
  | copyingComplete (id : Nat)
  | freezingComplete (id : Nat)
  | cutComplete (c : Nat)
  | saveImageWritten (c : Nat)
  | scrub
  -- events of links
  | requestFlit (port : Nat) (r : LinkReq)
  | completionFlit (port : Nat) (id : Nat) (v : List Byte)
  /-- a host's answer to a recall: the 64 bytes of the half at a physical address -/
  | recallFlit (port : Nat) (m : Nat) (pa : Nat) (bytes : List Byte)
  | collectiveFlit (die : Nat) (e : Nat) (v : List Byte)
  | managementFlit (port : Nat) (msg : MgmtMsg)
  | ackFlit (port : Nat) (seq : Nat)
  | nakFlit (port : Nat) (seq : Nat)
  | abortFlit (die : Nat) (e : Nat)
  | completionTimeout (id : Nat)
  | trainingComplete (port : Nat) (lanes : BitVec 8)
  | trainingTimeout (port : Nat)
  | laneLoss (port : Nat) (lane : Nat)
  | peerLoss (port : Nat)
  | portEnable (port : Nat)
  | portDisable (port : Nat)
  -- events of the management controller
  | powerGood
  | claim (m : Nat)
  | handover (m : Nat) (succ : Nat)
  | detach (m : Nat)
  | cut (m : Nat) (c : Nat) (cls : Nat)
  | cutCheckpoint (m : Nat) (c : Nat) (cls : Nat)
  | cutResume (m : Nat) (c : Nat) (cls : Nat)
  | flip (m : Nat) (frame : Nat) (host : Bool)
  | post (m : Nat) (c : Nat) (a : Word)
  | stream (m : Nat) (len : Nat)
  | quote (m : Nat) (nonce : List Byte)
  | resetCold (m : Nat)
  | resetWarm (m : Nat)
  | ownershipLapse
  | throttleStep (watts : BitVec 16) (tj : BitVec 8)
  | thermalTrip
  -- events of registers
  | contextCreate (iss : Nat) (c : Nat) (v : Word)
  | contextDestroy (iss : Nat) (c : Nat)
  | tickbaseWrite (iss : Nat) (v : Word)
  | registerWrite (w : Writer) (r : RegName) (v : Word)
  -- further events
  | recallTimeout (id : Nat)
  | peerPresent (port : Nat) (peer : Nat)
  | badFlit (port : Nat) (reserved : Bool)
  | resumeComplete (c : Nat)
  | ready
  | duplicatedStateCompare (cs : List Nat)
deriving DecidableEq, Repr

end Sys2Proof
end

