-- ==== Sys2Proof/Machine/Numbers.lean ====
section
/-!
DEFINITION. Number formats and exact values (R73 to R94): lanes of a token value, the element formats
with their decoding, and exact values as a sign, a natural mantissa and a power of two.
-/

set_option linter.unusedVariables false

namespace Sys2Proof.Machine

open Sys2Proof

/-- Code of a type (R73). -/
def tyCode : Ty → Nat
  | .s64 => 0 | .z64 => 1 | .s32 => 2 | .z32 => 3 | .s16x4 => 4 | .z16x4 => 5 | .s8x8 => 6 | .z8x8 => 7
  | .f32 => 8 | .f32x2 => 9 | .f16x4 => 10 | .bf16x4 => 11 | .e4m3x8 => 12 | .e5m2x8 => 13
  | .e2m1x16 => 14 | .p4x8 => 15

/-- Lane width of a type (R73). -/
def tyWidth : Ty → Nat
  | .s64 | .z64 => 64
  | .s32 | .z32 | .f32 | .f32x2 => 32
  | .s16x4 | .z16x4 | .f16x4 | .bf16x4 => 16
  | .s8x8 | .z8x8 | .e4m3x8 | .e5m2x8 | .p4x8 => 8
  | .e2m1x16 => 4

/-- Lane count of a type (R73). -/
def tyLanes : Ty → Nat
  | .s64 | .z64 | .s32 | .z32 | .f32 => 1
  | .f32x2 => 2
  | .s16x4 | .z16x4 | .f16x4 | .bf16x4 => 4
  | .s8x8 | .z8x8 | .e4m3x8 | .e5m2x8 | .p4x8 => 8
  | .e2m1x16 => 16

/-- Whether the type is a signed integer type. -/
def tySigned : Ty → Bool
  | .s64 | .s32 | .s16x4 | .s8x8 => true
  | _ => false

/-- Whether the type is an integer type. -/
def tyInt (t : Ty) : Bool := decide (tyCode t < 8)

/-- Whether the type holds more than one lane. -/
def tyPacked (t : Ty) : Bool := decide (1 < tyLanes t)

/-- Bytes that one element of a scalar access or one whole token of the type takes in memory:
the lanes times the width (R73, R168). -/
def tyBytes (t : Ty) : Nat := tyLanes t * tyWidth t / 8

/-- Bits [lo + w - 1 : lo] of a natural number. -/
def bitsN (x lo w : Nat) : Nat := x / 2 ^ lo % 2 ^ w

/-- Lane `i` of width `w` of a word (R73). -/
def laneOf (w i : Nat) (v : Word) : Nat := bitsN v.toNat (w * i) w

/-- The lanes of a word under a type, lane 0 first. -/
def lanesOf (t : Ty) (v : Word) : List Nat :=
  (List.range (tyLanes t)).map fun i => laneOf (tyWidth t) i v

/-- Lanes put side by side, lane 0 lowest. -/
def packN (w : Nat) : List Nat → Nat
  | [] => 0
  | x :: xs => x % 2 ^ w + 2 ^ w * packN w xs

/-- A power of two as an integer. -/
def pow2 (k : Nat) : Int := ((2 ^ k : Nat) : Int)

/-- `x` of width `w` read in two's complement. -/
def sInt (w x : Nat) : Int := if x < 2 ^ (w - 1) then (x : Int) else (x : Int) - pow2 w

/-- A lane read as the type says: signed for sN, unsigned otherwise. -/
def readInt (t : Ty) (x : Nat) : Int := if tySigned t then sInt (tyWidth t) x else x

/-- An integer reduced to its lane image modulo 2^w. -/
def wrapInt (w : Nat) (x : Int) : Nat := (x % pow2 w).toNat

/-- The word that a result's lanes make (R73, R74): s32 sign-extends, every other scalar and packed
type leaves the bits above its lanes zero. -/
def fillTy (t : Ty) (lanes : List Nat) : Word :=
  let x := packN (tyWidth t) lanes
  match t with
  | .s32 => BitVec.ofInt 64 (sInt 32 (x % 2 ^ 32))
  | _ => BitVec.ofNat 64 x

/-- Number of significant bits of a natural number. -/
def bitLen (n : Nat) : Nat := if n = 0 then 0 else Nat.log2 n + 1

/-- An exact value: a finite one with its sign kept on zero, an infinity, or a NaN code. -/
inductive FVal where
  | fin (neg : Bool) (m : Nat) (e : Int)
  | inf (neg : Bool)
  | nan
deriving DecidableEq, Repr

/-- A binary element format (R76). -/
structure Fmt where
  ew : Nat
  mw : Nat
  bias : Int
  /-- has infinities (IEEE-like); E4M3 has none -/
  hasInf : Bool
deriving DecidableEq, Repr

def fmtF32 : Fmt := ⟨8, 23, 127, true⟩
def fmtF16 : Fmt := ⟨5, 10, 15, true⟩
def fmtBF16 : Fmt := ⟨8, 7, 127, true⟩
def fmtE4M3 : Fmt := ⟨4, 3, 7, false⟩
def fmtE5M2 : Fmt := ⟨5, 2, 15, true⟩

/-- Format of a floating type's lanes; integer types and P4 and E2M1 read as FP32 and are never asked. -/
def tyFmt : Ty → Fmt
  | .f16x4 => fmtF16
  | .bf16x4 => fmtBF16
  | .e4m3x8 => fmtE4M3
  | .e5m2x8 => fmtE5M2
  | _ => fmtF32

/-- Value of a code of a format (R76). -/
def decodeFmt (f : Fmt) (c : Nat) : FVal :=
  let neg := decide (bitsN c (f.ew + f.mw) 1 = 1)
  let e := bitsN c f.mw f.ew
  let m := bitsN c 0 f.mw
  let top := 2 ^ f.ew - 1
  if e = 0 then .fin neg m (1 - f.bias - f.mw)
  else if e = top then
    if f.hasInf then (if m = 0 then .inf neg else .nan)
    else if m = 2 ^ f.mw - 1 then .nan
    else .fin neg (2 ^ f.mw + m) (e - f.bias - f.mw)
  else .fin neg (2 ^ f.mw + m) (e - f.bias - f.mw)

/-- Code of the greatest finite magnitude (R76). -/
def maxCode (f : Fmt) : Nat :=
  if f.hasInf then (2 ^ f.ew - 1) * 2 ^ f.mw - 1 else 2 ^ (f.ew + f.mw) - 2

/-- Code of infinity. -/
def infCode (f : Fmt) : Nat := (2 ^ f.ew - 1) * 2 ^ f.mw

/-- A code with a sign put on. -/
def signCode (f : Fmt) (neg : Bool) (c : Nat) : Nat := if neg then c + 2 ^ (f.ew + f.mw) else c

/-- Canonical NaN of a format (R76). -/
def canonNaN (f : Fmt) : Nat :=
  if f.hasInf then (2 ^ f.ew - 1) * 2 ^ f.mw + 2 ^ (f.mw - 1) else 2 ^ (f.ew + f.mw) - 1

/-- P4 value of a code (R88). -/
def decodeP4 (c : Nat) : FVal :=
  let f := bitsN c 6 2
  let e := bitsN c 0 6
  if e = 63 then (if f = 3 then .nan else .fin false 0 0)
  else .fin false (4 + f) (-2 - (e : Int))

/-- E2M1 value of a code other than 0b1000 (R76): sign, two exponent bits, one fraction bit, bias 1. -/
def decodeE2M1 (c : Nat) : FVal :=
  let neg := decide (bitsN c 3 1 = 1)
  let e := bitsN c 1 2
  let m := bitsN c 0 1
  if e = 0 then .fin neg m (-1) else .fin neg (2 + m) ((e : Int) - 2)

/-- A finite value times a power of two. -/
def FVal.scale (k : Int) : FVal → FVal
  | .fin n m e => .fin n m (e + k)
  | v => v

/-- Value of an element code of an E2M1 block with the bytes scale and special (R85); NaN where R85 says
ERROR. -/
def decodeBlockElem (scale special c : Nat) : FVal :=
  if scale = 255 then .nan
  else if c = 8 then
    if special = 255 ∨ special = 127 then .nan
    else (decodeFmt fmtE4M3 special).scale ((scale : Int) - 127)
  else (decodeE2M1 c).scale ((scale : Int) - 127)

/-- Exact value of a lane under a type other than E2M1. -/
def decodeLane (t : Ty) (x : Nat) : FVal :=
  if tyInt t then
    let v := readInt t x
    .fin (decide (v < 0)) v.natAbs 0
  else match t with
    | .p4x8 => decodeP4 x
    | .e2m1x16 => decodeE2M1 x
    | _ => decodeFmt (tyFmt t) x

/-- Whether a lane of the type holds a NaN code (R77, R88). Integer lanes never do. -/
def laneNaN (t : Ty) (x : Nat) : Bool :=
  if tyInt t then false
  else match t with
    | .e2m1x16 => false
    | _ => decide (decodeLane t x = .nan)

/-- Whether any lane of a word holds a NaN code of the type. -/
def anyNaN (t : Ty) (v : Word) : Bool := (lanesOf t v).any (laneNaN t)

/-- Signed mantissa of a finite value. -/
def sMant (n : Bool) (m : Nat) : Int := if n then -(m : Int) else m

/-- The mantissas of two exact values brought to one exponent. -/
def alignM (m1 : Int) (e1 : Int) (m2 : Int) (e2 : Int) : Int × Int × Int :=
  let e := if e1 ≤ e2 then e1 else e2
  (m1 * pow2 (e1 - e).toNat, m2 * pow2 (e2 - e).toNat, e)

/-- An exact dyadic number m · 2^e, for sums in which the sign of zero plays no part. -/
structure Dy where
  m : Int
  e : Int
deriving DecidableEq, Repr

def Dy.zero : Dy := ⟨0, 0⟩
def Dy.add (x y : Dy) : Dy :=
  let (a, b, e) := alignM x.m x.e y.m y.e
  ⟨a + b, e⟩
def Dy.mul (x y : Dy) : Dy := ⟨x.m * y.m, x.e + y.e⟩
def Dy.neg (x : Dy) : Dy := ⟨-x.m, x.e⟩
/-- Comparison of two dyadics. -/
def Dy.lt (x y : Dy) : Bool :=
  let (a, b, _) := alignM x.m x.e y.m y.e
  decide (a < b)
def Dy.le (x y : Dy) : Bool :=
  let (a, b, _) := alignM x.m x.e y.m y.e
  decide (a ≤ b)
/-- Greatest integer not above the number. -/
def Dy.floor (x : Dy) : Int := if 0 ≤ x.e then x.m * pow2 x.e.toNat else x.m / pow2 (-x.e).toNat
/-- The dyadic of an exact finite value. -/
def FVal.dy : FVal → Dy
  | .fin n m e => ⟨sMant n m, e⟩
  | _ => .zero
/-- The exact finite value of a dyadic; zero is +0. -/
def Dy.val (x : Dy) : FVal := .fin (decide (x.m < 0)) x.m.natAbs x.e

/-- Place of a value in the total order of R93 (−∞, negatives, −0, +0, positives, +∞) against another. -/
def ordLt (x y : FVal) : Bool :=
  match x, y with
  | .nan, _ | _, .nan => false
  | .inf true, .inf true => false
  | .inf true, _ => true
  | _, .inf true => false
  | .inf false, _ => false
  | _, .inf false => true
  | .fin n1 m1 e1, .fin n2 m2 e2 =>
    if m1 = 0 ∧ m2 = 0 then n1 && !n2
    else Dy.lt ⟨sMant n1 m1, e1⟩ ⟨sMant n2 m2, e2⟩

/-- Equality by value: −0 equals +0 (R146). -/
def valEq (x y : FVal) : Bool :=
  match x, y with
  | .nan, _ | _, .nan => false
  | .inf a, .inf b => decide (a = b)
  | .inf _, _ | _, .inf _ => false
  | .fin n1 m1 e1, .fin n2 m2 e2 =>
    let (a, b, _) := alignM (sMant n1 m1) e1 (sMant n2 m2) e2
    decide (a = b)

/-- Integer square root by digits: `k` result bits are still open above the partial root `r`. -/
def isqrtGo (n : Nat) : Nat → Nat → Nat
  | 0, r => r
  | k + 1, r =>
    let c := r + 2 ^ k
    isqrtGo n k (if c * c ≤ n then c else r)

/-- Greatest natural number whose square is at most `n`. -/
def isqrt (n : Nat) : Nat := isqrtGo n (bitLen n / 2 + 1) 0

/-- Root of order 64 by digits. -/
def root64Go (n : Nat) : Nat → Nat → Nat
  | 0, r => r
  | k + 1, r =>
    let c := r + 2 ^ k
    root64Go n k (if c ^ 64 ≤ n then c else r)

/-- Bytes of a natural number, lowest first (R5). -/
def bytesLE : Nat → Nat → List Byte
  | 0, _ => []
  | k + 1, x => BitVec.ofNat 8 x :: bytesLE k (x / 256)

/-- The natural number of a list of bytes, lowest first (R5). -/
def ofBytesLE : List Byte → Nat
  | [] => 0
  | b :: bs => b.toNat + 256 * ofBytesLE bs

end Sys2Proof.Machine
end

