-- ==== Sys2Proof/Machine/Barrier.lean ====
section
/-!
DEFINITION. The barrier object (R315 to R317): its sixteen bytes, what each operation does to it, and what a waiter
reads from it (R328, R330).
-/

namespace Sys2Proof.Machine

open Sys2Proof

/-- A barrier (R315); state 0 Idle, 1 Counting, 2 Complete, 3 Broken. -/
structure Bar where
  pending : Int
  phase : Nat
  state : Nat
  pb : Nat
  resv : Nat
deriving DecidableEq, Repr

def barOf (l : List Byte) : Bar :=
  let hi := ofBytesLE ((l.drop 8).take 8)
  ⟨sInt 64 (ofBytesLE (l.take 8)), hi % 2 ^ 32, hi / 2 ^ 32 % 4, hi / 2 ^ 34 % 2, hi / 2 ^ 35⟩

def Bar.bytes (b : Bar) : List Byte :=
  bytesLE 8 (wrapInt 64 b.pending) ++
    bytesLE 8 (b.phase % 2 ^ 32 + b.state % 4 * 2 ^ 32 + b.pb % 2 * 2 ^ 34 + b.resv * 2 ^ 35)

/-- A sum or difference lies in s64. -/
def inS64 (x : Int) : Bool := decide (-pow2 63 ≤ x ∧ x < pow2 63)

/-- A Counting phase that has reached `n` pending (R316). -/
def Bar.settle (b : Bar) (n : Int) : Bar :=
  { b with pending := n, state := if n = 0 then 2 else if n < 0 then 3 else 1 }

def Bar.next (b : Bar) (pb : Nat) (n : Int) (state : Nat) : Bar :=
  { b with pb := pb, phase := (b.phase + 1) % 2 ^ 32, pending := n, state := state }

/-- BARINIT n (R316): the barrier after, and whether it was refused. -/
def Bar.init (b : Bar) (n : Int) : Bar × Bool :=
  if b.state = 1 then (b, true)
  else (b.next (if b.state = 3 then 1 else 0) n (if n = 0 then 2 else 1), false)

/-- BARADD n (R316). -/
def Bar.add (b : Bar) (n : Int) : Bar × Bool :=
  match b.state with
  | 1 => if inS64 (b.pending + n) then (b.settle (b.pending + n), false) else (b, true)
  | 2 => if 0 < n then (b.next 0 n 1, false) else (b, true)
  | _ => (b, true)

/-- An arrival of m ≥ 0 (R316). -/
def Bar.arrive (b : Bar) (m : Int) : Bar :=
  let d := if inS64 (b.pending - m) then b.pending - m else -pow2 63
  if m = 0 then b
  else match b.state with
    | 1 => b.settle d
    | 2 => b.next 0 (-m) 3
    | _ => { b with state := 3, pending := d }

/-- A barrier status (R328). -/
def barStatus (state phase : Nat) (refused : Bool) : Word :=
  BitVec.ofNat 64 (state * 2 ^ 62 + (if refused then 2 ^ 61 else 0) + phase % 2 ^ 32)

def Bar.status (b : Bar) (refused : Bool) : Word := barStatus b.state b.phase refused

/-- What a BARWT of phase `p` reads (R330): the status, and whether it reports Complete with refused clear; none
while it sleeps. -/
def Bar.wait (b : Bar) (p : Nat) : Option (Word × Bool) :=
  let d := (b.phase + 2 ^ 32 - p % 2 ^ 32) % 2 ^ 32
  if d = 1 then some (barStatus (if b.pb = 1 then 3 else 2) p false, decide (b.pb = 0))
  else if 2 ≤ d ∧ d ≤ 2 ^ 31 - 1 then some (b.status true, false)
  else if d = 0 ∧ 2 ≤ b.state then some (b.status false, decide (b.state = 2))
  else none

end Sys2Proof.Machine
end

