-- ==== Sys2Proof/Machine/Flags.lean ====
section
/-!
DEFINITION. The exception flags (R82) and every rounding that raises them: one rounding of an exact
result to a format (R79 to R81), to P4 (R89), to an integer (R155) and inside an E2M1 block (R157).
-/

set_option linter.unusedVariables false

namespace Sys2Proof.Machine

open Sys2Proof

/-- Bits [4:0] of FLAGS (R82): IV 4, DZ 3, OF 2, UF 1, NX 0. -/
abbrev FFlags := BitVec 5

def fNone : FFlags := 0
def fNX : FFlags := 1
def fUF : FFlags := 2
def fOF : FFlags := 4
def fDZ : FFlags := 8
def fIV : FFlags := 16

/-- The OR of a list of flags (R81, R82). -/
def orFlags (l : List FFlags) : FFlags := l.foldl (· ||| ·) fNone

/-- Rounding of the magnitude (m + ε)·2^e, with ε in (0, 1) when `sticky`, to a multiple of 2^q: the
multiple and whether it is inexact (R79). -/
def roundAt (mode : RMode) (neg : Bool) (m : Nat) (e : Int) (sticky : Bool) (q : Int) : Nat × Bool :=
  if q ≤ e then (m * 2 ^ (e - q).toNat, sticky)
  else
    let k := (q - e).toNat
    let quo := m / 2 ^ k
    let rem := m % 2 ^ k
    let half := 2 ^ (k - 1)
    let inexact := decide (rem ≠ 0) || sticky
    let up : Bool := match mode with
      | .rne => decide (half < rem) || (decide (rem = half) && (sticky || decide (quo % 2 = 1)))
      | .rna => decide (half ≤ rem)
      | .rtz => false
      | .rdn => inexact && neg
      | .rup => inexact && !neg
    (if up then quo + 1 else quo, inexact)

/-- What a lane's exact result is before its one rounding: finite, with ε added when `sticky`; a zero
whose sign is the rounding mode's (R81); infinite from infinite operands; infinite from a division by
zero; or undefined. -/
inductive EVal where
  | fin (neg : Bool) (m : Nat) (e : Int) (sticky : Bool)
  | zero
  | inf (neg : Bool)
  | divZero (neg : Bool)
  | undef
deriving DecidableEq, Repr

/-- A lane's delivered code, none when the lane's exact result is undefined, with its flags. -/
structure LaneRes where
  code : Option Nat
  fl : FFlags
deriving DecidableEq, Repr

/-- The overflow rows of R80. -/
def overflowRes (f : Fmt) (mode : RMode) (sat neg : Bool) : LaneRes :=
  let toInf : Bool := match mode with
    | .rne | .rna => true
    | .rtz => false
    | .rdn => neg
    | .rup => !neg
  if f.hasInf && !sat && toInf then ⟨some (signCode f neg (infCode f)), fOF ||| fNX⟩
  else ⟨some (signCode f neg (maxCode f)), fOF ||| fNX⟩

/-- Rounding of a finite magnitude to a format (R79 to R81). A magnitude far below the least subnormal is
taken as a quarter of it, which every mode rounds alike. -/
def roundFin (f : Fmt) (mode : RMode) (sat neg : Bool) (m0 : Nat) (e0 : Int) (sticky0 : Bool) : LaneRes :=
  if m0 = 0 && !sticky0 then ⟨some (signCode f neg 0), fNone⟩
  else
    let qmin : Int := 1 - f.bias - f.mw
    let top0 : Int := e0 + bitLen m0 - 1
    let low : Bool := decide (top0 < qmin - 2)
    let m := if low then 1 else m0
    let e := if low then qmin - 3 else e0
    let sticky := if low then false else sticky0
    let top : Int := e + bitLen m - 1
    let q0 : Int := top - f.mw
    if decide (f.bias + 2 < top) then overflowRes f mode sat neg
    else
      let q := if q0 < qmin then qmin else q0
      let (r, inx) := roundAt mode neg m e sticky q
      let code : Nat := (q - qmin).toNat * 2 ^ f.mw + r
      if maxCode f < code then overflowRes f mode sat neg
      else
        let (r0, _) := roundAt mode neg m e sticky q0
        -- tiny: rounded with an unbounded exponent, below 2^(1 - bias) (R81)
        let tiny : Bool := decide (q0 < qmin) &&
          decide (r0 < 2 ^ (qmin + f.mw - q0).toNat)
        ⟨some (signCode f neg code),
          (if inx then fNX else fNone) ||| (if tiny && inx then fUF else fNone)⟩

/-- One rounding of an exact result to a format (R79, R80, R81). -/
def roundTo (f : Fmt) (mode : RMode) (sat : Bool) : EVal → LaneRes
  | .fin neg m e sticky => roundFin f mode sat neg m e sticky
  | .zero => ⟨some (signCode f (decide (mode = .rdn)) 0), fNone⟩
  | .inf neg =>
    if sat || !f.hasInf then ⟨some (signCode f neg (maxCode f)), fOF ||| fNX⟩
    else ⟨some (signCode f neg (infCode f)), fNone⟩
  | .divZero neg =>
    if sat || !f.hasInf then ⟨some (signCode f neg (maxCode f)), fDZ ||| fOF ||| fNX⟩
    else ⟨some (signCode f neg (infCode f)), fDZ⟩
  | .undef => ⟨none, fIV⟩

/-- Exact sum (R81, R142): a zero from two zeros of one sign keeps it, any other exact zero takes the
mode's sign. -/
def addVal (x y : FVal) : EVal :=
  match x, y with
  | .nan, _ | _, .nan => .undef
  | .inf a, .inf b => if a = b then .inf a else .undef
  | .inf a, _ => .inf a
  | _, .inf b => .inf b
  | .fin n1 m1 e1, .fin n2 m2 e2 =>
    if m1 = 0 ∧ m2 = 0 then (if n1 = n2 then .fin n1 0 0 false else .zero)
    else
      let (a, b, e) := alignM (sMant n1 m1) e1 (sMant n2 m2) e2
      let s := a + b
      if s = 0 then .zero else .fin (decide (s < 0)) s.natAbs e false

/-- Negation of a value. -/
def FVal.negate : FVal → FVal
  | .fin n m e => .fin (!n) m e
  | .inf n => .inf (!n)
  | .nan => .nan

/-- Exact product; none when undefined (0 × ∞). -/
def mulVal (x y : FVal) : Option FVal :=
  match x, y with
  | .nan, _ | _, .nan => none
  | .inf a, .inf b => some (.inf (a != b))
  | .inf a, .fin n m _ => if m = 0 then none else some (.inf (a != n))
  | .fin n m _, .inf b => if m = 0 then none else some (.inf (n != b))
  | .fin n1 m1 e1, .fin n2 m2 e2 => some (.fin (n1 != n2) (m1 * m2) (e1 + e2))

/-- A value as an exact result. -/
def FVal.exact : FVal → EVal
  | .fin n m e => .fin n m e false
  | .inf n => .inf n
  | .nan => .undef

/-- Exact product plus an addend (R142). -/
def mulAddVal (x y z : FVal) : EVal :=
  match mulVal x y with
  | none => .undef
  | some p => addVal p z

/-- Exact quotient (R150). -/
def divVal (x y : FVal) : EVal :=
  match x, y with
  | .nan, _ | _, .nan => .undef
  | .inf _, .inf _ => .undef
  | .inf a, .fin n _ _ => .inf (a != n)
  | .fin n _ _, .inf b => .fin (n != b) 0 0 false
  | .fin n1 m1 e1, .fin n2 m2 e2 =>
    if m2 = 0 then (if m1 = 0 then .undef else .divZero (n1 != n2))
    else
      let k := 64 + bitLen m2
      let num := m1 * 2 ^ k
      .fin (n1 != n2) (num / m2) (e1 - e2 - k) (decide (num % m2 ≠ 0))

/-- Exact square root (R150). -/
def sqrtVal (x : FVal) : EVal :=
  match x with
  | .nan => .undef
  | .inf n => if n then .undef else .inf false
  | .fin n m e =>
    if m = 0 then .fin n 0 0 false
    else if n then .undef
    else
      let odd := decide (e % 2 ≠ 0)
      let m' := (if odd then 2 * m else m) * 2 ^ 128
      let e' := (if odd then e - 1 else e) - 128
      let r := isqrt m'
      .fin false r (e' / 2) (decide (r * r ≠ m'))

/-- Exact reciprocal square root (R150). -/
def rsqrtVal (x : FVal) : EVal :=
  match x with
  | .nan => .undef
  | .inf n => if n then .undef else .fin false 0 0 false
  | .fin n m e =>
    if m = 0 then .divZero n
    else if n then .undef
    else
      let odd := decide (e % 2 ≠ 0)
      let m' := if odd then 2 * m else m
      let e' := if odd then e - 1 else e
      let k := 64 + bitLen m'
      let r := isqrt (2 ^ (2 * k) / m')
      .fin false r (-(e' / 2) - k) (decide (r * r * m' ≠ 2 ^ (2 * k)))

/-- Rounding to an integral value in the format (R153): NX when it differs, no other flag. -/
def frndLane (f : Fmt) (mode : RMode) (c : Nat) : LaneRes :=
  match decodeFmt f c with
  | .fin n m e =>
    if 0 ≤ e then ⟨some c, fNone⟩
    else
      let (r, inx) := roundAt mode n m e false 0
      ⟨(roundFin f .rtz false n r 0 false).code, if inx then fNX else fNone⟩
  | _ => ⟨some c, fNone⟩

/-- Bounds of an integer type's lanes. -/
def intLo (t : Ty) : Int := if tySigned t then -pow2 (tyWidth t - 1) else 0
def intHi (t : Ty) : Int := if tySigned t then pow2 (tyWidth t - 1) - 1 else pow2 (tyWidth t) - 1

/-- A floating or P4 value to an integer lane (R155): rounded in the mode, clamped to the bounds with
OF and NX. -/
def toIntLane (t : Ty) (mode : RMode) (v : FVal) : LaneRes :=
  match v with
  | .nan => ⟨none, fNone⟩
  | .inf n => ⟨some (wrapInt (tyWidth t) (if n then intLo t else intHi t)), fOF ||| fNX⟩
  | .fin n m e =>
    let (r, inx) := roundAt mode n m e false 0
    let x := sMant n r
    if x < intLo t then ⟨some (wrapInt (tyWidth t) (intLo t)), fOF ||| fNX⟩
    else if intHi t < x then ⟨some (wrapInt (tyWidth t) (intHi t)), fOF ||| fNX⟩
    else ⟨some (wrapInt (tyWidth t) x), if inx then fNX else fNone⟩

/-- A value rounded to P4 (R89). Below 2^-62 the P4 values are 2^-62 and +0, and a tie between them
goes to +0 under RNE (log 16). -/
def toP4Lane (mode : RMode) (v : FVal) : LaneRes :=
  match v with
  | .nan => ⟨none, fNone⟩
  | .inf n => if n then ⟨some 0x3F, fIV⟩ else ⟨some 0xC0, fOF ||| fNX⟩
  | .fin n m0 e0 =>
    if m0 = 0 then ⟨some 0x3F, fNone⟩
    else if n then ⟨some 0x3F, fIV⟩
    else if Dy.lt ⟨7, -2⟩ ⟨m0, e0⟩ then ⟨some 0xC0, fOF ||| fNX⟩
    else
      let low : Bool := decide (e0 + bitLen m0 - 1 < -64)
      let m := if low then 1 else m0
      let e : Int := if low then -65 else e0
      let top : Int := e + bitLen m - 1
      let q : Int := if top < -62 then -62 else top - 2
      let (r, inx) := roundAt mode false m e false q
      if r = 0 then ⟨some 0x3F, fUF ||| fNX⟩
      else
        -- r · 2^q with r = 1 (q = -62), 4 to 7, or 8
        let r' := if r = 8 then 4 else if r = 1 then 4 else r
        let q' := if r = 8 then q + 1 else if r = 1 then q - 2 else q
        ⟨some ((r' - 4) * 64 + (-(q' + 2)).toNat), if inx then fNX else fNone⟩

/-- Rounding of a dyadic to FP32, nearest even, as a dyadic; for the intermediate steps of R151 and R161,
which raise no flag. Overflow does not arise there; an overflowing value stays as it is. -/
def rneF32 (x : Dy) : Dy :=
  match (roundFin fmtF32 .rne false (decide (x.m < 0)) x.m.natAbs x.e false).code with
  | some c => (match decodeFmt fmtF32 c with
    | .fin n m e => ⟨sMant n m, e⟩
    | _ => x)
  | none => x

/-- T[j] of R151: the FP32 value nearest 2^(j/64); the 64th root of 2^(j + 64·25), rounded from 25
fraction bits to 23 (2^(j/64) is irrational or 1, so no tie arises). -/
def exp2Table (j : Nat) : Dy :=
  let r := root64Go (2 ^ (j + 64 * 25)) 27 0
  rneF32 ⟨2 * r + (if r ^ 64 = 2 ^ (j + 64 * 25) then 0 else 1), -26⟩

/-- The value q that the procedure of R151 forms for a fraction f in [0, 1). -/
def exp2Frac (f : Dy) : Dy :=
  let c1 := (decodeFmt fmtF32 0x3F317218).dy
  let c2 := (decodeFmt fmtF32 0x3E75FDF0).dy
  let c3 := (decodeFmt fmtF32 0x3D635847).dy
  let j := (Dy.mul f ⟨64, 0⟩).floor
  let r := f.add ⟨-j, -6⟩
  let u := rneF32 (c3.mul r)
  let u := rneF32 (c2.add u)
  let u := rneF32 (u.mul r)
  let u := rneF32 (c1.add u)
  let u := rneF32 (u.mul r)
  let q := rneF32 (Dy.add ⟨1, 0⟩ u)
  rneF32 ((exp2Table j.toNat).mul q)

/-- FEXP2 of one lane (R151, R152). -/
def fexp2Lane (f : Fmt) (mode : RMode) (sat : Bool) (c : Nat) : LaneRes :=
  match decodeFmt f c with
  | .nan => ⟨none, fNone⟩
  | .inf false => roundTo f mode sat (.inf false)
  | .inf true => ⟨some 0, fNone⟩
  | .fin n m e =>
    let a : Dy := ⟨sMant n m, e⟩
    if Dy.le ⟨128, 0⟩ a then overflowRes f mode sat false
    else
      let fl := a.floor
      let fr := a.add ⟨-fl, 0⟩
      let q := exp2Frac fr
      let r := roundFin f mode sat false q.m.natAbs (q.e + fl) false
      let whole : Bool := decide (fr.m = 0)
      ⟨r.code, r.fl ||| (if whole then fNone else fNX)⟩

/-- PEXP of one lane (R161): a_i and the reference m to a P4 code. -/
def pexpLane (a m : FVal) : LaneRes :=
  match addVal a m.negate with
  | .undef => ⟨none, fIV⟩
  | .inf true => ⟨some 0x3F, fNone⟩
  | .inf false => ⟨some 0xC0, fOF ||| fNX⟩
  | .divZero _ => ⟨some 0xC0, fOF ||| fNX⟩
  | .zero => ⟨some 0x00, fNone⟩
  | .fin n dm de _ =>
    match (roundFin fmtF32 .rne false n dm de false).code with
    | none => ⟨none, fIV⟩
    | some dc =>
      match decodeFmt fmtF32 dc with
      | .nan => ⟨none, fIV⟩
      | .inf true => ⟨some 0x3F, fNone⟩
      | .inf false => ⟨some 0xC0, fOF ||| fNX⟩
      | .fin dn dmm dee =>
        let d : Dy := ⟨sMant dn dmm, dee⟩
        let y := rneF32 (d.mul (decodeFmt fmtF32 0x3FB8AA3B).dy)
        -- beyond ±2^20 the outcome no longer depends on the fraction
        if Dy.le ⟨1048576, 0⟩ y then ⟨some 0xC0, fOF ||| fNX⟩
        else if Dy.le y ⟨-1048576, 0⟩ then ⟨some 0x3F, fUF ||| fNX⟩
        else
          let n0 := y.floor
          let fr := y.add ⟨-n0, 0⟩
          let g := exp2Frac fr
          let (k, n1) : Nat × Int :=
            if Dy.le g ⟨9, -3⟩ then (0, n0)
            else if Dy.lt g ⟨11, -3⟩ then (1, n0)
            else if Dy.le g ⟨13, -3⟩ then (2, n0)
            else if Dy.lt g ⟨15, -3⟩ then (3, n0)
            else (0, n0 + 1)
          let ex : Int := -n1
          if ex < 0 then ⟨some 0xC0, fOF ||| fNX⟩
          else if 63 ≤ ex then ⟨some 0x3F, fUF ||| fNX⟩
          else ⟨some (k * 64 + ex.toNat), if dmm = 0 then fNone else fNX⟩

end Sys2Proof.Machine
end

