-- ==== Sys2Proof/Machine/IntVal.lean ====
section
/-!
DEFINITION. The integer instructions as functions of their operand words (R113 to R136): one function
per instruction, lane by lane, with no state.
-/

set_option linter.unusedVariables false

namespace Sys2Proof.Machine

open Sys2Proof

/-- Lane by lane over two words (R115); the function gets the lanes as bits and gives a lane image. -/
def lanes2 (t : Ty) (f : Nat → Nat → Nat) (a b : Word) : Word :=
  fillTy t (List.zipWith f (lanesOf t a) (lanesOf t b))

/-- Lane by lane over one word (R115). -/
def lanes1 (t : Ty) (f : Nat → Nat) (a : Word) : Word := fillTy t ((lanesOf t a).map f)

/-- Lane by lane on the integers that the lanes read as, wrapping the result (R75). -/
def arith2 (t : Ty) (f : Int → Int → Int) : Word → Word → Word :=
  lanes2 t fun x y => wrapInt (tyWidth t) (f (readInt t x) (readInt t y))

def arith1 (t : Ty) (f : Int → Int) : Word → Word :=
  lanes1 t fun x => wrapInt (tyWidth t) (f (readInt t x))

/-- Clamping to the bounds of the type (R119). -/
def clampTy (t : Ty) (x : Int) : Int :=
  let w := tyWidth t
  let lo : Int := if tySigned t then -pow2 (w - 1) else 0
  let hi : Int := if tySigned t then pow2 (w - 1) - 1 else pow2 w - 1
  if x < lo then lo else if hi < x then hi else x

/-! R119: add, subtract, negate, absolute value. -/
def vAdd (t : Ty) : Word → Word → Word := arith2 t (· + ·)
def vSub (t : Ty) : Word → Word → Word := arith2 t (· - ·)
def vAdds (t : Ty) : Word → Word → Word := arith2 t fun x y => clampTy t (x + y)
def vSubs (t : Ty) : Word → Word → Word := arith2 t fun x y => clampTy t (x - y)
def vNeg (t : Ty) : Word → Word := arith1 t (0 - ·)
def vAbs (t : Ty) : Word → Word := arith1 t fun x => if x < 0 then 0 - x else x

/-! R121: multiply and divide. -/
def vMul (t : Ty) : Word → Word → Word := arith2 t (· * ·)

/-- The high half of the exact 2w-bit product (R121). -/
def vMulh (t : Ty) : Word → Word → Word :=
  let w := tyWidth t
  lanes2 t fun x y => wrapInt (2 * w) (readInt t x * readInt t y) / 2 ^ w

/-- Quotient rounded toward zero (R121). -/
def divTrunc (a b : Int) : Int := Int.tdiv a b

/-- The quotient row of R121 on lane values. -/
def divInt (t : Ty) (a b : Int) : Int :=
  if b = 0 then pow2 (tyWidth t) - 1
  else if tySigned t ∧ a = -pow2 (tyWidth t - 1) ∧ b = -1 then a
  else divTrunc a b

/-- The remainder row of R121 on lane values. -/
def remInt (t : Ty) (a b : Int) : Int :=
  if b = 0 then a
  else if tySigned t ∧ a = -pow2 (tyWidth t - 1) ∧ b = -1 then 0
  else a - b * divTrunc a b

def vDiv (t : Ty) : Word → Word → Word := arith2 t (divInt t)
def vRem (t : Ty) : Word → Word → Word := arith2 t (remInt t)

/-! R123: compares, extremum, select. -/
/-- The result of a compare (R123): 0 or 1 for a scalar, all ones or zeros per lane for a packed type. -/
def maskTy (t : Ty) (l : List Bool) : Word :=
  if tyPacked t then BitVec.ofNat 64 (packN (tyWidth t) (l.map fun c => if c then 2 ^ tyWidth t - 1 else 0))
  else if l.headD false then 1 else 0

def cmpTy (t : Ty) (f : Int → Int → Bool) (a b : Word) : Word :=
  maskTy t (List.zipWith (fun x y => f (readInt t x) (readInt t y)) (lanesOf t a) (lanesOf t b))

def vTeq (t : Ty) : Word → Word → Word := cmpTy t fun x y => decide (x = y)
def vTne (t : Ty) : Word → Word → Word := cmpTy t fun x y => decide (x ≠ y)
def vTlt (t : Ty) : Word → Word → Word := cmpTy t fun x y => decide (x < y)
def vTle (t : Ty) : Word → Word → Word := cmpTy t fun x y => decide (x ≤ y)
def vMin (t : Ty) : Word → Word → Word := arith2 t fun x y => if x ≤ y then x else y
def vMax (t : Ty) : Word → Word → Word := arith2 t fun x y => if y ≤ x then x else y

/-- SEL (R123): a whole value, extended from the type. -/
def vSel (t : Ty) (a b p : Word) : Word := fillTy t (lanesOf t (if p ≠ 0 then a else b))

/-! R126: logic, shift, rotate. -/
def vAnd (t : Ty) : Word → Word → Word := lanes2 t (fun x y => x &&& y)
def vOr (t : Ty) : Word → Word → Word := lanes2 t (fun x y => x ||| y)
def vXor (t : Ty) : Word → Word → Word := lanes2 t (fun x y => x ^^^ y)
def vAndn (t : Ty) : Word → Word → Word :=
  lanes2 t fun x y => x &&& (2 ^ tyWidth t - 1 - y)
def vNot (t : Ty) : Word → Word := lanes1 t fun x => 2 ^ tyWidth t - 1 - x

def shlN (w x k : Nat) : Nat := if k < w then x * 2 ^ k % 2 ^ w else 0
def shrN (w x k : Nat) : Nat := if k < w then x / 2 ^ k else 0
def sraN (w x k : Nat) : Nat :=
  let k' := if w ≤ k then w - 1 else k
  wrapInt w (sInt w x / pow2 k')
def rolN (w x k : Nat) : Nat :=
  let r := k % w
  x * 2 ^ r % 2 ^ w ||| x / 2 ^ (w - r)

def vShl (t : Ty) : Word → Word → Word := lanes2 t (shlN (tyWidth t))
def vShr (t : Ty) : Word → Word → Word := lanes2 t (shrN (tyWidth t))
def vSra (t : Ty) : Word → Word → Word := lanes2 t (sraN (tyWidth t))
def vRol (t : Ty) : Word → Word → Word := lanes2 t (rolN (tyWidth t))

/-! R128: counts and extensions. -/
def clzN (w x : Nat) : Nat := w - bitLen x

/-- Zero bits below the lowest set bit, at most `w`. -/
def ctzN : Nat → Nat → Nat
  | 0, _ => 0
  | w + 1, x => if x % 2 = 1 then 0 else ctzN w (x / 2) + 1

def popN : Nat → Nat → Nat
  | 0, _ => 0
  | w + 1, x => x % 2 + popN w (x / 2)

def vClz (t : Ty) : Word → Word := lanes1 t (clzN (tyWidth t))
def vCtz (t : Ty) : Word → Word := lanes1 t (ctzN (tyWidth t))
def vPopc (t : Ty) : Word → Word := lanes1 t (popN (tyWidth t))

/-- Bytes of the lane in reverse order. -/
def vBswap (t : Ty) : Word → Word :=
  lanes1 t fun x => ofBytesLE (bytesLE (tyWidth t / 8) x).reverse

def vSext (t : Ty) (n : Nat) : Word → Word :=
  lanes1 t fun x => wrapInt (tyWidth t) (sInt (n + 1) (bitsN x 0 (n + 1)))
def vZext (t : Ty) (n : Nat) : Word → Word := lanes1 t fun x => bitsN x 0 (n + 1)

/-- LEA (R130): a + b·2^s + off modulo 2^64. -/
def vLea (s : Fin 8) (off : BitVec 17) (a b : Word) : Word :=
  a + b * BitVec.ofNat 64 (2 ^ s.val) + off.signExtend 64

/-! R132: the immediate forms act as their register forms with the same lane image in every lane. -/
/-- The signed immediate in every lane of the type, as an operand word. -/
def immLanes (t : Ty) (imm : BitVec 20) : Word :=
  let x := wrapInt (tyWidth t) imm.toInt
  BitVec.ofNat 64 (packN (tyWidth t) (List.replicate (tyLanes t) x))

/-- The shift amount in every lane of the type. -/
def amtLanes (t : Ty) (k : Fin 64) : Word :=
  BitVec.ofNat 64 (packN (tyWidth t) (List.replicate (tyLanes t) k.val))

def vAddi (t : Ty) (imm : BitVec 20) (a : Word) : Word := vAdd t a (immLanes t imm)
def vAndi (t : Ty) (imm : BitVec 20) (a : Word) : Word := vAnd t a (immLanes t imm)
def vOri (t : Ty) (imm : BitVec 20) (a : Word) : Word := vOr t a (immLanes t imm)
def vXori (t : Ty) (imm : BitVec 20) (a : Word) : Word := vXor t a (immLanes t imm)
def vShli (t : Ty) (k : Fin 64) (a : Word) : Word := vShl t a (amtLanes t k)
def vShri (t : Ty) (k : Fin 64) (a : Word) : Word := vShr t a (amtLanes t k)
def vSrai (t : Ty) (k : Fin 64) (a : Word) : Word := vSra t a (amtLanes t k)
def vTeqi (t : Ty) (imm : BitVec 20) (a : Word) : Word := vTeq t a (immLanes t imm)
def vTlti (t : Ty) (imm : BitVec 20) (a : Word) : Word := vTlt t a (immLanes t imm)
def vTlei (t : Ty) (imm : BitVec 20) (a : Word) : Word := vTle t a (immLanes t imm)

/-- MOVI (R135): the lane image in every lane, extended as R73 states. -/
def vMovi (t : Ty) (imm : BitVec 20) : Word := fillTy t (lanesOf t (immLanes t imm))

/-- MOVHI (R135): bits [19:0] of a kept, bits [39:20] set. -/
def vMovhi (t : Ty) (imm : BitVec 20) (a : Word) : Word :=
  let x : BitVec 40 := imm ++ a.extractLsb' 0 20
  if t = .s64 then x.signExtend 64 else x.zeroExtend 64

end Sys2Proof.Machine
end

