-- ==== Sys2Proof/Machine/FloatVal.lean ====
section
/-!
DEFINITION. The floating-point and probability instructions as functions of their operand words (R137 to
R163): a value or the undefined result of R77, with the flags raised.
-/

set_option linter.unusedVariables false

namespace Sys2Proof.Machine

open Sys2Proof

/-- Result of a firing's body: a word, or none where a lane's exact result is undefined (R77). -/
structure FRes where
  val : Option Word
  fl : FFlags
deriving DecidableEq, Repr

/-- The firing's result from its lanes (R77, R81): undefined if any lane is, flags the OR of all. -/
def packRes (t : Ty) (l : List LaneRes) : FRes :=
  ⟨(l.mapM LaneRes.code).map fun cs => fillTy t cs, orFlags (l.map LaneRes.fl)⟩

def flanes1 (t : Ty) (f : FVal → EVal) (r : Round) (a : Word) : FRes :=
  packRes t ((lanesOf t a).map fun x => roundTo (tyFmt t) r.mode r.sat (f (decodeLane t x)))

def flanes2 (t : Ty) (f : FVal → FVal → EVal) (r : Round) (a b : Word) : FRes :=
  packRes t (List.zipWith
    (fun x y => roundTo (tyFmt t) r.mode r.sat (f (decodeLane t x) (decodeLane t y)))
    (lanesOf t a) (lanesOf t b))

def flanes3 (t : Ty) (f : FVal → FVal → FVal → EVal) (r : Round) (a b p : Word) : FRes :=
  packRes t (List.zipWith
    (fun (x : FVal × FVal) z => roundTo (tyFmt t) r.mode r.sat (f x.1 x.2 (decodeLane t z)))
    (List.zipWith (fun x y => (decodeLane t x, decodeLane t y)) (lanesOf t a) (lanesOf t b))
    (lanesOf t p))

/-- Exact product as a result. -/
def mulExact (x y : FVal) : EVal :=
  match mulVal x y with
  | none => .undef
  | some v => v.exact

/-! R142. -/
def vFadd (t : Ty) : Round → Word → Word → FRes := flanes2 t addVal
def vFsub (t : Ty) : Round → Word → Word → FRes := flanes2 t fun x y => addVal x y.negate
def vFmul (t : Ty) : Round → Word → Word → FRes := flanes2 t mulExact
def vFma (t : Ty) : Round → Word → Word → Word → FRes := flanes3 t mulAddVal
def vFms (t : Ty) : Round → Word → Word → Word → FRes := flanes3 t fun x y z => mulAddVal x y z.negate
def vFnma (t : Ty) : Round → Word → Word → Word → FRes := flanes3 t fun x y z => mulAddVal x.negate y z

/-! R144. -/
/-- FMIN: b where b orders below a, else a. -/
def vFmin (t : Ty) (a b : Word) : Word :=
  lanes2 t (fun x y => if ordLt (decodeLane t y) (decodeLane t x) then y else x) a b
/-- FMAX: b where b orders above a, else a. -/
def vFmax (t : Ty) (a b : Word) : Word :=
  lanes2 t (fun x y => if ordLt (decodeLane t x) (decodeLane t y) then y else x) a b
/-- Sign bit of a lane, as its weight. -/
def signBit (t : Ty) : Nat := 2 ^ (tyWidth t - 1)
def vFabs (t : Ty) (a : Word) : Word := lanes1 t (fun x => x % signBit t) a
def vFneg (t : Ty) (a : Word) : Word :=
  lanes1 t (fun x => if x < signBit t then x + signBit t else x - signBit t) a
def vFcps (t : Ty) (a b : Word) : Word :=
  lanes2 t (fun x y => x % signBit t + y / signBit t * signBit t) a b

/-! R146: compares by value. -/
def fcmp (t : Ty) (f : FVal → FVal → Bool) (a b : Word) : Word :=
  maskTy t (List.zipWith (fun x y => f (decodeLane t x) (decodeLane t y)) (lanesOf t a) (lanesOf t b))
def vTfeq (t : Ty) : Word → Word → Word := fcmp t valEq
def vTflt (t : Ty) : Word → Word → Word := fcmp t fun x y => ordLt x y && !valEq x y
def vTfle (t : Ty) : Word → Word → Word := fcmp t fun x y => ordLt x y || valEq x y
/-- TFUN's true and false results (R147). -/
def vTfun (t : Ty) (err : Bool) : Word := maskTy t (List.replicate (tyLanes t) err)

/-! R149, R151, R153. -/
def vFdiv (t : Ty) : Round → Word → Word → FRes := flanes2 t divVal
def vFsqrt (t : Ty) : Round → Word → FRes := flanes1 t sqrtVal
def vFrcp (t : Ty) : Round → Word → FRes := flanes1 t fun x => divVal (.fin false 1 0) x
def vFrsq (t : Ty) : Round → Word → FRes := flanes1 t rsqrtVal
def vFexp2 (t : Ty) (r : Round) (a : Word) : FRes :=
  packRes t ((lanesOf t a).map (fexp2Lane (tyFmt t) r.mode r.sat))
def vFrnd (t : Ty) (r : Round) (a : Word) : FRes :=
  packRes t ((lanesOf t a).map (frndLane (tyFmt t) r.mode))

/-! R154, R155: conversion without E2M1. -/
/-- One lane from type `s` to type `d`. -/
def cvtLane (d s : Ty) (r : Round) (x : Nat) : LaneRes :=
  if tyInt s ∧ tyInt d then
    let v := readInt s x
    if r.sat then
      let c := clampTy d v
      ⟨some (wrapInt (tyWidth d) c), if c = v then fNone else fOF⟩
    else ⟨some (wrapInt (tyWidth d) v), fNone⟩
  else
    let v := decodeLane s x
    if tyInt d then toIntLane d r.mode v
    else match d with
      | .p4x8 => toP4Lane r.mode v
      | _ => roundTo (tyFmt d) r.mode r.sat v.exact

/-- CVT of one firing (R154): the part q chooses the source or the destination lanes. -/
def vCvt (d s : Ty) (r : Round) (q : Nat) (a : Word) : FRes :=
  let ns := tyLanes s
  let nd := tyLanes d
  let src := lanesOf s a
  let z : LaneRes := ⟨some 0, fNone⟩
  if nd ≤ ns then packRes d (((src.drop (q * nd)).take nd).map (cvtLane d s r))
  else packRes d (List.replicate (q * ns) z ++ src.map (cvtLane d s r)
    ++ List.replicate (nd - q * ns - ns) z)

/-! R92, R159: the fixed pairwise tree. -/
/-- A node's input and output: an exact value, none once undefined, with the flags so far. -/
structure Node where
  v : Option FVal
  fl : FFlags
deriving DecidableEq, Repr

/-- One node: the exact sum, rounded once to the node format. -/
def nodeAdd (f : Fmt) (r : Round) (x y : Node) : Node :=
  match x.v, y.v with
  | some u, some w =>
    let l := roundTo f r.mode r.sat (addVal u w)
    ⟨l.code.map (decodeFmt f), x.fl ||| y.fl ||| l.fl⟩
  | _, _ => ⟨none, x.fl ||| y.fl⟩

/-- One level: results 2k and 2k + 1 are combined. -/
def treeLevel (f : Fmt) (r : Round) : List Node → List Node
  | x :: y :: t => nodeAdd f r x y :: treeLevel f r t
  | l => l

/-- The tree of R92 with at most `k` levels. -/
def tree (f : Fmt) (r : Round) : Nat → List Node → Node
  | 0, l => l.headD ⟨none, fNone⟩
  | k + 1, l => tree f r k (treeLevel f r l)

/-- The code of a node's exact value, which is a value of the format already. -/
def nodeRes (f : Fmt) (n : Node) : FRes :=
  match n.v with
  | none => ⟨none, n.fl⟩
  | some v => ⟨(roundTo f .rne false v.exact).code.map (BitVec.ofNat 64), n.fl⟩

/-- Node format of a reduction (R159). -/
def redFmt (t : Ty) (w : Bool) : Fmt := if w then fmtF32 else tyFmt t

/-- FSUM (R159): leaves are the lanes of a. -/
def vFsum (t : Ty) (r : Round) (w : Bool) (a : Word) : FRes :=
  nodeRes (redFmt t w) (tree (redFmt t w) r (bitLen (tyLanes t) - 1)
    ((lanesOf t a).map fun x => ⟨some (decodeLane t x), fNone⟩))

/-- FDOT (R159): leaves are the exact lane products; an undefined product is IV. -/
def vFdot (t : Ty) (r : Round) (w : Bool) (a b : Word) : FRes :=
  nodeRes (redFmt t w) (tree (redFmt t w) r (bitLen (tyLanes t) - 1)
    (List.zipWith (fun x y => match mulVal (decodeLane t x) (decodeLane t y) with
      | none => ⟨none, fIV⟩
      | some v => ⟨some v, fNone⟩) (lanesOf t a) (lanesOf t b)))

/-- PEXP (R161): lanes below n from the lanes of a and the f32 reference in b, 0x3F elsewhere. -/
def vPexp (t : Ty) (a b : Word) : FRes :=
  let m := decodeFmt fmtF32 (laneOf 32 0 b)
  let n := tyLanes t
  packRes .p4x8 ((lanesOf t a).map (fun x => pexpLane (decodeLane t x) m)
    ++ List.replicate (8 - n) ⟨some 0x3F, fNone⟩)

/-- PMAC (R162): the P4 weight times v, added exactly to p, rounded once. -/
def pmacVal (w v p : FVal) : EVal :=
  match w with
  | .fin _ 0 _ =>
    match v with
    | .inf _ => .undef
    | .nan => .undef
    | .fin _ _ _ => addVal p (.fin false 0 0)
  | _ => mulAddVal w v p

def vPmac (t : Ty) (r : Round) (a b p : Word) : FRes :=
  packRes t (List.zipWith
    (fun (x : FVal × FVal) z => roundTo (tyFmt t) r.mode r.sat (pmacVal x.1 x.2 (decodeLane t z)))
    (List.zipWith (fun x y => (decodeP4 x, decodeLane t y)) (lanesOf .p4x8 a) (lanesOf t b))
    (lanesOf t p))

/-! R157: the encoding CVT. An element is an exact value, or none for an ERROR element. -/
/-- Magnitude as a dyadic. -/
def magDy : FVal → Dy
  | .fin _ m e => ⟨m, e⟩
  | _ => .zero

/-- The finite element of largest magnitude, lowest index on ties (R94). -/
def maxMag : List (Option FVal) → FVal
  | l => l.foldl (fun best x => match x with
      | some (.fin n m e) => if Dy.lt (magDy best) ⟨m, e⟩ then .fin n m e else best
      | _ => best) (.fin false 0 0)

/-- floor(log2) of a nonzero finite magnitude. -/
def floorLog2 : FVal → Int
  | .fin _ m e => e + bitLen m - 1
  | _ => 0

/-- Members of C other than the special value: codes with their decoded values. -/
def regularCodes : List (Nat × FVal) :=
  ([0, 1, 2, 3, 4, 5, 6, 7, 9, 10, 11, 12, 13, 14, 15] : List Nat).map fun c => (c, decodeE2M1 c)

/-- |x - y| of two dyadics. -/
def distDy (x y : Dy) : Dy := let d := x.add y.neg; if d.m < 0 then d.neg else d

/-- The better of two candidate members for the scaled element v under a mode: nearer first, then the
tie rules of R157 (a regular code before the special value, bit 0 clear under RNE, the larger magnitude
under RNA). -/
def betterCode (mode : RMode) (v : Dy) (x y : Nat × FVal) : Nat × FVal :=
  let dx := distDy x.2.dy v
  let dy := distDy y.2.dy v
  if Dy.lt dy dx then y
  else if Dy.lt dx dy then x
  else if x.1 = 8 then y
  else if y.1 = 8 then x
  else match mode with
    | .rna => if Dy.lt (magDy x.2) (magDy y.2) then y else x
    | _ => if x.1 % 2 = 0 then x else y

/-- Members that lie in the mode's direction from v; all of them under RNE and RNA. -/
def inDirection (mode : RMode) (v : Dy) (x : Nat × FVal) : Bool :=
  match mode with
  | .rne | .rna => true
  | .rdn => Dy.le x.2.dy v
  | .rup => Dy.le v x.2.dy
  | .rtz => if 0 ≤ v.m then Dy.le .zero x.2.dy && Dy.le x.2.dy v
            else Dy.le x.2.dy .zero && Dy.le v x.2.dy

def pickCode (mode : RMode) (v : Dy) (l : List (Nat × FVal)) : Nat × FVal :=
  match l with
  | [] => (0, .fin false 0 0)
  | x :: t => t.foldl (betterCode mode v) x

/-- The member of largest magnitude among those with a sign. -/
def largestSigned (neg : Bool) (l : List (Nat × FVal)) : Nat × FVal :=
  (l.filter fun x => match x.2 with | .fin n _ _ => n == neg | _ => false).foldl
    (fun b x => if Dy.lt (magDy b.2) (magDy x.2) then x
      else if b.1 = 8 ∧ !Dy.lt (magDy x.2) (magDy b.2) then x else b) (0, .fin false 0 0)

/-- One element of the block: its code and flags (R157). -/
def encodeElem (mode : RMode) (scale : Nat) (c : List (Nat × FVal)) (x : Option FVal) : Nat × FFlags :=
  match x with
  | none => (8, fNone)
  | some .nan => (8, fNone)
  | some (.inf n) => ((largestSigned n c).1, fOF ||| fNX)
  | some (.fin n m e) =>
    let v : Dy := ⟨sMant n m, e - ((scale : Int) - 127)⟩
    let top := c.foldl (fun b y => if Dy.lt b (magDy y.2) then magDy y.2 else b) Dy.zero
    if Dy.lt top ⟨m, v.e⟩ then ((largestSigned n c).1, fOF ||| fNX)
    else
      let cand := c.filter (inDirection mode v)
      let k := pickCode mode v (if cand.isEmpty then c else cand)
      let inx : Bool := decide ((distDy k.2.dy v).m ≠ 0)
      let zer : Bool := decide (m ≠ 0) && decide (k.2.dy.m = 0)
      (k.1, (if inx then fNX else fNone) ||| (if zer then fUF else fNone))

/-- The block of R157 built from L elements: scale, special byte, codes, flags. -/
def encodeBlock (mode : RMode) (l : List (Option FVal)) : Nat × Nat × List Nat × FFlags :=
  let xm := maxMag l
  let scale : Nat := if (magDy xm).m = 0 then 127 else (max 0 (floorLog2 xm - 2 + 127)).toNat
  let anyErr : Bool := l.any fun x => match x with | none => true | some .nan => true | _ => false
  let special : Nat := if anyErr then 255
    else ((roundTo fmtE4M3 .rne false (xm.scale (127 - (scale : Int))).exact).code).getD 0
  let c := if anyErr then regularCodes else regularCodes ++ [(8, decodeFmt fmtE4M3 special)]
  let r := l.map (encodeElem mode scale c)
  (scale, special, r.map Prod.fst, orFlags (r.map Prod.snd))

end Sys2Proof.Machine
end

