-- ==== Sys2Proof/Machine/Tab.lean ====
section
/-!
DEFINITION. Sparse tables: a list of (key, value) pairs in ONE canonical form, keys strictly rising and
no value equal to what an unlisted key reads as. Memory, cores, lines, queues and contexts are held
this way, so equal contents are equal data.
-/

namespace Sys2Proof

/-- A sparse table from natural keys. -/
abbrev Tab (α : Type) := List (Nat × α)

/-- The value at a key; an unlisted key reads as `d`. -/
def tabGet {α : Type} (d : α) (k : Nat) : Tab α → α
  | [] => d
  | (j, v) :: t => if k = j then v else tabGet d k t

/-- Takes a key from the list. -/
def tabDel {α : Type} (k : Nat) : Tab α → Tab α
  | [] => []
  | (j, w) :: t => if k = j then tabDel k t else (j, w) :: tabDel k t

/-- Lists a key at its place. -/
def tabPut {α : Type} (k : Nat) (v : α) : Tab α → Tab α
  | [] => [(k, v)]
  | (j, w) :: t => if k < j then (k, v) :: (j, w) :: t else if k = j then (k, v) :: t else (j, w) :: tabPut k v t

/-- Writes a key, keeping the canonical form: writing what an unlisted key reads as removes the entry. -/
def tabSet {α : Type} [DecidableEq α] (d : α) (k : Nat) (v : α) (t : Tab α) : Tab α :=
  if v = d then tabDel k t else tabPut k v t

/-- Every key of the table lies above `b`. -/
def tabAbove {α : Type} (b : Nat) : Tab α → Bool
  | [] => true
  | (j, _) :: t => decide (b < j) && tabAbove b t

/-- The canonical form of a table whose unlisted keys read as `d`. -/
def tabWf {α : Type} [DecidableEq α] (d : α) : Tab α → Bool
  | [] => true
  | (j, v) :: t => decide (v ≠ d) && tabAbove j t && tabWf d t

end Sys2Proof
end

