-- ==== Sys2Proof/Machine/State.lean ====
section
/-!
DEFINITION. The state of the module: every piece of state the spec names, as plain data, and the state right
after reset. Sparse tables (`Tab`) hold what is indexed by a number; what an unlisted key reads as is the
default value of its type given here.
-/

set_option linter.unusedVariables false

namespace Sys2Proof.Machine

open Sys2Proof

/-! ## Tokens (R36 to R40) -/

/-- Kinds (R37). -/
inductive Kind where
  | data | null | error | stop (l : Fin 4) | marker | purge
deriving DecidableEq, Repr

/-- Actions (R36). -/
inductive Action where
  | consume | sticky | purge
deriving DecidableEq, Repr

/-- A tag (R39). -/
structure Tag where
  slot : BitVec 3
  unit : BitVec 13
  iter : BitVec 16
deriving DecidableEq, Repr

/-- A token (R36). `idx` is the instruction index, tile port or stream channel that target bits [6:0] name. -/
structure Tok where
  kind : Kind
  action : Action
  poison : Bool
  carry : Bool
  slot : Slot
  idx : Nat
  tag : Tag
  value : Word
deriving DecidableEq, Repr

/-- Where a token is bound on its core (R111). -/
inductive Dest where
  | pe (x y : Nat)
  /-- tile class and number (R111) -/
  | tile (cls num : Nat)
  /-- memory-port tile -/
  | port (p : Nat)
deriving DecidableEq, Repr

/-- A token in flight, with the context that sent it and its place of emission (R42, R59). -/
structure Flight where
  tok : Tok
  ctx : Nat
  src : Dest
  dest : Dest
deriving DecidableEq, Repr

/-- A token in an input buffer (R41): `reported` once its fault has been raised (R44, R57). -/
structure BufTok where
  tok : Tok
  ctx : Nat
  reported : Bool
deriving DecidableEq, Repr

/-- An operand held in a matching store under its key (R43): one token, or the tokens of a burst or a run
(R84, R157) in the order they were accepted. -/
structure Entry where
  ctx : Nat
  toks : List Tok
deriving DecidableEq, Repr

/-- A firing: the instruction's place, its tag and its matched operands (R43). `trestle` is set for an
instruction of a block. `h` numbers the configuration's slot image otherwise by the tag's slot. -/
structure Firing where
  core : Nat
  x : Nat
  y : Nat
  ctx : Nat
  trestle : Option Nat
  tag : Tag
  idx : Nat
  a : List Tok
  b : List Tok
  p : List Tok
deriving DecidableEq, Repr

/-- A pending purge's key (R50). -/
structure PKey where
  ctx : Nat
  slot : BitVec 3
  unit : BitVec 13
  idx : Nat
  op : Slot
deriving DecidableEq, Repr

/-- A loop window of an ITER node (R55): base and top, whether it is empty, the iterations retired above
base, and the token held at a. -/
structure Win where
  ctx : Nat
  slot : BitVec 3
  unit : BitVec 13
  empty : Bool
  base : BitVec 16
  top : BitVec 16
  retired : List (BitVec 16)
  held : Option Tok
  /-- a retirement held at b because it lies outside the window -/
  heldB : Option Tok
deriving DecidableEq, Repr

/-- A BREAK that holds its operand until ERET (R482). -/
structure HeldBreak where
  firing : Firing
  h : Hdr
deriving DecidableEq, Repr

/-- A processing element (R16, R41 to R56). -/
structure Pe where
  /-- input buffers, in arrival order; a token's port is its operand slot (log 6) -/
  bufs : List BufTok
  store : List Entry
  /-- spilled operands, the one spilled earliest first (R52) -/
  spill : List Entry
  /-- overflow frames taken, in chain order: context and index (R53) -/
  frames : List (Nat × Nat)
  /-- stopped for want of a frame (R54), and whether the fault of this stop was raised -/
  stopped : Bool
  stopReported : Bool
  purges : List PKey
  ready : List Firing
  /-- config slots whose image is resident (R266) -/
  resident : List Nat
  wins : List Win
  breaks : List HeldBreak
  /-- contexts whose MARKER has arrived (R471) -/
  marked : List Nat
deriving DecidableEq, Repr

def Pe.init : Pe :=
  ⟨[], [], [], [], false, false, [], [], [], [], [], []⟩

/-! ## Blocks and strands (R199 to R221) -/

/-- An activation frame in the frame cache (R200); registers that are not listed hold 0. -/
structure Frame where
  pres : Word
  err : Word
  link : Word
  ret : Word
  regs : Tab Word
deriving DecidableEq, Repr

def Frame.init : Frame := ⟨1, 0, 0, 0, []⟩

/-- Strand states (R213). -/
inductive StrandSt where
  | ready | fetching | running | trapped | halted | cancelled
deriving DecidableEq, Repr

/-- A resident strand (R199). `frPa` lists the physical bases of the frame's 64-byte parts, with which it
was taken (R201). -/
structure Strand where
  ctx : Nat
  unit : BitVec 13
  fp : Word
  bp : Word
  st : StrandSt
  frame : Frame
  frPa : Option (List Nat)
  /-- blocks committed so far: the step of R354 -/
  steps : Nat
  /-- the trestle that keeps the last block's copy under KEEP (R204) -/
  kept : Option Nat
  /-- a block discarded for POISON: 1 runs again after repair, 2 runs again (R478) -/
  rerun : Nat
deriving DecidableEq, Repr

/-- What an access does at its home or its tile (R164, R183, R194, R315, R389, R449). -/
inductive AccOp where
  /-- LD, LDX and a stream's or tile's plain load -/
  | load
  /-- LDT: a load that leaves a read lease even with no targets (R176) -/
  | loadTracked
  | store (bytes : List Byte)
  | prefetch (scope : Nat)
  /-- an atomic: operation code as the opcode's low four bits 0 to 8, operands b and p -/
  | atomic (op : Nat) (b p : Word)
  /-- an ordered skip (R186): advances the lane, emits the kind and value given -/
  | skip (k : Kind) (v : Word)
  | waita (b : Word)
  | wake
  | fence (rel acq : Bool)
  /-- barrier operations (R316): 0 BARINIT, 1 BARADD, 2 BARARR -/
  | barrier (op : Nat) (n : Int)
  | barwt (phase : Nat)
  | bartst
  /-- a settled read of a derived result (R439) -/
  | dld (j : Nat)
  /-- a report of a numbered instruction that performs no access (R286) -/
  | report
  /-- an instruction that is examined anew each time its port or front end reaches it -/
  | ctl
deriving DecidableEq, Repr

/-! ## Requests -/

/-- Where a request stands. -/
inductive Stage where
  /-- waits for an order rule or a room; examined again (R170, R286, R278, R301) -/
  | blocked
  /-- waits at its home for a host's write-back (R412) -/
  | recalling
  /-- the access may be performed at its home -/
  | issued
  /-- stopped by a restartable fault (R175) -/
  | held
  /-- registered with a waiter table (R194) -/
  | sleeping
  /-- found no waiter entry: polls (R194) -/
  | polling
  /-- in an ordered-atomic lane's buffer (R186) -/
  | laneWait
  /-- refused by the lane's slice or the lane (R186, R187) -/
  | laneRefused
  /-- sent over a link, answer outstanding (R495) -/
  | remote (port : Nat)
  /-- performed; its token is still to be emitted -/
  | performed
deriving DecidableEq, Repr

/-- Who issued a request (R196). -/
inductive ReqSrc where
  | port (p : Nat) | front (t : Nat) | walker
deriving DecidableEq, Repr

/-- One outstanding request of an instruction. -/
structure Req where
  id : Nat
  instr : Instr
  firing : Firing
  src : ReqSrc
  stage : Stage
  va : Nat
  pa : Nat
  size : Nat
  op : AccOp
  ty : Ty
  scope : Nat
  acq : Bool
  rel : Bool
  ordd : Bool
  lsid : Nat
  /-- sequence number in the configuration (R285); 0 for none -/
  own : Nat
  /-- translated already, with this leaf (R173) -/
  translated : Bool
  leaf : Word
  /-- slices whose flush marker has arrived (R439) -/
  marks : List Nat
  /-- reported to its port (R286) -/
  reported : Bool
  /-- result tokens: kind, value, whether t1 differs -/
  rk : Kind
  rv : Word
  rv2 : Word
  /-- the tokens carry a completion (R353) -/
  carry : Bool
  /-- clk at which the request was sent to a link or began its wait (R278, R495) -/
  since : Nat
  /-- status handle, region or descriptor the request waits on -/
  aux : Nat
deriving DecidableEq, Repr

/-- State of one LSID of an instance (R170, R206): which loads, stores and fences fired or were nulled, the
indices counted, and whether the store mask's entry is nulled. -/
structure LState where
  fired : Bool
  nulled : Bool
  /-- consumed under a false predicate (R170, R190) -/
  dropped : List Nat
  counted : List Nat
deriving DecidableEq, Repr

def LState.init : LState := ⟨false, false, [], []⟩

/-- State of one write-mask register of an instance (R206). -/
structure WState where
  counted : List (Nat × Kind × Word)
  nulled : Bool
deriving DecidableEq, Repr

def WState.init : WState := ⟨[], false⟩

/-- An exit taken (R206, R219), by kind of exit, with its operand and the word's offset. -/
inductive ExitKind where
  | bro (off : BitVec 28) | bri (a : Word) | call (off : BitVec 28) (a : Word) | ret (m : Word) | halt
deriving DecidableEq, Repr

/-- A commit-time action of an instance (R243, R327, R369, R481). -/
structure Act where
  idx : Nat
  instr : Instr
  firing : Firing
deriving DecidableEq, Repr

/-- A block instance on a trestle (R203 to R210), with the copy of the image that was read (R109). -/
structure Inst where
  ctx : Nat
  unit : BitVec 13
  hdr : Nat
  h0 : Nat
  h1 : Nat
  words : List Nat
  /-- physical addresses of the image's 8-byte words as they were fetched (R109, R204) -/
  imgPa : List Nat
  mapped : Bool
  lsids : Tab LState
  wregs : Tab WState
  exits : List (Nat × ExitKind)
  nulledExits : Nat
  voidExits : Nat
  /-- held stores and held atomics (R170, R185), each with the translation it drew when it fired -/
  held : List Req
  acts : List Act
  flags : BitVec 5
  /-- clk counted by the watchdog (R210) -/
  count : Nat
  /-- replayed once after POISON (R478) -/
  replayed : Bool
  /-- performed an early atomic, or released a store early (R185) -/
  early : Bool
  /-- the strand traps after the commit: a TRACK_MISMATCH trap (R363) -/
  trapAfter : Bool
deriving DecidableEq, Repr

/-- A trestle (R203). -/
inductive Trestle where
  | free
  /-- reserved for a strand's fetch, by (context, unit) -/
  | fetching (ctx : Nat) (unit : BitVec 13)
  | busy (i : Inst)
deriving DecidableEq, Repr

/-! ## Configurations (R254 to R282) -/

/-- A config slot image (R110): instruction words and route entries. -/
structure Image where
  x : Nat
  y : Nat
  slot : Nat
  words : List Nat
  routes : List Nat
deriving DecidableEq, Repr

/-- A configuration held whole: what the region configuration cache keeps (R257, R262). -/
structure Config where
  ctx : Nat
  cfgid : Nat
  digest : List Byte
  addr : Nat
  slots : Nat
  eager : Bool
  spares : List (Nat × Nat)
  roles : List Nat
  keep : Nat
  ibase : BitVec 16
  sub1 : List Nat
  sub2 : List Nat
  fifo : List Nat
  /-- valid binding-table entries: port, direction, descriptor address (R256) -/
  ports : List (Nat × Bool × Nat)
  images : List Image
deriving DecidableEq, Repr

/-- Cache entry states (R263). -/
inductive CfgSt where
  | absent | loading | resident | pinned
deriving DecidableEq, Repr

/-- A region configuration cache entry; `used` orders by last binding (R262). While it is Loading, `bad` is the verdict of its
checks (R259: cause code, array index, failing word), `core` the core for which it loads, and `by_` the CFGLD that
waits for it, 0 for a placement. -/
structure CacheEnt where
  cfg : Config
  st : CfgSt
  used : Nat
  bad : Option (Nat × Nat × Nat)
  core : Nat
  by_ : Nat
deriving DecidableEq, Repr

/-- Binding states (R270). -/
inductive BindSt where
  | live | idle | draining | drained | repairing
deriving DecidableEq, Repr

/-- A binding on a core; `cfg` holds the images with PEs moved by repair (R271); `prior` is the state to
return to. -/
structure Binding where
  cfg : Config
  st : BindSt
  prior : BindSt
  /-- positions moved by repair: (x, y) now, (x, y) of the images' config words -/
  moved : List (Nat × Nat × Nat × Nat)
deriving DecidableEq, Repr

/-- The port chains of one unit on a core (R286): the oldest unresolved iteration, how often iterations have
wrapped (R354), and the reports that have arrived, by iteration and sequence number. -/
structure Chain where
  ctx : Nat
  unit : BitVec 13
  cfgid : Nat
  oldest : BitVec 16
  wraps : Nat
  reps : List (Nat × Nat)
deriving DecidableEq, Repr

/-! ## Streams, merge, matrix (R283 to R314) -/

/-- States of a stream context (R296). -/
inductive StreamSt where
  | free | running | held | closed
deriving DecidableEq, Repr

/-- A stream context (R287 to R296). -/
structure Stream where
  st : StreamSt
  ctx : Nat
  unit : BitVec 13
  k : Nat
  base : Nat
  counts : List Nat
  strides : List Int
  ibase : BitVec 16
  ty : Ty
  slot : Nat
  output : Bool
  levels : Nat
  mode : Nat
  window : Nat
  burst : Nat
  route : Nat
  croute : Nat
  cbase : Nat
  ustride : Int
  custride : Int
  /-- next element's indices (i0 to i3), elements done, tokens emitted or processed (R290, R292) -/
  pos : List Nat
  done : Nat
  emitted : Nat
  /-- a stop owed after the last element: its level, none when an element comes next -/
  owed : Option Nat
  /-- output tokens accepted and not processed (R292), of channels 0 and 1 -/
  early : List Tok
  early1 : List Tok
  overrun : Bool
  error : Bool
deriving DecidableEq, Repr

def Stream.init : Stream :=
  ⟨.free, 0, 0, 0, 0, [], [], 0, .s64, 0, false, 0, 0, 0, 0, 0, 0, 0, 0, 0, [], 0, 0, none, [], [],
    false, false⟩

/-- A merge node (R298); unconfigured until MRGCFG. -/
structure MergeNode where
  configured : Bool
  ctx : Nat
  route : Nat
  slot : Nat
  unit : BitVec 13
  ibase : BitVec 16
  key : Nat
  desc : Bool
  emitted : Nat
  ina : List BufTok
  inb : List BufTok
deriving DecidableEq, Repr

def MergeNode.init : MergeNode := ⟨false, 0, 0, 0, 0, 0, 0, false, 0, [], []⟩

/-- An accumulator entry of the matrix tile: a code of FP32 or s32, or ERROR (R91, R303). -/
inductive Acc where
  | val (c : Nat) | error
deriving DecidableEq, Repr

/-- A plane's state (R308). -/
inductive PlaneSt where
  | empty | loading | full
deriving DecidableEq, Repr

/-- What the tile is doing (R308). -/
inductive TileSt where
  | unowned | idle | streaming | held | swapping | reading
deriving DecidableEq, Repr

/-- A command in the tile's store or in progress (R304): the instruction, its firing, the rows or stores
already performed (R307, R310). -/
structure MCmd where
  instr : Instr
  firing : Firing
  done : Nat
deriving DecidableEq, Repr

/-- The matrix tile (R303 to R308). -/
structure MTile where
  owner : Option (Nat × BitVec 13)
  st : TileSt
  wty : Ty
  aty : Ty
  plane : List Byte
  pst : PlaneSt
  shadow : List Byte
  sst : PlaneSt
  /-- the MWLD that loads, stopped by a restartable fault or not -/
  load : Option MCmd
  loadHeld : Bool
  accs : Tab Acc
  written : List Nat
  gen : BitVec 16
  d : Nat
  ready : Option (BitVec 16)
  cmds : List MCmd
  /-- the operation in progress -/
  run : Option MCmd
deriving DecidableEq, Repr

def MTile.init : MTile :=
  ⟨none, .unowned, .e4m3x8, .e4m3x8, [], .empty, [], .empty, none, false, [], [], 0, 0, none, [], none⟩

/-- A memory tile (R166, R267, R268): role 0 cache, 1 buffer, 2 FIFO; its bytes or its entries. -/
structure MemTile where
  role : Nat
  owner : Option (Nat × Nat)
  bytes : Tab Byte
  fifo : List (Tok × Nat)
deriving DecidableEq, Repr

def MemTile.init : MemTile := ⟨0, none, [], []⟩

/-- A memory-port tile (R283, R286). -/
structure PortTile where
  streams : Tab Stream
  bufs : List BufTok
deriving DecidableEq, Repr

def PortTile.init : PortTile := ⟨[], []⟩

/-- A translation in a TLB (R358, R359): context, virtual base and size, physical base, leaf bits, and the address of the
leaf for fault records (R468). -/
structure TlbEnt where
  ctx : Nat
  va : Nat
  size : Nat
  pa : Nat
  leaf : Word
  entry : Nat
deriving DecidableEq, Repr

/-- A copy of a line in an L1 or a replica (R396, R399, R406). -/
structure LineCopy where
  line : Nat
  span : Nat
  wts : Nat
  rts : Nat
  bytes : List Byte
deriving DecidableEq, Repr

/-- A cached sequence descriptor (R377, R381). -/
structure KvDesc where
  ctx : Nat
  seq : Nat
  /-- virtual address of the descriptor -/
  va : Nat
  length : Nat
  layers : Nat
  heads : Nat
  rowbytes : Nat
  streams : Nat
  pool : Nat
  ro : Bool
deriving DecidableEq, Repr

/-- A cached KV page (R381): its block, Wr and rowbytes, with the virtual addresses of the table entries that led to
it (R382). -/
structure KvPage where
  ctx : Nat
  seq : Nat
  stream : Nat
  page : Nat
  block : Nat
  wr : Bool
  rowbytes : Nat
  uses : List Nat
deriving DecidableEq, Repr

/-- The KV walker tile of a core (R381, R385). -/
structure Walker where
  desc : List KvDesc
  pages : List KvPage
deriving DecidableEq, Repr

def Walker.init : Walker := ⟨[], []⟩

/-- A core (R16). -/
structure Core where
  pts : Nat
  rmax : Nat
  /-- clk of the last advance of pts (R402) -/
  ptsClk : Nat
  /-- PEs whose next firing fails its residue or parity check, and PEs marked as failed (R477, R271) -/
  failing : List (Nat × Nat)
  failed : List (Nat × Nat)
  tlb : List TlbEnt
  l1 : List LineCopy
  pes : Tab Pe
  flights : List Flight
  strands : List Strand
  trestles : Tab Trestle
  tiles : Tab MemTile
  ports : Tab PortTile
  chains : List Chain
  nodes : Tab MergeNode
  matrix : MTile
  walker : Walker
  bindings : List Binding
  /-- configurations no longer placed on this core (R272) -/
  banned : List (Nat × Nat)
  /-- contexts for which a cut's markers have been sent here (R471) -/
  cutting : List Nat
  /-- contexts whose faults of quiescence have been raised since they last moved (R58) -/
  quiet : List Nat
  /-- tags that cannot be replayed: they passed a retagging instruction or performed an atomic (R478) -/
  noReplay : List (Nat × Tag)
  /-- refused tags that wait for repair (R477, R478) -/
  refused : List (Nat × Tag)
deriving DecidableEq, Repr

def Core.init : Core :=
  ⟨0, 0, 0, [], [], [], [], [], [], [], [], [], [], [], [], MTile.init, Walker.init, [], [], [], [], [], []⟩

/-- A cluster (R15, R262, R235). -/
structure Cluster where
  cache : List CacheEnt
  tlb : List TlbEnt
  fused : Bool
  /-- counts bindings, for the least recently bound choice (R262) -/
  useClk : Nat
deriving DecidableEq, Repr

def Cluster.init : Cluster := ⟨[], [], false, 0⟩

/-! ## Engines, derived regions, home slices (R315 to R333, R395 to R452) -/

/-- Job states (R324). -/
inductive JobSt where
  | posted | waiting | running | complete | failed | cancelled | saved
deriving DecidableEq, Repr

/-- An inbox entry (R318 to R325). -/
structure Job where
  used : Bool
  gen : Nat
  st : JobSt
  ctx : Nat
  card : List Byte
  ring : List Byte
  landed : Nat
  cause : Nat
  /-- launch of the posting unit (R325), its unit and firing key for deterministic order (R320) -/
  launch : Option Nat
  unit : Nat
  key : Nat
  order : Nat
  jts : Nat
  /-- physical addresses of barrier, completion word and reply (R323); 0 for none -/
  barPa : Nat
  cwPa : Nat
  rpPa : Nat
  started : Bool
  /-- collective (R499 to R501): the step in progress, the clk of the last flit heard, the flit of the step that is not
  acknowledged, and whether the step's chunk is written -/
  step : Nat
  since : Nat
  sent : Option (Nat × Nat)
  got : Bool
deriving DecidableEq, Repr

def Job.init : Job :=
  ⟨false, 0, .posted, 0, [], [], 0, 0, none, 0, 0, 0, 0, 0, 0, 0, false, 0, 0, none, false⟩

/-- States of a derived region (R444). -/
inductive RegSt where
  | free | building | active | suspended | resyncing
deriving DecidableEq, Repr

/-- One result of a region (R431 to R440): exact sum as an integer at the region's scale, counts of infinities
and ERROR elements, the extremum's element, stale and publication state. -/
structure Result where
  sum : Int
  pinf : Int
  ninf : Int
  errs : Int
  /-- index and code of the current extremum -/
  ext : Option (Nat × Nat)
  stale : Bool
  pub : Option (Kind × Word)
  changed : Nat
  dirty : Bool
deriving DecidableEq, Repr

def Result.init : Result := ⟨0, 0, 0, 0, none, false, none, 0, false⟩

/-- A derived region (R428 to R444): its record, its frames and results. -/
structure Region where
  st : RegSt
  gen : Nat
  ctx : Nat
  record : List Byte
  /-- virtual page number and physical frame of every page of the base -/
  frames : List (Nat × Nat)
  results : Tab Result
  /-- request that waits for the build, 0 for none -/
  req : Nat
deriving DecidableEq, Repr

def Region.init : Region := ⟨.free, 0, 0, [], [], [], 0⟩

/-- A delta on its way to a keystone unit (R435, R438): region and result, the slice that formed it, what it
adds to the accumulator and the counts, and the changed elements (index, old, new code) of an extremum. -/
structure Delta where
  region : Nat
  res : Nat
  home : Nat
  sum : Int
  pinf : Int
  ninf : Int
  errs : Int
  elems : List (Nat × Nat × Nat)
deriving DecidableEq, Repr

/-- A waiter of a slice (R194). -/
structure Waiter where
  id : Nat
  pa : Nat
deriving DecidableEq, Repr

/-- An ordered-atomic lane (R186): context, granule, expected number, buffered (number, request). -/
structure Lane where
  ctx : Nat
  granule : Nat
  n : BitVec 16
  buf : List (BitVec 16 × Nat)
deriving DecidableEq, Repr

/-- A region tracker entry (R408): the 64 KiB region, the replica die mask, reads from each die, writes, the
hold bit, and the order of its last use. -/
structure Track where
  region : Nat
  mask : Nat
  rd : List Nat
  wr : Nat
  hold : Bool
  used : Nat
deriving DecidableEq, Repr

/-- An L2 slice (R186, R194, R397, R408, R411). -/
structure Slice where
  mts : Nat
  waiters : List Waiter
  lanes : List Lane
  tracks : List Track
  /-- directory (R411): slot (table × 1,024 + bucket) × 4 + k to line number + 1 -/
  dir : Tab Nat
deriving DecidableEq, Repr

def Slice.init : Slice := ⟨0, [], [], [], []⟩

/-- The lease state of a home line and its host spans (R397, R399, R403, R412). -/
structure Line where
  wts : Nat
  rts : Nat
  inL2 : Bool
  /-- per 64-byte half: 0 none, 1 shared, 2 owned by a host, 3 owned and being recalled; and the host's master number -/
  half0 : Nat
  half1 : Nat
  host0 : Nat
  host1 : Nat
  /-- clk at which each half was recalled (R498) -/
  since0 : Nat
  since1 : Nat
deriving DecidableEq, Repr

def Line.init : Line := ⟨0, 0, false, 0, 0, 0, 0, 0, 0⟩

/-- A die (R15, R318, R406, R432). -/
structure Die where
  jobs : Tab Job
  jobSeq : Nat
  regions : Tab Region
  deltas : List Delta
  /-- results that became stale, the first one first (R436) -/
  rescans : List (Nat × Nat)
  slices : Tab Slice
  replicas : List LineCopy
  /-- weighted round robin (R236) by class: the pointer and the records taken at it -/
  rr : List (Nat × Nat × Nat)
  /-- translation caches of the base dies of its stacks (R322) -/
  baseTlb : List TlbEnt
deriving DecidableEq, Repr

def Die.init : Die := ⟨[], 0, [], [], [], [], [], [], []⟩

/-! ## Queues, groups, units (R222 to R249) -/

/-- Queue states (R225). -/
inductive QSt where
  | disabled | enabled | stopped | draining
deriving DecidableEq, Repr

/-- A host work queue (R223, R228, R229). `open_` lists records taken and not complete with their group. -/
structure Queue where
  tail : BitVec 32
  head : BitVec 32
  cause : BitVec 8
  ctx : BitVec 12
  st : QSt
  weight : BitVec 8
  cls : BitVec 3
  size : BitVec 4
  base : BitVec 48
  age : BitVec 32
  /-- current groups of the levels graph, phase, job -/
  cur2 : Option Nat
  cur3 : Option Nat
  cur4 : Option Nat
  open_ : List (Nat × Nat)
  /-- clk since which the head has been dispatchable (R236) -/
  since : Option Nat
deriving DecidableEq, Repr

def Queue.init : Queue :=
  ⟨0, 0, 0, 0, .disabled, 1, 7, 0, 0, 1024, none, none, none, [], none⟩

/-- A group-table entry (R229, R230, R240): a launch, graph, phase or job. -/
structure Group where
  used : Bool
  gen : Nat
  level : Nat
  ctx : Nat
  parent : Option Nat
  counter : Nat
  closed : Bool
  cancelled : Bool
  done : Bool
  cvalue : Nat
  caddr : Nat
  queue : Nat
deriving DecidableEq, Repr

def Group.init : Group := ⟨false, 0, 0, 0, none, 0, false, false, false, 0, 0, 0⟩

/-- Unit states (R248). -/
inductive UnitSt where
  | waiting | live
deriving DecidableEq, Repr

/-- A unit that has not completed, or whose strand still runs after UNITEND (R231 to R234, R244). -/
structure Work where
  ctx : Nat
  num : BitVec 13
  core : Nat
  st : UnitSt
  group : Nat
  k : Nat
  strand : Bool
  fuse : Bool
  entry : Nat
  frame : Nat
  /-- class c′ and order of taking (R237) -/
  cls : Nat
  order : Nat
  ended : Bool
  cancelled : Bool
  /-- blocks committed before the strand left its core (R244, R354) -/
  steps : Nat
  /-- waits for its queue to be enabled again (R264) -/
  stalled : Bool
deriving DecidableEq, Repr

/-! ## Contexts (R459 to R476) -/

/-- Context states (R464). -/
inductive CtxSt where
  | absent | idle | running | cutting | saving | saved | resuming
deriving DecidableEq, Repr

/-- A cut in progress (R470, R471): operation, class, the request that waits, and whether a host asked. -/
structure Cut where
  checkpoint : Bool
  cls : Nat
  req : Option Nat
  host : Option Nat
deriving DecidableEq, Repr

/-- A fault record of a context in deterministic mode that waits for its place in order (R469): its logical
identifier (unit, step, position), its cause code and its bytes but for the number. -/
structure PendRec where
  unit : Nat
  step : Nat
  pos : Nat
  cause : Nat
  bytes : List Byte
deriving DecidableEq, Repr

/-- A context's registers (R461 to R466). -/
structure Ctx where
  gov : BitVec 12
  priv : Priv
  valid : Bool
  det : Bool
  lease : BitVec 8
  tmen : Bool
  brk : Bool
  flags : BitVec 5
  wdog : BitVec 32
  st : CtxSt
  tm : Bool
  lost : Bool
  ptroot : BitVec 52
  kvBase : Word
  kvCnt : BitVec 21
  ovfBase : Word
  ovfCnt : BitVec 16
  frBase : BitVec 52
  frSize : BitVec 5
  saveBase : BitVec 52
  qsel : BitVec 14
  seq : BitVec 32
  cut : Option Cut
  /-- overflow frames in use: index (R53) -/
  ovfUsed : List Nat
  /-- fault records not yet written (R469) -/
  pend : List PendRec
deriving DecidableEq, Repr

def Ctx.init : Ctx :=
  ⟨0, .user, false, false, 10, false, false, 0, 65536, .absent, false, false, 0, 0, 0, 0, 0, 0, 4, 0, 0, 0,
    none, [], []⟩

/-- A save image that this module has written (R472 to R474; log 5): its bytes, and the state of the context at its cut,
part by part. -/
structure SaveImg where
  bytes : List Byte
  ctx : Nat
  base : Nat
  m : Nat
  regs : Ctx
  cores : List (Nat × Core)
  reqs : List Req
  works : List Work
  queues : List (Nat × Queue)
  groups : List (Nat × Group)
  jobs : List (Nat × Job)
  lanes : List (Nat × Nat × Lane)
deriving DecidableEq, Repr

/-! ## Frames of memory, links, management (R363 to R368, R489 to R514) -/

/-- A migration in progress (R366): the frame that receives it, the PGMIG and its context and core, the virtual pages a and
b, the addresses of their leaves and the values that PGMIG wrote there, the next line to copy, and the lines recopied. -/
structure Mig where
  to_ : Nat
  req : Nat
  ctx : Nat
  core : Nat
  va : Nat
  vb : Nat
  ea : Nat
  eb : Nat
  wa : Nat
  wb : Nat
  next : Nat
deriving DecidableEq, Repr

/-- A flip or migration of a 64 KiB frame (R365, R366). -/
inductive FlipSt where
  | stable
  /-- Flipping: to which bias, the leaf whose B is to be written (0 for none), the halves recalled, and for which BIASREQ or
  which host master -/
  | flipping (toHost : Bool) (entry count : Nat) (req host : Option Nat)
  | copying (m : Mig)
  | freezing (m : Mig)
  /-- receives a migration -/
  | staging (req : Nat)
deriving DecidableEq, Repr

/-- A 64 KiB frame's bias and transition (R363 to R366); `copied` lists line numbers whose copied bit is set. -/
structure FrameSt where
  hostBias : Bool
  st : FlipSt
  copied : List Nat
deriving DecidableEq, Repr

def FrameSt.init : FrameSt := ⟨false, .stable, []⟩

/-- Port states (R493) and modes (R494). -/
inductive PortSt where
  | down | training | active | degraded | retraining
deriving DecidableEq, Repr

/-- A link port (R489 to R497). -/
structure Link where
  en : Bool
  /-- a peer is on the port -/
  present : Bool
  st : PortSt
  mode : BitVec 2
  lanes : BitVec 8
  peer : BitVec 11
  replays : BitVec 16
  cto : BitVec 12
  cxlen : Bool
  seqTx : BitVec 12
  seqRx : BitVec 12
  unacked : List Nat
  naks : Nat
  since : Nat
deriving DecidableEq, Repr

def Link.init : Link := ⟨true, false, .down, 0, 0, 0, 0, 1000, false, 0, 0, [], 0, 0⟩

/-- A host's mailbox (R510). -/
structure Mailbox where
  bytes : Tab Byte
  /-- the command that is pending, 0 for none -/
  pending : Nat
deriving DecidableEq, Repr

def Mailbox.init : Mailbox := ⟨[], 0⟩

/-- Module-wide state of the clock hub and the management controller (R397, R404, R480, R505 to R514). -/
structure Mgmt where
  ready : Bool
  recovery : Bool
  thr : Bool
  hot : Bool
  watts : BitVec 16
  tj : BitVec 8
  accept : BitVec 8
  stopped : Bool
  owned : Bool
  owner : BitVec 4
  attached : BitVec 16
  epoch : BitVec 32
  /-- clk of the last CLAIM that won, and of the last step of accept (R512, R514) -/
  claimClk : Option Nat
  thrClk : Nat
  /-- clk of the last scrub pass (R479) -/
  scrubClk : Nat
  tf : Nat
  m : Nat
  /-- logical time of each host master (R397) -/
  hts : Tab Nat
  rebasing : Option Nat
  scrubs : Nat
  /-- clk of the last halving of the tracker counters (R408) -/
  decayClk : Nat
  rplctl : Word
  node : BitVec 11
  boxes : Tab Mailbox
  window : Tab Byte
  /-- the flash's firmware image and the verified running image's digest (R506) -/
  flash : List Byte
  running : Option (List Byte)
deriving DecidableEq, Repr

/-- What moves next (log 1): an event of the table, a PE's issue, the network, the clock, or a host access. -/
inductive Move where
  | event (i : Instr)
  | issue (core x y : Nat)
  | deliver (core n : Nat)
  | tick (n : Nat)
  /-- a fault of the hardware: the next firing of a PE fails, or stored data becomes uncorrectable (R479) -/
  | failPe (core x y : Nat)
  | failData (granule : Nat)
deriving DecidableEq, Repr

/-- The state of the module. -/
structure State where
  clk : Nat
  agenda : List Move
  cur : Firing
  freeCtr : Nat
  nextId : Nat
  order : Nat
  mem : Tab Byte
  /-- 8-byte granules whose stored data is uncorrectable (R477) -/
  bad : List Nat
  cores : Tab Core
  clusters : Tab Cluster
  dies : Tab Die
  lines : Tab Line
  frames : Tab FrameSt
  ctxs : Tab Ctx
  queues : Tab Queue
  groups : Tab Group
  works : List Work
  reqs : List Req
  saves : List SaveImg
  links : Tab Link
  mgmt : Mgmt
deriving DecidableEq, Repr

/-- Reasons a step could stop the machine. No step of the module raises one: every fault of the spec is a
record and a token, a trap or a held request (R174, R175, R209). -/
inductive Fault where
  /-- Raised by no meaning. Safe: the machine would stop where the hardware goes on. -/
  | none
deriving DecidableEq, Repr

/-- Reasons for refusing an instruction. -/
inductive Refusal where
  /-- Raised by an arm of `exec` whose instruction has no meaning yet. Safe: the machine stops. -/
  | notModelled (mnemonic : String)
deriving DecidableEq, Repr

/-- An empty firing: what `cur` holds before any instruction has issued (log 1). -/
def Firing.init : Firing := ⟨0, 0, 0, 0, none, ⟨0, 0, 0⟩, 0, [], [], []⟩

/-- The management state at cold reset (R480, R486, R405, R409, R505, R511). -/
def Mgmt.init : Mgmt :=
  { ready := false, recovery := false, thr := false, hot := false, watts := 0, tj := 0, accept := 255,
    stopped := false, owned := false, owner := 0, attached := 0, epoch := 0, claimClk := none, thrClk := 0, scrubClk := 0, tf := 0, m := 0, hts := [], rebasing := none,
    scrubs := 0, decayClk := 0,
    rplctl := 0x0000004040081000#64, node := 0, boxes := [], window := [], flash := [],
    running := none }

/-- Context 0 (R459): it exists from reset at monitor level. -/
def Ctx.monitor : Ctx := { Ctx.init with priv := .monitor, valid := true, st := .idle }

/-- The module right after a cold reset (R505): SRAM and HBM are zero, no context but context 0 exists, every
queue is Disabled, every port Down, nothing is mapped and nothing moves. -/
def State.reset : State :=
  { clk := 0, agenda := [], cur := Firing.init, freeCtr := 0, nextId := 0, order := 0, mem := [], bad := [], cores := [],
    clusters := [], dies := [], lines := [], frames := [], ctxs := [(0, Ctx.monitor)], queues := [],
    groups := [], works := [], reqs := [], saves := [], links := [], mgmt := Mgmt.init }

end Sys2Proof.Machine
end

