-- ==== Sys2Proof/Machine/Derived.lean ====
section
/-!
DEFINITION. What a derived region computes (R428 to R437): the declaration record, the reduced sets, what an element
or a frame contributes, and the deltas that one store forms.
-/

set_option linter.unusedVariables false

namespace Sys2Proof.Machine

open Sys2Proof

/-- A declaration record (R428). -/
structure DRec where
  base : Nat
  rows : Nat
  cols : Nat
  pitch : Nat
  kind : Nat
  etype : Nat
  rtype : Nat
  axis : Nat
  param : Nat
  shift : Nat
deriving DecidableEq, Repr

/-- Bytes i to i + n − 1 of a list as a little-endian number (R5). -/
def fieldLE (l : List Byte) (i n : Nat) : Nat := ofBytesLE ((l.drop i).take n)

def drecOf (l : List Byte) : DRec :=
  ⟨fieldLE l 0 8, fieldLE l 8 4, fieldLE l 12 4, fieldLE l 16 4, fieldLE l 20 1, fieldLE l 21 1, fieldLE l 22 1,
    fieldLE l 23 1, fieldLE l 24 1, fieldLE l 25 1⟩

/-- Element width in bits (R428). -/
def DRec.width (d : DRec) : Nat :=
  match d.etype with
  | 0x8 => 32 | 0xA | 0xB => 16 | 0xE => 4 | _ => 8
def DRec.esize (d : DRec) : Nat := d.width / 8
def DRec.isBlock (d : DRec) : Bool := decide (d.etype = 0xE)
/-- Burst length of an E2M1 base, from its burst code (R111). -/
def DRec.burst (d : DRec) : Nat := match d.param with | 1 => 16 | 2 => 32 | _ => 64
def DRec.frame (d : DRec) : Nat := 2 + d.burst / 2
/-- Elements of a SCALE block (R428). -/
def DRec.block (d : DRec) : Nat := 2 ^ d.param
/-- Format of a type code. -/
def codeFmt (c : Nat) : Fmt :=
  match c with
  | 0xA => fmtF16 | 0xB => fmtBF16 | 0xC => fmtE4M3 | 0xD => fmtE5M2 | _ => fmtF32

/-- Number of results (R429). -/
def DRec.results (d : DRec) : Nat :=
  match d.kind with
  | 5 => if d.axis = 0 then d.rows * 2 ^ d.param else 2 ^ d.param
  | 6 => d.rows * (d.cols / d.block)
  | _ => match d.axis with
    | 0 => d.rows
    | 1 => d.cols
    | _ => 1

/-- Elements of one reduced set (R429). -/
def DRec.setSize (d : DRec) : Nat :=
  match d.kind with
  | 6 => d.block
  | _ => match d.axis with
    | 0 => d.cols
    | 1 => d.rows
    | _ => d.rows * d.cols

/-- Element formats and axes of the kinds (R429). -/
def DRec.kindOk (d : DRec) : Bool :=
  match d.kind with
  | 1 => [0x8, 0xA, 0xB, 0xC, 0xD, 0xE].contains d.etype && decide (d.axis ≤ 2)
  | 2 => [0xA, 0xC, 0xD].contains d.etype && decide (d.axis ≤ 2)
  | 3 | 4 => [0x8, 0xA, 0xB, 0xC, 0xD].contains d.etype && decide (d.axis ≤ 2)
  | 5 => [0x8, 0xA, 0xB, 0xC, 0xD].contains d.etype && [0, 2].contains d.axis
  | 6 => [0x8, 0xA, 0xB].contains d.etype && decide (d.axis = 0)
  | _ => false

/-- The record's fields obey R428 and R429. -/
def DRec.ok (d : DRec) (l : List Byte) : Bool :=
  d.kindOk &&
  decide (1 ≤ d.rows ∧ d.rows ≤ 65536 ∧ 1 ≤ d.cols ∧ d.cols ≤ 65536) &&
  (if d.isBlock then
     decide (1 ≤ d.param ∧ d.param ≤ 3 ∧ d.shift ≤ 242 ∧ d.base % 2 = 0 ∧ d.cols % d.burst = 0 ∧ d.pitch % 2 = 0
       ∧ d.cols / d.burst * d.frame ≤ d.pitch)
   else decide (d.base % d.esize = 0 ∧ d.pitch % d.esize = 0 ∧ d.cols * d.esize ≤ d.pitch)) &&
  (match d.kind with
   | 1 => [0x8, 0xA, 0xB, 0xC, 0xD].contains d.rtype && (d.isBlock || decide (d.param = 0 ∧ d.shift = 0))
   | 2 => [0x8, 0xA, 0xB, 0xC, 0xD].contains d.rtype && decide (d.param = 0 ∧ d.shift = 0)
   | 5 => decide (d.rtype = 0 ∧ 1 ≤ d.param ∧ d.param ≤ 8 ∧ d.shift + d.param ≤ d.width)
   | 6 => decide (d.rtype = 0 ∧ 4 ≤ d.param ∧ d.param ≤ 6 ∧ d.shift = 0 ∧ d.cols % 2 ^ d.param = 0)
   | _ => decide (d.rtype = 0 ∧ d.param = 0 ∧ d.shift = 0)) &&
  decide (d.setSize ≤ 2 ^ 23 ∧ d.results ≤ 16777215) &&
  (l.drop 26).all (fun b => b = 0)

/-- Virtual bytes of a row that belong to the base. -/
def DRec.rowBytes (d : DRec) : Nat := if d.isBlock then d.cols / d.burst * d.frame else d.cols * d.esize

/-- Element (i, c): its first byte. -/
def DRec.addr (d : DRec) (i c : Nat) : Nat :=
  if d.isBlock then d.base + i * d.pitch + c / d.burst * d.frame else d.base + i * d.pitch + c * d.esize

/-- Result of an element and its index in the reduced set (R429), HIST's bin left out. -/
def DRec.place (d : DRec) (i c : Nat) : Nat × Nat :=
  match d.kind with
  | 6 => (i * (d.cols / d.block) + c / d.block, c % d.block)
  | 5 => (if d.axis = 0 then i * 2 ^ d.param else 0, 0)
  | _ => match d.axis with
    | 0 => (i, c)
    | 1 => (c, i)
    | _ => (0, i * d.cols + c)

/-- Bin of a code (R429). -/
def DRec.bin (d : DRec) (code : Nat) : Nat := code / 2 ^ d.shift % 2 ^ d.param

/-- Exponent of the accumulator's least significant bit (R433). -/
def DRec.lsb (d : DRec) : Int :=
  let e : Int := match d.etype with
    | 0x8 => -149 | 0xA => -24 | 0xB => -133 | 0xC => -9 | 0xD => -16 | _ => (d.shift : Int) - 136
  if d.kind = 2 then 2 * e else e

/-- What one element or frame adds to a result: accumulator, +∞, −∞ and ERROR counts (R433). -/
structure Contrib where
  sum : Int
  pinf : Int
  ninf : Int
  errs : Int
deriving DecidableEq, Repr

def Contrib.zero : Contrib := ⟨0, 0, 0, 0⟩
def Contrib.add (x y : Contrib) : Contrib := ⟨x.sum + y.sum, x.pinf + y.pinf, x.ninf + y.ninf, x.errs + y.errs⟩
def Contrib.sub (x y : Contrib) : Contrib := ⟨x.sum - y.sum, x.pinf - y.pinf, x.ninf - y.ninf, x.errs - y.errs⟩

/-- A dyadic number in units of 2^k. -/
def dyUnits (x : Dy) (k : Int) : Int := Dy.floor ⟨x.m, x.e - k⟩

/-- Contribution of a plain element's code to a SUM or SUMSQ (R433). -/
def DRec.contrib (d : DRec) (code : Nat) : Contrib :=
  match decodeFmt (codeFmt d.etype) code with
  | .nan => ⟨0, 0, 0, 1⟩
  | .inf n => if d.kind = 2 ∨ n = false then ⟨0, 1, 0, 0⟩ else ⟨0, 0, 1, 0⟩
  | .fin n m e =>
    let x : Dy := ⟨sMant n m, e⟩
    ⟨dyUnits (if d.kind = 2 then x.mul x else x) d.lsb, 0, 0, 0⟩

/-- Contribution of some elements of one E2M1 frame (R437): U and k of those elements. -/
def DRec.frameContrib (d : DRec) (scale special : Nat) (codes : List Nat) : Contrib :=
  let k := codes.countP (· = 8)
  let u : Int := (codes.filter (· ≠ 8)).foldl (fun t c => t + dyUnits (decodeE2M1 c).dy (-1)) 0
  let sNaN := decide (special = 0xFF ∨ special = 0x7F)
  if scale = 0xFF then ⟨0, 0, 0, codes.length⟩
  else if sNaN && decide (0 < k) then ⟨0, 0, 0, k⟩
  else if (decide (u ≠ 0) || decide (0 < k)) && decide (scale < d.shift ∨ d.shift + 12 < scale) then
    ⟨0, 0, 0, codes.length⟩
  else
    let sp := dyUnits (decodeFmt fmtE4M3 special).dy (-9)
    ⟨(u * 256 + k * sp) * pow2 (scale - d.shift), 0, 0, 0⟩

/-- Whether element `x` beats `y` as the extremum (R93, R94, R436): an absent current element is beaten by any. -/
def DRec.better (d : DRec) (x : Nat × Nat) (y : Option (Nat × Nat)) : Bool :=
  let vx := decodeFmt (codeFmt d.etype) x.2
  match y with
  | none => if d.kind = 6 then (match vx with | .fin .. => true | _ => false) else true
  | some y =>
    let vy := decodeFmt (codeFmt d.etype) y.2
    if d.kind = 6 then
      match vx, vy with
      | .fin _ m e, .fin _ m' e' =>
        let a : Dy := ⟨m, e⟩
        let b : Dy := ⟨m', e'⟩
        Dy.lt b a || (!Dy.lt a b && decide (x.1 < y.1))
      | .fin .., _ => true
      | _, _ => false
    else
      match vx, vy with
      | .nan, .nan => decide (x.1 < y.1)
      | .nan, _ => true
      | _, .nan => false
      | _, _ =>
        let gt := if d.kind = 3 then ordLt vy vx else ordLt vx vy
        let lt := if d.kind = 3 then ordLt vx vy else ordLt vy vx
        gt || (!lt && decide (x.1 < y.1))

/-- The extremum of some elements (index, code). -/
def DRec.extremum (d : DRec) (l : List (Nat × Nat)) : Option (Nat × Nat) :=
  l.foldl (fun best x => if d.better x best then some x else best) none

/-- Physical address of a virtual address of the base, through the frames registered at the declaration. -/
def basePa (frames : List (Nat × Nat)) (va : Nat) : Nat :=
  match frames.find? fun f => f.1 = va / 2 ^ 16 with
  | some f => f.2 * 2 ^ 16 + va % 2 ^ 16
  | none => 0

/-- `n` bytes of the base at a virtual address, read through `f`. -/
def baseLE (f : Nat → Byte) (frames : List (Nat × Nat)) (va n : Nat) : Nat :=
  ofBytesLE ((List.range n).map fun j => f (basePa frames (va + j)))

/-- The code of element (i, c). -/
def DRec.code (d : DRec) (f : Nat → Byte) (fr : List (Nat × Nat)) (i c : Nat) : Nat :=
  if d.isBlock then
    let b := baseLE f fr (d.addr i c + 2 + c % d.burst / 2) 1
    b / 16 ^ (c % 2) % 16
  else baseLE f fr (d.addr i c) d.esize

/-- Contributions to each result of the elements that share a frame with, or are, column `c` of row `i`: a plain
element alone, or for an E2M1 base its frame. -/
def DRec.unitContribs (d : DRec) (f : Nat → Byte) (fr : List (Nat × Nat)) (i c : Nat) : List (Nat × Contrib) :=
  if d.isBlock then
    let c0 := c / d.burst * d.burst
    let scale := baseLE f fr (d.addr i c) 1
    let special := baseLE f fr (d.addr i c + 1) 1
    let codes := (List.range d.burst).map fun j => d.code f fr i (c0 + j)
    if d.axis = 1 then
      (List.range d.burst).map fun j => (c0 + j, d.frameContrib scale special [codes.getD j 0])
    else [((d.place i c).1, d.frameContrib scale special codes)]
  else match d.kind with
    | 5 => [((d.place i c).1 + d.bin (d.code f fr i c), ⟨1, 0, 0, 0⟩)]
    | 1 | 2 => [((d.place i c).1, d.contrib (d.code f fr i c))]
    | _ => []

/-- Elements, or frames by their first column, that some bytes of the base belong to. -/
def DRec.unitAt (d : DRec) (va : Nat) : Option (Nat × Nat) :=
  if va < d.base then none
  else
    let u := va - d.base
    let i := u / d.pitch
    let o := u % d.pitch
    if d.rows ≤ i ∨ d.rowBytes ≤ o then none
    else if d.isBlock then some (i, o / d.frame * d.burst) else some (i, o / d.esize)

/-- Adds a contribution to the list of deltas of one store. -/
def addDelta (region home : Nat) (res : Nat) (x : Contrib) (e : List (Nat × Nat × Nat)) : List Delta → List Delta
  | [] => [⟨region, res, home, x.sum, x.pinf, x.ninf, x.errs, e⟩]
  | t :: l =>
    if t.res = res then
      { t with sum := t.sum + x.sum, pinf := t.pinf + x.pinf, ninf := t.ninf + x.ninf, errs := t.errs + x.errs,
               elems := t.elems ++ e } :: l
    else t :: addDelta region home res x e l

/-- The deltas one store of `n` bytes at `pa` forms for one region, `f` and `g` reading memory before and after
it (R435): none for an element whose code does not change. -/
def storeDeltas (f g : Nat → Byte) (region home : Nat) (rg : Region) (pa n : Nat) : List Delta :=
  let d := drecOf rg.record
  let vas := (List.range n).flatMap fun j =>
    (rg.frames.filter fun fr => fr.2 = (pa + j) / 2 ^ 16).map fun fr => fr.1 * 2 ^ 16 + (pa + j) % 2 ^ 16
  let units := (vas.filterMap d.unitAt).eraseDups
  units.foldl (fun ds u =>
    let old := d.code f rg.frames u.1 u.2
    let new := d.code g rg.frames u.1 u.2
    match d.kind with
    | 3 | 4 | 6 =>
      if old = new then ds
      else addDelta region home (d.place u.1 u.2).1 .zero [((d.place u.1 u.2).2, old, new)] ds
    | _ =>
      let ol := d.unitContribs f rg.frames u.1 u.2
      let nw := d.unitContribs g rg.frames u.1 u.2
      if ol = nw then ds
      else
        let ds1 := ol.foldl (fun a x => addDelta region home x.1 (Contrib.sub .zero x.2) [] a) ds
        nw.foldl (fun a x => addDelta region home x.1 x.2 [] a) ds1) []

/-- Elements of the reduced set of result `j`: (index, row, column). -/
def DRec.elems (d : DRec) (j : Nat) : List (Nat × Nat × Nat) :=
  match d.kind with
  | 6 => (List.range d.block).map fun k => (k, j / (d.cols / d.block), j % (d.cols / d.block) * d.block + k)
  | _ => match d.axis with
    | 0 => (List.range d.cols).map fun c => (c, j, c)
    | 1 => (List.range d.rows).map fun i => (i, i, j)
    | _ => (List.range (d.rows * d.cols)).map fun k => (k, k / d.cols, k % d.cols)

/-- The extremum of result `j` from the base as it stands: a rescan (R436). -/
def rescanResult (f : Nat → Byte) (rg : Region) (j : Nat) : Option (Nat × Nat) :=
  let d := drecOf rg.record
  d.extremum ((d.elems j).map fun e => (e.1, d.code f rg.frames e.2.1 e.2.2))

/-- Every result from the base as it stands (R441). -/
def buildResults (f : Nat → Byte) (rg : Region) : Tab Result :=
  let d := drecOf rg.record
  match d.kind with
  | 3 | 4 | 6 =>
    (List.range d.results).foldl (fun t j => tabSet Result.init j { Result.init with ext := rescanResult f rg j } t) []
  | _ =>
    let step := if d.isBlock then d.burst else 1
    (List.range d.rows).foldl (fun t i =>
      (List.range (d.cols / step)).foldl (fun t q =>
        (d.unitContribs f rg.frames i (q * step)).foldl (fun t x =>
          let o := tabGet Result.init x.1 t
          tabSet Result.init x.1
            { o with sum := o.sum + x.2.sum, pinf := o.pinf + x.2.pinf, ninf := o.ninf + x.2.ninf,
                     errs := o.errs + x.2.errs } t) t) t) []

/-- A delta applied to its result (R435, R436); the flag says that a rescan is owed. -/
def applyDelta (d : DRec) (o : Result) (x : Delta) : Result × Bool :=
  let o1 := { o with sum := o.sum + x.sum, pinf := o.pinf + x.pinf, ninf := o.ninf + x.ninf, errs := o.errs + x.errs,
                     dirty := true }
  x.elems.foldl (fun p e =>
    let r := p.1
    if d.better (e.1, e.2.2) r.ext then ({ r with ext := some (e.1, e.2.2) }, p.2)
    else if decide (r.ext.map Prod.fst = some e.1) && d.better (1, e.2.1) (some (0, e.2.2)) then
      ({ r with stale := true }, true)
    else p) (o1, false)

/-- The value of a result as it stands: kind, value and the flags of its rounding (R429, R434). -/
def resultValue (d : DRec) (o : Result) : Kind × Word × FFlags :=
  match d.kind with
  | 1 | 2 =>
    if 0 < o.errs then (.error, 0, fNone)
    else if 0 < o.pinf ∧ 0 < o.ninf then (.error, 0, fIV)
    else
      let v : EVal :=
        if 0 < o.pinf then .inf false else if 0 < o.ninf then .inf true
        else .fin (decide (o.sum < 0)) o.sum.natAbs d.lsb false
      let x := roundTo (codeFmt d.rtype) .rne false v
      (match x.code with
       | some c => (.data, BitVec.ofNat 64 c, x.fl)
       | none => (.error, 0, x.fl))
  | 5 => (.data, BitVec.ofInt 64 o.sum, fNone)
  | 6 =>
    let w : Int := match o.ext with
      | some (_, c) => (match decodeFmt (codeFmt d.etype) c with
        | .fin _ 0 _ => 127
        | .fin n m e => max 0 (floorLog2 (.fin n m e) - 2 + 127)
        | _ => 127)
      | none => 127
    (.data, BitVec.ofInt 64 w, fNone)
  | _ =>
    match o.ext with
    | some (k, c) =>
      let v := BitVec.ofNat 64 (k * 2 ^ 32 + c)
      (match decodeFmt (codeFmt d.etype) c with
       | .nan => (.error, v, fNone)
       | _ => (.data, v, fNone))
    | none => (.data, 0, fNone)

/-- Bytes of the accumulator store that a result takes (R432). -/
def DRec.resultBytes (d : DRec) : Nat :=
  match d.kind with
  | 1 => if d.etype = 0x8 ∨ d.etype = 0xB then 56 else 24
  | 2 => 32
  | 5 => 8
  | 6 => 16
  | _ => 24

end Sys2Proof.Machine
end

