-- ==== Sys2Proof/Machine/Eff.lean ====
section
/-!
DEFINITION. How the state changes: the reads of its tables, one primitive effect per component, and the chains of
effects that every meaning is built from. What an effect may do is said here once: an index beyond the part's
count (R15, R16) changes nothing, and every table stays in its canonical form.
-/

set_option linter.unusedVariables false

namespace Sys2Proof.Machine

open Sys2Proof

/-! Reads. -/
def State.core (s : State) (c : Nat) : Core := tabGet Core.init c s.cores
def State.cluster (s : State) (c : Nat) : Cluster := tabGet Cluster.init c s.clusters
def State.die (s : State) (d : Nat) : Die := tabGet Die.init d s.dies
def State.line (s : State) (l : Nat) : Line := tabGet Line.init l s.lines
def State.frame (s : State) (f : Nat) : FrameSt := tabGet FrameSt.init f s.frames
def State.ctx (s : State) (c : Nat) : Ctx := tabGet Ctx.init c s.ctxs
def State.queue (s : State) (q : Nat) : Queue := tabGet Queue.init q s.queues
def State.group (s : State) (g : Nat) : Group := tabGet Group.init g s.groups
def State.link (s : State) (p : Nat) : Link := tabGet Link.init p s.links
/-- A byte of memory: an unlisted byte reads as zero (R505 step 3). -/
def State.byte (s : State) (a : Nat) : Byte := tabGet 0 a s.mem
def Core.pe (c : Core) (x y : Nat) : Pe := tabGet Pe.init (16 * y + x) c.pes
def Core.trestle (c : Core) (t : Nat) : Trestle := tabGet .free t c.trestles
def Core.tile (c : Core) (m : Nat) : MemTile := tabGet MemTile.init m c.tiles
def Core.port (c : Core) (p : Nat) : PortTile := tabGet PortTile.init p c.ports
def Core.node (c : Core) (n : Nat) : MergeNode := tabGet MergeNode.init n c.nodes
def PortTile.stream (p : PortTile) (c : Nat) : Stream := tabGet Stream.init c p.streams
def Die.job (d : Die) (e : Nat) : Job := tabGet Job.init e d.jobs
def Die.region (d : Die) (n : Nat) : Region := tabGet Region.init n d.regions
def Die.slice (d : Die) (n : Nat) : Slice := tabGet Slice.init n d.slices

/-- The primitive effects. -/
inductive Eff where
  | tick (n : Nat)
  | cur (f : Firing)
  | nextFree
  | nextId
  | nextOrder
  | mem (a : Nat) (b : Byte)
  | bad (l : List Nat)
  | core (k : Nat) (v : Core)
  | cluster (k : Nat) (v : Cluster)
  | die (k : Nat) (v : Die)
  | line (k : Nat) (v : Line)
  | frame (k : Nat) (v : FrameSt)
  | ctx (k : Nat) (v : Ctx)
  | queue (k : Nat) (v : Queue)
  | group (k : Nat) (v : Group)
  | works (l : List Work)
  | reqs (l : List Req)
  | saves (l : List SaveImg)
  | link (k : Nat) (v : Link)
  | mgmt (v : Mgmt)
  /-- a reset (R505): everything but the clock, the agenda and the counters of the model; a warm one keeps what HBM holds
  and the training of Active ports -/
  | reset (warm : Bool) (m : Mgmt)

/-- Port words after a warm reset (R505): an Active port stays trained, everything else takes its Reset value. -/
def Link.kept (l : Link) : Link :=
  { Link.init with present := l.present, st := l.st, cxlen := l.cxlen, mode := l.mode, lanes := l.lanes, peer := l.peer, seqTx := l.seqTx, seqRx := l.seqRx,
                   unacked := l.unacked, since := l.since }

def keptLinks (t : Tab Link) : Tab Link :=
  t.filterMap fun x => match x.2.st with
    | .active | .degraded => some (x.1, x.2.kept)
    | _ => none

/-- What an effect does. -/
def Eff.apply (e : Eff) (s : State) : State :=
  match e with
  | .tick n => { s with clk := s.clk + n }
  | .cur f => { s with cur := f }
  | .nextFree => { s with freeCtr := s.freeCtr + 1 }
  | .nextId => { s with nextId := s.nextId + 1 }
  | .nextOrder => { s with order := s.order + 1 }
  | .mem a b => if a < 2 ^ 52 then { s with mem := tabSet 0 a b s.mem } else s
  | .bad l => { s with bad := l }
  | .core k v => if k < 128 then { s with cores := tabSet Core.init k v s.cores } else s
  | .cluster k v => if k < 32 then { s with clusters := tabSet Cluster.init k v s.clusters } else s
  | .die k v => if k < 4 then { s with dies := tabSet Die.init k v s.dies } else s
  | .line k v => if k < 2 ^ 45 then { s with lines := tabSet Line.init k v s.lines } else s
  | .frame k v => if k < 2 ^ 36 then { s with frames := tabSet FrameSt.init k v s.frames } else s
  | .ctx k v => if k < 4096 then { s with ctxs := tabSet Ctx.init k v s.ctxs } else s
  | .queue k v => if k < 16384 then { s with queues := tabSet Queue.init k v s.queues } else s
  | .group k v => if k < 32768 then { s with groups := tabSet Group.init k v s.groups } else s
  | .works l => { s with works := l }
  | .reqs l => { s with reqs := l }
  | .saves l => { s with saves := l }
  | .link k v => if k < 18 then { s with links := tabSet Link.init k v s.links } else s
  | .mgmt v => { s with mgmt := v }
  | .reset warm m => { State.reset with
      clk := s.clk, agenda := s.agenda, freeCtr := s.freeCtr, nextId := s.nextId, order := s.order, mgmt := m,
      mem := if warm then s.mem else [], bad := if warm then s.bad else [], saves := if warm then s.saves else [],
      links := if warm then keptLinks s.links else [] }

/-- A state that a chain of effects reaches from another. -/
inductive Reach (s0 : State) : State → Prop where
  | refl : Reach s0 s0
  | step {s : State} (e : Eff) (h : Reach s0 s) : Reach s0 (e.apply s)

/-- A state under construction: the state so far, reached by effects from `s0`. Every meaning is a function
on these, so that what no effect can do no meaning does. -/
structure R (s0 : State) where
  s : State
  ok : Reach s0 s

/-- The start of a meaning. -/
def R.start (s : State) : R s := ⟨s, .refl⟩

/-- One effect more. -/
def R.eff {s0 : State} (r : R s0) (e : Eff) : R s0 := ⟨e.apply r.s, .step e r.ok⟩

/-- The answer of a meaning. -/
def R.done {s0 : State} (r : R s0) : Host.Outcome State Fault Refusal := .next r.s

variable {s0 : State}

/-! Updates of one component by a function. -/
def updCore (r : R s0) (c : Nat) (f : Core → Core) : R s0 := r.eff (.core c (f (r.s.core c)))
def updCluster (r : R s0) (c : Nat) (f : Cluster → Cluster) : R s0 := r.eff (.cluster c (f (r.s.cluster c)))
def updDie (r : R s0) (d : Nat) (f : Die → Die) : R s0 := r.eff (.die d (f (r.s.die d)))
def updLine (r : R s0) (l : Nat) (f : Line → Line) : R s0 := r.eff (.line l (f (r.s.line l)))
def updFrame (r : R s0) (n : Nat) (f : FrameSt → FrameSt) : R s0 := r.eff (.frame n (f (r.s.frame n)))
def updCtx (r : R s0) (c : Nat) (f : Ctx → Ctx) : R s0 := r.eff (.ctx c (f (r.s.ctx c)))
def updQueue (r : R s0) (q : Nat) (f : Queue → Queue) : R s0 := r.eff (.queue q (f (r.s.queue q)))
def updGroup (r : R s0) (g : Nat) (f : Group → Group) : R s0 := r.eff (.group g (f (r.s.group g)))
def updLink (r : R s0) (p : Nat) (f : Link → Link) : R s0 := r.eff (.link p (f (r.s.link p)))
def updMgmt (r : R s0) (f : Mgmt → Mgmt) : R s0 := r.eff (.mgmt (f r.s.mgmt))
def updWorks (r : R s0) (f : List Work → List Work) : R s0 := r.eff (.works (f r.s.works))
def updReqs (r : R s0) (f : List Req → List Req) : R s0 := r.eff (.reqs (f r.s.reqs))
def updPe (r : R s0) (c x y : Nat) (f : Pe → Pe) : R s0 :=
  updCore r c fun k => { k with pes := tabSet Pe.init (16 * y + x) (f (k.pe x y)) k.pes }
def updTrestle (r : R s0) (c t : Nat) (f : Trestle → Trestle) : R s0 :=
  updCore r c fun k => { k with trestles := tabSet .free t (f (k.trestle t)) k.trestles }
def updTile (r : R s0) (c m : Nat) (f : MemTile → MemTile) : R s0 :=
  updCore r c fun k => { k with tiles := tabSet MemTile.init m (f (k.tile m)) k.tiles }
def updPort (r : R s0) (c p : Nat) (f : PortTile → PortTile) : R s0 :=
  updCore r c fun k => { k with ports := tabSet PortTile.init p (f (k.port p)) k.ports }
def updStream (r : R s0) (c p n : Nat) (f : Stream → Stream) : R s0 :=
  updPort r c p fun k => { k with streams := tabSet Stream.init n (f (k.stream n)) k.streams }
def updNode (r : R s0) (c n : Nat) (f : MergeNode → MergeNode) : R s0 :=
  updCore r c fun k => { k with nodes := tabSet MergeNode.init n (f (k.node n)) k.nodes }
def updMatrix (r : R s0) (c : Nat) (f : MTile → MTile) : R s0 :=
  updCore r c fun k => { k with matrix := f k.matrix }
def updJob (r : R s0) (d e : Nat) (f : Job → Job) : R s0 :=
  updDie r d fun k => { k with jobs := tabSet Job.init e (f (k.job e)) k.jobs }
def updRegion (r : R s0) (d n : Nat) (f : Region → Region) : R s0 :=
  updDie r d fun k => { k with regions := tabSet Region.init n (f (k.region n)) k.regions }
def updSlice (r : R s0) (d n : Nat) (f : Slice → Slice) : R s0 :=
  updDie r d fun k => { k with slices := tabSet Slice.init n (f (k.slice n)) k.slices }
/-- The instance on a trestle, if any. -/
def instOf (s : State) (c t : Nat) : Option Inst :=
  match (s.core c).trestle t with
  | .busy i => some i
  | _ => none
def updInst (r : R s0) (c t : Nat) (f : Inst → Inst) : R s0 :=
  match instOf r.s c t with
  | some i => updTrestle r c t fun _ => .busy (f i)
  | none => r

/-- A fold of effects over a list. -/
def R.each {α : Type} (r : R s0) : List α → (R s0 → α → R s0) → R s0
  | [], _ => r
  | x :: l, f => (f r x).each l f

/-- A choice between continuing and leaving the state as it is. -/
def R.when (r : R s0) (c : Bool) (f : R s0 → R s0) : R s0 := if c then f r else r

end Sys2Proof.Machine
end

