-- ==== Sys2Proof/Machine/Line.lean ====
section
/-!
DEFINITION. Lines at their homes (R395 to R412): bytes of memory, logical time, leases, copies in L1 and replicas, region
trackers and the directory; and the one operation that performs a write at a home, with everything a write there
brings with it: the writer's jump (R400), waiters (R194), ordering lanes (R186), deltas (R435), copied bits (R366).
A tick is held as a natural number whose low sixteen bits are the spec's tick (log 11).
-/

set_option linter.unusedVariables false

namespace Sys2Proof.Machine

open Sys2Proof

variable {s0 : State}

/-! ## Bytes -/

/-- `n` bytes at a physical address (R5). -/
def State.bytes (s : State) (pa n : Nat) : List Byte := (List.range n).map fun j => s.byte (pa + j)
/-- They as a little-endian number. -/
def State.nat (s : State) (pa n : Nat) : Nat := ofBytesLE (s.bytes pa n)

/-- Puts bytes at a physical address. -/
def putBytes (r : R s0) (pa : Nat) : List Byte → R s0
  | [] => r
  | b :: l => putBytes (r.eff (.mem pa b)) (pa + 1) l

/-! ## Homes (R17, R395) -/

/-- HBM stack of a frame: stack s holds the 48 GiB from 48·s GiB (log 12). -/
def stackOf (pa : Nat) : Nat := pa / (48 * 2 ^ 30) % 12
def homeDie (pa : Nat) : Nat := stackOf pa / 3
def homeSlice (pa : Nat) : Nat := (pa / 128 % 2 ^ 32 * 0x9E3779B1) % 2 ^ 32 * 384 / 2 ^ 32
def State.homeSlice (s : State) (pa : Nat) : Slice := (s.die (homeDie pa)).slice (Machine.homeSlice pa)
def updHome (r : R s0) (pa : Nat) (f : Slice → Slice) : R s0 := updSlice r (homeDie pa) (homeSlice pa) f
def dieOfCore (c : Nat) : Nat := c / 32

/-- Granules of a line that some bytes touch (R396). -/
def spanOf (pa n : Nat) : Nat :=
  (List.range 16).foldl (fun m k =>
    if decide (pa % 128 < 8 * k + 8) && decide (8 * k < pa % 128 + n) then m + 2 ^ k else m) 0

/-! ## Fields of a leaf (R357) -/
def leafRd (e : Word) : Bool := e.getLsbD 2
def leafWr (e : Word) : Bool := e.getLsbD 3
def leafX (e : Word) : Bool := e.getLsbD 4
def leafU (e : Word) : Bool := e.getLsbD 5
def leafT (e : Word) : Bool := e.getLsbD 6
def leafPolicy (e : Word) : Nat := e.toNat / 2 ^ 8 % 4
def leafRp (e : Word) : Bool := e.getLsbD 52
def leafCached (e : Word) : Bool := decide (leafPolicy e ≠ 2)

/-! ## Logical time (R397 to R404) -/

/-- A tick owner (R397); `dev` stands for a write of the module itself, which holds no tick (a fault record, a
completion word, a page-table bit): it takes the highest tick assigned, as the release that it is needs. -/
inductive Owner where
  | core (c : Nat) | job (d e : Nat) | host (m : Nat) | dev
deriving DecidableEq, Repr

def ownerTick (s : State) : Owner → Nat
  | .core c => max (s.core c).pts s.mgmt.tf
  | .job d e => max ((s.die d).job e).jts s.mgmt.tf
  | .host m => max (tabGet 0 m s.mgmt.hts) s.mgmt.tf
  | .dev => max s.mgmt.m s.mgmt.tf

/-- The highest tick assigned anywhere (R397). -/
def raiseM (r : R s0) (t : Nat) : R s0 := updMgmt r fun m => { m with m := max m.m t }

/-- An owner's tick moves forward only. -/
def raiseOwner (r : R s0) (o : Owner) (t : Nat) : R s0 :=
  match o with
  | .core c => raiseM (updCore r c fun k => { k with pts := max k.pts t }) t
  | .job d e => raiseM (updJob r d e fun j => { j with jts := max j.jts t }) t
  | .host m => updMgmt r fun g => { g with hts := tabSet 0 m (max (tabGet 0 m g.hts) t) g.hts, m := max g.m t }
  | .dev => raiseM r t

/-- An assignment that would reach offset 32,768 waits for a rebase (R404). -/
def tickRoom (s : State) (t : Nat) : Bool := decide (t < s.mgmt.tf + 2 ^ 15)

/-- An acquire that reads no line of its own (R401). -/
def acquireM (r : R s0) (c : Nat) : R s0 := raiseOwner r (.core c) r.s.mgmt.m

/-- A line filled from HBM takes its slice's floor (R403). -/
def homeFill (r : R s0) (pa : Nat) : R s0 :=
  if (r.s.line (pa / 128)).inL2 then r
  else
    let t := max (r.s.homeSlice pa).mts r.s.mgmt.tf
    updLine r (pa / 128) fun l => { l with wts := t, rts := t, inL2 := true }

/-- A line leaves L2 (R403): the floor of its slice rises to its rts. -/
def homeEvict (r : R s0) (pa : Nat) : R s0 :=
  let l := r.s.line (pa / 128)
  let r1 := updHome r pa fun x => { x with mts := max x.mts l.rts }
  updLine r1 (pa / 128) fun l => { l with wts := 0, rts := 0, inL2 := false }

/-- A lease of length ℓ for an owner at tick p (R399). -/
def grantLease (r : R s0) (pa p len : Nat) : R s0 :=
  let t := max (r.s.line (pa / 128)).rts (p + len)
  raiseM (updLine r (pa / 128) fun l => { l with rts := t }) t

/-! ## Copies (R396, R399) -/

def findCopy (l : List LineCopy) (n : Nat) : Option LineCopy := l.find? fun c => c.line = n
/-- A list of copies that holds at most `cap` lines, the one filled earliest leaving first (log 9). -/
def setCopy (cap : Nat) (l : List LineCopy) (c : LineCopy) : List LineCopy :=
  (c :: l.filter (·.line ≠ c.line)).take cap

/-- A copy is readable at tick p for some granules (R399). -/
def readable (tf p span : Nat) (c : LineCopy) : Bool :=
  decide (p ≤ c.rts) && decide (tf ≤ c.wts) && decide (c.span &&& span = span)

/-- Granule k of a line's bytes. -/
def granule (l : List Byte) (k : Nat) : List Byte := (l.drop (8 * k)).take 8

/-- An answered span merged into a copy, or in its place (R396). -/
def mergeCopy (old : Option LineCopy) (a : LineCopy) : LineCopy :=
  match old with
  | some c =>
    if c.wts = a.wts then
      { a with span := c.span ||| a.span,
               bytes := (List.range 16).flatMap fun k =>
                 granule (if a.span.testBit k then a.bytes else c.bytes) k }
    else a
  | none => a

/-- Lines an L1 holds: 512 for each tile in cache role (R31, R166). -/
def l1Cap (k : Core) : Nat := 512 * ((List.range 32).countP fun m => (k.tile m).role = 0)

/-! ## Region trackers (R408, R409) -/

def rplRaise (s : State) : Nat := s.mgmt.rplctl.toNat / 2 ^ 8 % 2 ^ 8
def rplCollapse (s : State) : Nat := s.mgmt.rplctl.toNat / 2 ^ 16 % 2 ^ 8
def rplDecay (s : State) : Nat := s.mgmt.rplctl.toNat / 2 ^ 24 % 2 ^ 8
def rplTickper (s : State) : Nat := s.mgmt.rplctl.toNat / 2 ^ 32 % 2 ^ 16

def trackOf (s : State) (pa : Nat) : Option Track :=
  (s.homeSlice pa).tracks.find? fun t => t.region = pa / 2 ^ 16

/-- The region may be replicated (R362, R408). -/
def eligible (s : State) (pa : Nat) (leaf : Word) : Bool :=
  leafRp leaf && decide (leafPolicy leaf < 2) &&
    (let f := s.frame (pa / 2 ^ 16); !f.hostBias && decide (f.st = .stable))

def setTrack (l : List Track) (t : Track) : List Track := t :: l.filter (·.region ≠ t.region)

/-- The entry of a region, allocated when it has none (R408): none when every entry has a higher degree. -/
def trackEntry (s : State) (pa : Nat) : Option (Track × List Track) :=
  let l := (s.homeSlice pa).tracks
  match trackOf s pa with
  | some t => some (t, l)
  | none =>
    let t : Track := ⟨pa / 2 ^ 16, 0, [0, 0, 0, 0], 0, false, s.order⟩
    if l.length < 32 then some (t, l)
    else match (l.filter (·.mask = 0)).foldl (fun b x => match b with
        | none => some x
        | some y => if x.used < y.used then some x else some y) (none : Option Track) with
      | some v => some (t, l.filter (·.region ≠ v.region))
      | none => none

/-- A read that reaches the home from die `d` (R408). -/
def countRead (r : R s0) (pa d : Nat) (leaf : Word) : R s0 :=
  if d = homeDie pa ∨ eligible r.s pa leaf = false then r
  else match trackEntry r.s pa with
    | none => r
    | some (t, l) =>
      let n := min 255 (t.rd.getD d 0 + 1)
      let up := decide (rplRaise r.s ≠ 0) && decide (rplRaise r.s ≤ n) && !t.hold &&
        (decide (rplCollapse r.s = 0) || decide (t.wr < rplCollapse r.s))
      let t1 := { t with rd := t.rd.set d (if up then 0 else n), mask := if up then t.mask ||| 2 ^ d else t.mask,
                         used := r.s.order }
      (updHome r pa fun x => { x with tracks := setTrack l t1 }).eff .nextOrder

/-- A store or atomic performed in a region (R408). -/
def countWrite (r : R s0) (pa : Nat) : R s0 :=
  match trackOf r.s pa with
  | none => r
  | some t =>
    let n := min 255 (t.wr + 1)
    let down := decide (rplCollapse r.s ≠ 0) && decide (rplCollapse r.s ≤ n) && decide (t.mask ≠ 0)
    updHome r pa fun x =>
      { x with tracks := x.tracks.map fun u =>
          if u.region = t.region then { u with wr := if down then 0 else n, mask := if down then 0 else u.mask }
          else u }

/-- The degree of a frame's region falls to 1 in every slice of its home die (R365, R366). -/
def collapseFrame (r : R s0) (frame : Nat) : R s0 :=
  updDie r (homeDie (frame * 2 ^ 16)) fun d =>
    { d with slices := d.slices.filterMap fun x =>
        let v := { x.2 with tracks := x.2.tracks.map fun t => if t.region = frame then { t with mask := 0, wr := 0 } else t }
        if v = Slice.init then none else some (x.1, v) }

/-! ## Directory (R411) -/

def dirH0 (n : Nat) : Nat :=
  n % 2 ^ 10 ^^^ n / 2 ^ 10 % 2 ^ 10 ^^^ n / 2 ^ 20 % 2 ^ 10 ^^^ n / 2 ^ 30 % 2 ^ 10 ^^^ n / 2 ^ 40 % 2 ^ 5
def dirH1 (n : Nat) : Nat := (n % 2 ^ 32 * 0x85EBCA6B) % 2 ^ 32 / 2 ^ 22
def dirSlot (t b k : Nat) : Nat := (t * 1024 + b) * 4 + k
def dirBucket (t n : Nat) : Nat := if t = 0 then dirH0 n else dirH1 n

/-- Lowest free slot of a bucket. -/
def dirFree (d : Tab Nat) (t n : Nat) : Option Nat :=
  ((List.range 4).map (dirSlot t (dirBucket t n))).find? fun k => tabGet 0 k d = 0

def dirHas (d : Tab Nat) (n : Nat) : Bool := d.any fun x => x.2 = n + 1

/-- The moves of an insertion (R411): the table, and the entry displaced last, if any. -/
def dirMoves : Nat → Nat → Nat → Nat → Tab Nat → Tab Nat × Option Nat
  | 0, k, s, x, d => (d, some x)
  | fuel + 1, k, s, x, d =>
    let slot := dirSlot s (dirBucket s x) ((k - 1) % 4)
    let y := tabGet 0 slot d - 1
    let d1 := tabSet 0 slot (x + 1) d
    let t := 1 - s
    match dirFree d1 t y with
    | some f => (tabSet 0 f (y + 1) d1, none)
    | none => dirMoves fuel (k + 1) t y d1

/-- Inserts a line (R411). -/
def dirInsert (d : Tab Nat) (n : Nat) : Tab Nat × Option Nat :=
  if dirHas d n then (d, none)
  else match dirFree d 0 n with
    | some f => (tabSet 0 f (n + 1) d, none)
    | none => match dirFree d 1 n with
      | some f => (tabSet 0 f (n + 1) d, none)
      | none => dirMoves 8 1 0 n d

def dirRemove (d : Tab Nat) (n : Nat) : Tab Nat := d.filter fun x => x.2 ≠ n + 1

/-- A line with neither host spans nor replicas has no entry (R411). -/
def dirFreeLine (r : R s0) (n : Nat) : R s0 :=
  let l := r.s.line n
  if l.half0 = 0 ∧ l.half1 = 0 ∧ ((List.range 4).all fun d => (findCopy (r.s.die d).replicas n).isNone) then
    updHome r (n * 128) fun x => { x with dir := dirRemove x.dir n }
  else r

/-! ## Recalls (R411, R412, R498) -/

/-- A port that carries traffic. -/
def Link.up (l : Link) : Bool := match l.st with | .active | .degraded => true | _ => false

/-- A flit leaves a port: it stays in the replay buffer until it is acknowledged (R491). -/
def sendFlit (r : R s0) (p : Nat) : R s0 :=
  updLink r p fun l => { l with seqTx := l.seqTx + 1, unacked := l.unacked ++ [l.seqTx.toNat] }

/-- Master number of a host on a Muvin port (R496): 4 and up, in increasing order of node ID. -/
def masterOfNode (n : Nat) : Nat := 4 + (List.range n).countP Sys2Proof.Config.isHost

/-- The port of a host master (R496). -/
def hostPort (s : State) (m : Nat) : Option Nat :=
  match m with
  | 0 => some 0
  | 1 => some 5
  | 2 => some 9
  | 3 => some 14
  | _ => (List.range 18).find? fun p =>
      let l := s.link p
      l.up && !l.cxlen && Sys2Proof.Config.isHost l.peer.toNat && decide (masterOfNode l.peer.toNat = m)

/-- A recall of an owned half goes out; a shared one ends, when the access writes. `hi` names the upper half. -/
def askHalf (r : R s0) (n : Nat) (hi write : Bool) : R s0 :=
  let l := r.s.line n
  let v := if hi then l.half1 else l.half0
  let m := if hi then l.host1 else l.host0
  if v = 2 then
    let r1 := updLine r n fun x => if hi then { x with half1 := 3, since1 := r.s.clk } else { x with half0 := 3, since0 := r.s.clk }
    match hostPort r.s m with
    | some p => if (r.s.link p).cxlen then r1 else sendFlit r1 p
    | none => r1
  else if v = 1 ∧ write then updLine r n fun x => if hi then { x with half1 := 0 } else { x with half0 := 0 }
  else r

/-- A recall of the displaced entry (R411): its replicas are evicted, a shared host span ends and an owned one is
recalled (state 3). -/
def dirRecall (r : R s0) (n : Nat) : R s0 :=
  let r1 := r.each (List.range 4) fun q d => updDie q d fun x => { x with replicas := x.replicas.filter (·.line ≠ n) }
  dirFreeLine (askHalf (askHalf r1 n false true) n true true) n

/-- Gives a line its entry; false when the new entry itself was displaced and the grant is withheld. -/
def dirGrant (r : R s0) (n : Nat) : R s0 × Bool :=
  let (d, x) := dirInsert (r.s.homeSlice (n * 128)).dir n
  let r1 := updHome r (n * 128) fun s => { s with dir := d }
  match x with
  | none => (r1, true)
  | some y => if y = n then (r1, false) else (dirRecall r1 y, true)

/-! ## Reads by a core (R399, R401, R406, R407) -/

/-- Where a load may be served (R401, R407): any readable copy, the die-level copy, the home. -/
inductive Level where
  | any | die | home
deriving DecidableEq, Repr

def levelOfAcq (acq : Bool) (scope : Nat) : Level :=
  if acq = false then .any else if scope ≤ 3 then .any else if scope ≤ 5 then .die else .home

/-- The whole line as the home holds it, as an answer for a span. -/
def homeAnswer (s : State) (n span : Nat) : LineCopy :=
  let l := s.line n
  ⟨n, span, l.wts, l.rts, s.bytes (n * 128) 128⟩

/-- A read performed at the home under a lease (R399); an uncached line stays out of L2 (R361). -/
def homeRead (r : R s0) (p len pa span : Nat) (leaf : Word) : R s0 × LineCopy :=
  let r1 := grantLease (homeFill r pa) pa p len
  let a := homeAnswer r1.s (pa / 128) span
  (if leafCached leaf then r1 else homeEvict r1 pa, a)

/-- The die-level copy for die `d` (R406): a readable replica, or one renewed at the home, or the home. -/
def dieRead (r : R s0) (d p need len pa span : Nat) (leaf : Word) : R s0 × LineCopy :=
  let held := decide (d ≠ homeDie pa) && eligible r.s pa leaf &&
    (match trackOf r.s pa with | some t => t.mask.testBit d | none => false)
  if held then
    match (findCopy (r.s.die d).replicas (pa / 128)).filter
        fun c => readable r.s.mgmt.tf p span c && decide (need ≤ c.rts) with
    | some c => (r, { c with span := span })
    | none =>
      let (r1, a) := homeRead r p len pa span leaf
      let (r2, ok) := dirGrant r1 (pa / 128)
      let c := mergeCopy (findCopy (r2.s.die d).replicas (pa / 128)) a
      (r2.when ok fun q => updDie q d fun x => { x with replicas := setCopy (384 * 4096) x.replicas c }, a)
  else
    let (r1, a) := homeRead r p len pa span leaf
    (countRead r1 pa d leaf, a)

/-- What a read of a core answers, at the level given (R399, R406); `need` is the tick its lease must reach. -/
def coreRead (r : R s0) (c : Nat) (lv : Level) (need len pa span : Nat) (leaf : Word) : R s0 × LineCopy :=
  let p := ownerTick r.s (.core c)
  let d := dieOfCore c
  let lv := if leafCached leaf = false ∨ leafPolicy leaf = 3 then .home else lv
  match lv with
  | .home => homeRead r p len pa span leaf
  | .die => dieRead r d p need len pa span leaf
  | .any =>
    match (findCopy (r.s.core c).l1 (pa / 128)).filter
        fun x => readable r.s.mgmt.tf p span x && decide (need ≤ x.rts) with
    | some x => (r, x)
    | none =>
      let (r1, a) := dieRead r d p need len pa span leaf
      let x := mergeCopy (findCopy (r1.s.core c).l1 (pa / 128)) a
      (updCore r1 c fun k => { k with l1 := setCopy (l1Cap k) k.l1 x }, x)

/-- Bytes of a copy. -/
def LineCopy.get (c : LineCopy) (pa n : Nat) : List Byte := (c.bytes.drop (pa % 128)).take n

/-- A load of a core at a physical address within one line: the bytes it returns; rmax and, for an acquire, pts
move (R397, R401). -/
def coreLoad (r : R s0) (c ctx : Nat) (lv : Level) (acq : Bool) (pa n : Nat) (leaf : Word) : R s0 × List Byte :=
  let x := r.s.ctx ctx
  let lv := if x.det then .home else lv
  let (r1, a) := coreRead r c lv (ownerTick r.s (.core c)) x.lease.toNat pa (spanOf pa n) leaf
  let r2 := updCore r1 c fun k => { k with rmax := max k.rmax a.wts }
  (r2.when acq fun q => raiseOwner q (.core c) a.wts, a.get pa n)

/-- A read by another tick owner, at the home (R407). -/
def ownerLoad (r : R s0) (o : Owner) (ctx pa n : Nat) (leaf : Word) : R s0 × List Byte :=
  let (r1, a) := homeRead r (ownerTick r.s o) (r.s.ctx ctx).lease.toNat pa (spanOf pa n) leaf
  (r1, a.get pa n)

/-! ## Requests -/

def getReq (s : State) (id : Nat) : Option Req := s.reqs.find? fun q => q.id = id
def updReq (r : R s0) (id : Nat) (f : Req → Req) : R s0 :=
  updReqs r fun l => l.map fun q => if q.id = id then f q else q
def dropReq (r : R s0) (id : Nat) : R s0 := updReqs r fun l => l.filter (·.id ≠ id)

/-- A read value as R73 extends it, or ERROR when a lane holds a NaN code (R77, R177). -/
def readValue (ty : Ty) (l : List Byte) : Kind × Word :=
  let w := BitVec.ofNat 64 (ofBytesLE l)
  let v := match ty with
    | .s32 => BitVec.ofInt 64 (sInt 32 (w.toNat % 2 ^ 32))
    | _ => w
  if anyNaN ty w then (.error, w) else (.data, v)

/-- What a sleeping waiter reads from the bytes as they stand (R194, R330): none while its condition fails. The
flag says that it completes as an acquire. -/
def waiterValue (s : State) (q : Req) : Option (Word × Bool) :=
  match q.op with
  | .waita b =>
    let w := s.nat q.pa q.size
    if w = b.toNat % 2 ^ (8 * q.size) then some ((readValue q.ty (s.bytes q.pa q.size)).2, q.acq) else none
  | .barwt p => ((barOf (s.bytes q.pa 16)).wait p).map fun v =>
      match q.instr with | .bartst _ => (v.1, false) | _ => v
  | _ => none

/-- A waiter completes with a value (R194): it leaves the table, and an acquire moves its core's tick (R401). -/
def wakeReq (r : R s0) (q : Req) (v : Word) (acq : Bool) : R s0 :=
  let pending := BitVec.ofInt 64 (barOf (r.s.bytes q.pa 16)).pending
  let r1 := updReq r q.id fun x =>
    { x with stage := .performed, rk := .data, rv := v,
             rv2 := (match x.instr with | .bartst _ => pending | _ => v) }
  let r2 := updHome r1 q.pa fun x => { x with waiters := x.waiters.filter (·.id ≠ q.id) }
  r2.when acq fun z =>
    match q.op with
    | .barwt _ => acquireM z q.firing.core
    | _ => raiseOwner z (.core q.firing.core) (z.s.line (q.pa / 128)).wts

/-- A waiter is registered on one of some granules. -/
def onGranules (q : Waiter) (g n : Nat) : Bool := decide (g ≤ q.pa / 8 + 1 ∧ q.pa / 8 < g + n)

/-- Every waiter registered on the granules written is evaluated (R194). -/
def wakeWaiters (r : R s0) (pa n : Nat) : R s0 :=
  let g := pa / 8
  let cnt := (pa + n + 7) / 8 - g
  r.each (r.s.homeSlice pa).waiters fun r w =>
    if onGranules w g cnt then
      match getReq r.s w.id with
      | some q => (match waiterValue r.s q with
        | some (v, a) => wakeReq r q v a
        | none => r)
      | none => r
    else r

/-! ## Writes at a home (R400) -/

/-- The bytes and tick of a store enter the copies of its own core and die (R400); a copy that the home had
already replaced keeps none of its other granules (log 13). -/
def writeOwn (r : R s0) (c pa : Nat) (l : List Byte) (was w : Nat) : R s0 :=
  let n := pa / 128
  let sp := spanOf pa l.length
  let put (x : LineCopy) : LineCopy :=
    { x with bytes := x.bytes.take (pa % 128) ++ l ++ x.bytes.drop (pa % 128 + l.length), wts := w,
             rts := max x.rts w }
  let f (x : LineCopy) : Option LineCopy :=
    if x.line ≠ n then some x
    else if x.wts ≠ was then none
    else if x.span &&& sp = sp then some (put x) else some x
  let r1 := updCore r c fun k => { k with l1 := k.l1.filterMap f }
  updDie r1 (dieOfCore c) fun d => { d with replicas := d.replicas.filterMap f }

/-- A plain store or atomic sets the expected numbers of its granules' lanes back to 0 (R186). -/
def resetLanes (r : R s0) (pa n : Nat) : R s0 :=
  if (r.s.homeSlice pa).lanes.isEmpty then r
  else
    let zero (l : Lane) : Lane := if pa / 8 ≤ l.granule ∧ l.granule ≤ (pa + n - 1) / 8 then { l with n := 0 } else l
    updHome r pa fun x => { x with lanes := (x.lanes.map zero).filter fun l => l.n ≠ 0 ∨ l.buf ≠ [] }

/-- Regions whose deltas a store forms: Building, Active or Resyncing (R441, R442). -/
def tracksNow (g : Region) : Bool :=
  match g.st with
  | .building | .active | .resyncing => true
  | _ => false

/-- The deltas of a store join their die's queue (R435). -/
def formDeltas (r : R s0) (f g : Nat → Byte) (pa n : Nat) : R s0 :=
  let d := homeDie pa
  let ds := (r.s.die d).regions.flatMap fun x =>
    if tracksNow x.2 && x.2.frames.any (fun fr => fr.2 = pa / 2 ^ 16) then
      storeDeltas f g x.1 (homeSlice pa) x.2 pa n
    else []
  if ds.isEmpty then r else updDie r d fun x => { x with deltas := x.deltas ++ ds }

/-- A write of at most one line performed at its home by a tick owner: the writer's jump, the bytes, the owner's copies,
the region's write count, the lanes unless the write is an ordered atomic, the deltas, the copied bit, the
owner's tick and the waiters. -/
def homeWrite (r : R s0) (o : Owner) (leaf : Word) (plain : Bool) (pa : Nat) (l : List Byte) : R s0 :=
  let n := pa / 128
  let r1 := homeFill r pa
  let ln := r1.s.line n
  let w := max (ownerTick r1.s o) (ln.rts + 1)
  let f := r1.s.byte
  let r2 := putBytes (updLine r1 n fun x => { x with wts := w, rts := w }) pa l
  let r3 := match o with
    | .core c => writeOwn r2 c pa l ln.wts w
    | _ => r2
  let r4 := (countWrite r3 pa).when plain fun q => resetLanes q pa l.length
  let r5 := formDeltas r4 f r4.s.byte pa l.length
  let r6 := match (r5.s.frame (pa / 2 ^ 16)).st with
    | .copying _ => updFrame r5 (pa / 2 ^ 16) fun x => { x with copied := x.copied.filter fun k => k ≠ n % 512 }
    | _ => r5
  let r7 := raiseOwner r6 o w
  let r8 := if r7.s.bad.isEmpty then r7 else r7.eff (.bad (r7.s.bad.filter (fun g => !(decide (pa ≤ 8 * g ∧ 8 * g + 8 ≤ pa + l.length)))))
  let r9 := wakeWaiters r8 pa l.length
  if leafCached leaf then r9 else homeEvict r9 pa

/-- A write of any length, line by line in increasing order. -/
def writeLines (r : R s0) (o : Owner) (leaf : Word) : Nat → Nat → List Byte → R s0
  | 0, _, _ => r
  | fuel + 1, pa, l =>
    if l.isEmpty then r
    else
      let k := 128 - pa % 128
      writeLines (homeWrite r o leaf true pa (l.take k)) o leaf fuel (pa + k) (l.drop k)

/-! ## What makes an access wait at its home -/

/-- A host owns, or is being asked for, a half that the bytes touch (R412): state 2 owned, 3 being recalled. -/
def hostOwned (s : State) (pa n : Nat) : Bool :=
  let l := s.line (pa / 128)
  let t0 := decide (pa % 128 < 64)
  let t1 := decide (64 < pa % 128 + n)
  (t0 && decide (2 ≤ l.half0)) || (t1 && decide (2 ≤ l.half1))

/-- Asks the host for the halves it owns, and ends shared ones when the access writes. -/
def recallHalves (r : R s0) (pa n : Nat) (write : Bool) : R s0 :=
  let t0 := decide (pa % 128 < 64)
  let t1 := decide (64 < pa % 128 + n)
  let l := r.s.line (pa / 128)
  if l.half0 = 0 ∧ l.half1 = 0 then r
  else
    let r1 := r.when t0 fun q => askHalf q (pa / 128) false write
    dirFreeLine (r1.when t1 fun q => askHalf q (pa / 128) true write) (pa / 128)

/-- New device accesses wait while the frame is Flipping, Freezing or Switching (R365, R366). -/
def frameWaits (s : State) (pa : Nat) : Bool :=
  match (s.frame (pa / 2 ^ 16)).st with
  | .flipping .. | .freezing .. => true
  | _ => false

/-- The bytes lie in uncorrectable storage (R477). -/
def badBytes (s : State) (pa n : Nat) : Bool := s.bad.any fun g => pa < 8 * g + 8 && 8 * g < pa + n

/-- Bit 51 marks a remote address, unless it names this module (R490). -/
def isRemote (s : State) (pa : Nat) : Bool :=
  decide (pa / 2 ^ 51 % 2 = 1) && decide (pa / 2 ^ 40 % 2 ^ 11 ≠ s.mgmt.node.toNat)

/-- This module's address for a physical address that names it (R490). -/
def localPa (s : State) (pa : Nat) : Nat := if pa / 2 ^ 51 % 2 = 1 then pa % 2 ^ 40 else pa

/-! ## Copying of a migration (R366) -/

/-- The granules of `bad` after a line has been copied over another. -/
def copyBad (l : List Nat) (src dst : Nat) : List Nat :=
  (l.filter (fun g => g / 16 ≠ dst)) ++ (l.filter (fun g => g / 16 = src)).map fun g => dst * 16 + g % 16

/-- One line with its wts and rts to the new frame. -/
def copyLine (r : R s0) (src dst : Nat) : R s0 :=
  let r1 := homeFill r (src * 128)
  let l := r1.s.line src
  let r2 := updLine (putBytes r1 (dst * 128) (r1.s.bytes (src * 128) 128)) dst fun x => { x with wts := l.wts, rts := l.rts, inL2 := true }
  if r2.s.bad.isEmpty then r2 else r2.eff (.bad (copyBad r2.s.bad src dst))

/-- The copy engine copies the next lines of a frame in Copying. -/
def copyNext (r : R s0) (f : Nat) : Nat → R s0
  | 0 => r
  | fuel + 1 =>
    match (r.s.frame f).st with
    | .copying m =>
      if m.next < 512 then
        copyNext (updFrame (copyLine r (f * 512 + m.next) (m.to_ * 512 + m.next)) f fun x =>
          { x with st := .copying { m with next := m.next + 1 }, copied := m.next :: x.copied }) f fuel
      else r
    | _ => r

/-- The copy engines of all migrations over some clk: a line each clk. -/
def copyTick (r : R s0) (n : Nat) : R s0 :=
  r.each r.s.frames fun q x => match x.2.st with
    | .copying _ => copyNext q x.1 (min n 512)
    | _ => q

end Sys2Proof.Machine
end

