-- ==== Sys2Proof/Decode.lean ====
section
/-!
DEFINITION. The encoding of an instruction word (R95 to R106) and its reverse: the fields of a word, the
checks of R106 in their order, the instruction that a word names, and the encoder. The tables follow the
encoding tables of the family chapters.
-/

set_option linter.unusedVariables false

namespace Sys2Proof

open Sys2Proof.Machine

/-- The fields of a word (R95), with the extension word of an extended form (R101). -/
structure Raw where
  op : Nat
  pm : Nat
  ty : Nat
  md : Nat
  t1 : Nat
  t0 : Nat
  low : Nat
  ext : Nat
deriving DecidableEq, Repr

/-- What md holds (R98, R99, R138, R167): nothing, one bit, a rounding mode, rounding and saturation, the
mode of CVT, or memory modifiers with the suffixes listed for the instruction. -/
inductive MdKind where
  | none | one | rm | rmsat | cvt | mem0 | memA | memS | memC | memX | memF
deriving DecidableEq, Repr

/-- What bits [27:0] hold (R100). -/
inductive LowKind where
  | any28 | bit0 | csrr | csrw | cvt | hint | imm | iter | iterx | launch | lease | mem | pscope | reg | sel | sh | slotset | sopen | t2 | trap | two | wbit | wreg | zero
deriving DecidableEq, Repr

/-- Where an instruction may stand (R105). -/
inductive Container where
  | both | config | block
deriving DecidableEq, Repr

/-- How pm is restricted (R96, R97). -/
inductive PmRule where
  | free | only00 | configPred
deriving DecidableEq, Repr

/-- When targets are allowed (R167, R215, R242, R327, R369, R481). -/
inductive TgtRule where
  | free | withC | notInBlock | never
deriving DecidableEq, Repr

/-- One row of the encoding tables. -/
structure OpInfo where
  /-- listed type codes; none when the instruction takes no type suffix -/
  types : Option (List Nat)
  md : MdKind
  low : LowKind
  place : Container
  /-- lowest privilege: 0 user, 1 supervisor, 2 monitor -/
  level : Nat
  pm : PmRule
  tgt : TgtRule
deriving DecidableEq, Repr

/-! Listed type codes (R114, R138, R167, R300, R388, R446). -/
def allCodes : List Nat := [0,1,2,3,4,5,6,7]
def signedCodes : List Nat := [0,2,4,6]
def t64Codes : List Nat := [0,1]
def wideCodes : List Nat := [0,1,2,3,4,5]
def arithCodes : List Nat := [8,9,10,11]
def fpCodes : List Nat := [8,9,10,11,12,13]
def ordCodes : List Nat := [8,9,10,11,12,13,15]
def anyCodes : List Nat := [0,1,2,3,4,5,6,7,8,9,10,11,12,13,14,15]
def redCodes : List Nat := [9,10,11,12,13]
def dataCodes : List Nat := [0,1,2,3,4,5,6,7,8,9,10,11,12,13,15]
def i32Codes : List Nat := [0,1,2,3]
def swpCodes : List Nat := [0,1,2,3,8,9]
def ffCodes : List Nat := [8,9,10,11]
def mrgCodes : List Nat := [0,1,9]
def crdCodes : List Nat := [2,3,8]
def smxCodes : List Nat := [9]
def z64Codes : List Nat := [1]

/-- What the tables of the encoding chapters give one opcode. -/
def opInfo (op xop : Nat) : Option OpInfo :=
  match op with
  | 0x00 => some ⟨none, .none, .zero, .both, 0, .free, .free⟩  -- MOV
  | 0x01 => some ⟨none, .none, .t2, .both, 0, .free, .free⟩  -- FAN3
  | 0x02 => some ⟨none, .none, .t2, .both, 0, .free, .free⟩  -- FAN4
  | 0x03 => some ⟨none, .none, .zero, .both, 0, .configPred, .free⟩  -- NUL
  | 0x04 => some ⟨none, .one, .zero, .both, 0, .free, .free⟩  -- STEER
  | 0x05 => some ⟨none, .one, .zero, .both, 0, .free, .free⟩  -- GATE
  | 0x06 => some ⟨none, .none, .zero, .both, 0, .only00, .free⟩  -- MERGE
  | 0x07 => some ⟨none, .none, .iter, .config, 0, .only00, .free⟩  -- ITER
  | 0x08 => some ⟨none, .one, .iterx, .config, 0, .free, .free⟩  -- ITERX
  | 0x09 => some ⟨none, .none, .zero, .both, 0, .free, .free⟩  -- TAGGET
  | 0x0A => some ⟨none, .none, .zero, .config, 0, .free, .free⟩  -- TAGSET
  | 0x0B => some ⟨none, .none, .slotset, .config, 0, .free, .free⟩  -- SLOTSET
  | 0x0C => some ⟨none, .none, .zero, .config, 0, .free, .free⟩  -- STICKY
  | 0x0D => some ⟨none, .none, .zero, .config, 0, .free, .free⟩  -- PURGE
  | 0x0E => some ⟨none, .none, .two, .config, 0, .free, .free⟩  -- STOP
  | 0x0F => some ⟨none, .none, .two, .config, 0, .free, .free⟩  -- STOPT
  | 0x10 => some ⟨some allCodes, .none, .zero, .both, 0, .free, .free⟩  -- ADD
  | 0x11 => some ⟨some allCodes, .none, .zero, .both, 0, .free, .free⟩  -- SUB
  | 0x12 => some ⟨some allCodes, .none, .zero, .both, 0, .free, .free⟩  -- ADDS
  | 0x13 => some ⟨some allCodes, .none, .zero, .both, 0, .free, .free⟩  -- SUBS
  | 0x14 => some ⟨some allCodes, .none, .zero, .both, 0, .free, .free⟩  -- NEG
  | 0x15 => some ⟨some signedCodes, .none, .zero, .both, 0, .free, .free⟩  -- ABS
  | 0x16 => some ⟨some allCodes, .none, .zero, .both, 0, .free, .free⟩  -- MUL
  | 0x17 => some ⟨some allCodes, .none, .zero, .both, 0, .free, .free⟩  -- MULH
  | 0x18 => some ⟨some allCodes, .none, .zero, .both, 0, .free, .free⟩  -- DIV
  | 0x19 => some ⟨some allCodes, .none, .zero, .both, 0, .free, .free⟩  -- REM
  | 0x1A => some ⟨some allCodes, .none, .zero, .both, 0, .free, .free⟩  -- MIN
  | 0x1B => some ⟨some allCodes, .none, .zero, .both, 0, .free, .free⟩  -- MAX
  | 0x1C => some ⟨some t64Codes, .none, .imm, .both, 0, .free, .free⟩  -- LEA
  | 0x1D => some ⟨some allCodes, .none, .zero, .both, 0, .only00, .free⟩  -- SEL
  | 0x1E => some ⟨some allCodes, .none, .sh, .both, 0, .free, .free⟩  -- SEXT
  | 0x1F => some ⟨some allCodes, .none, .sh, .both, 0, .free, .free⟩  -- ZEXT
  | 0x20 => some ⟨some allCodes, .none, .zero, .both, 0, .free, .free⟩  -- AND
  | 0x21 => some ⟨some allCodes, .none, .zero, .both, 0, .free, .free⟩  -- OR
  | 0x22 => some ⟨some allCodes, .none, .zero, .both, 0, .free, .free⟩  -- XOR
  | 0x23 => some ⟨some allCodes, .none, .zero, .both, 0, .free, .free⟩  -- ANDN
  | 0x24 => some ⟨some allCodes, .none, .zero, .both, 0, .free, .free⟩  -- NOT
  | 0x25 => some ⟨some allCodes, .none, .zero, .both, 0, .free, .free⟩  -- SHL
  | 0x26 => some ⟨some allCodes, .none, .zero, .both, 0, .free, .free⟩  -- SHR
  | 0x27 => some ⟨some allCodes, .none, .zero, .both, 0, .free, .free⟩  -- SRA
  | 0x28 => some ⟨some allCodes, .none, .zero, .both, 0, .free, .free⟩  -- ROL
  | 0x29 => match xop with
    | 0x00 => some ⟨some allCodes, .none, .zero, .both, 0, .free, .free⟩  -- CLZ
    | 0x01 => some ⟨some allCodes, .none, .zero, .both, 0, .free, .free⟩  -- CTZ
    | 0x02 => some ⟨some allCodes, .none, .zero, .both, 0, .free, .free⟩  -- POPC
    | 0x03 => some ⟨some wideCodes, .none, .zero, .both, 0, .free, .free⟩  -- BSWAP
    | _ => none
  | 0x2A => some ⟨some allCodes, .none, .zero, .both, 0, .free, .free⟩  -- TEQ
  | 0x2B => some ⟨some allCodes, .none, .zero, .both, 0, .free, .free⟩  -- TNE
  | 0x2C => some ⟨some allCodes, .none, .zero, .both, 0, .free, .free⟩  -- TLT
  | 0x2D => some ⟨some allCodes, .none, .zero, .both, 0, .free, .free⟩  -- TLE
  | 0x30 => some ⟨some allCodes, .none, .imm, .both, 0, .free, .free⟩  -- ADDI
  | 0x31 => some ⟨some allCodes, .none, .imm, .both, 0, .free, .free⟩  -- ANDI
  | 0x32 => some ⟨some allCodes, .none, .imm, .both, 0, .free, .free⟩  -- ORI
  | 0x33 => some ⟨some allCodes, .none, .imm, .both, 0, .free, .free⟩  -- XORI
  | 0x34 => some ⟨some allCodes, .none, .sh, .both, 0, .free, .free⟩  -- SHLI
  | 0x35 => some ⟨some allCodes, .none, .sh, .both, 0, .free, .free⟩  -- SHRI
  | 0x36 => some ⟨some allCodes, .none, .sh, .both, 0, .free, .free⟩  -- SRAI
  | 0x37 => some ⟨some allCodes, .none, .imm, .both, 0, .free, .free⟩  -- TEQI
  | 0x38 => some ⟨some allCodes, .none, .imm, .both, 0, .free, .free⟩  -- TLTI
  | 0x39 => some ⟨some allCodes, .none, .imm, .both, 0, .free, .free⟩  -- TLEI
  | 0x3A => some ⟨some allCodes, .none, .imm, .both, 0, .configPred, .free⟩  -- MOVI
  | 0x3B => some ⟨some t64Codes, .none, .imm, .both, 0, .free, .free⟩  -- MOVHI
  | 0x3C => some ⟨some t64Codes, .none, .zero, .both, 0, .configPred, .free⟩  -- MOVX
  | 0x40 => some ⟨some arithCodes, .rmsat, .zero, .both, 0, .free, .free⟩  -- FADD
  | 0x41 => some ⟨some arithCodes, .rmsat, .zero, .both, 0, .free, .free⟩  -- FSUB
  | 0x42 => some ⟨some arithCodes, .rmsat, .zero, .both, 0, .free, .free⟩  -- FMUL
  | 0x43 => some ⟨some arithCodes, .rmsat, .zero, .both, 0, .only00, .free⟩  -- FMA
  | 0x44 => some ⟨some arithCodes, .rmsat, .zero, .both, 0, .only00, .free⟩  -- FMS
  | 0x45 => some ⟨some arithCodes, .rmsat, .zero, .both, 0, .only00, .free⟩  -- FNMA
  | 0x46 => some ⟨some ordCodes, .none, .zero, .both, 0, .free, .free⟩  -- FMIN
  | 0x47 => some ⟨some ordCodes, .none, .zero, .both, 0, .free, .free⟩  -- FMAX
  | 0x48 => some ⟨some fpCodes, .none, .zero, .both, 0, .free, .free⟩  -- FABS
  | 0x49 => some ⟨some fpCodes, .none, .zero, .both, 0, .free, .free⟩  -- FNEG
  | 0x4A => some ⟨some fpCodes, .none, .zero, .both, 0, .free, .free⟩  -- FCPS
  | 0x4B => some ⟨some arithCodes, .rmsat, .zero, .both, 0, .free, .free⟩  -- FDIV
  | 0x4C => some ⟨some arithCodes, .rmsat, .zero, .both, 0, .free, .free⟩  -- FSQRT
  | 0x4D => some ⟨some arithCodes, .rmsat, .zero, .both, 0, .free, .free⟩  -- FRCP
  | 0x4E => some ⟨some arithCodes, .rmsat, .zero, .both, 0, .free, .free⟩  -- FRSQ
  | 0x4F => some ⟨some arithCodes, .rmsat, .zero, .both, 0, .free, .free⟩  -- FEXP2
  | 0x50 => some ⟨some ordCodes, .none, .zero, .both, 0, .free, .free⟩  -- TFEQ
  | 0x51 => some ⟨some ordCodes, .none, .zero, .both, 0, .free, .free⟩  -- TFLT
  | 0x52 => some ⟨some ordCodes, .none, .zero, .both, 0, .free, .free⟩  -- TFLE
  | 0x53 => some ⟨some ordCodes, .none, .zero, .both, 0, .free, .free⟩  -- TFUN
  | 0x54 => some ⟨some arithCodes, .rm, .zero, .both, 0, .free, .free⟩  -- FRND
  | 0x55 => some ⟨some anyCodes, .cvt, .cvt, .both, 0, .free, .free⟩  -- CVT
  | 0x56 => some ⟨some redCodes, .rmsat, .wbit, .both, 0, .free, .free⟩  -- FSUM
  | 0x57 => some ⟨some redCodes, .rmsat, .wbit, .both, 0, .free, .free⟩  -- FDOT
  | 0x58 => some ⟨some arithCodes, .none, .zero, .both, 0, .free, .free⟩  -- PEXP
  | 0x59 => some ⟨some arithCodes, .rmsat, .zero, .both, 0, .only00, .free⟩  -- PMAC
  | 0x60 => some ⟨some dataCodes, .memA, .mem, .both, 0, .free, .free⟩  -- LD
  | 0x61 => some ⟨some dataCodes, .memA, .mem, .both, 0, .free, .free⟩  -- LDX
  | 0x62 => some ⟨some dataCodes, .mem0, .mem, .both, 0, .free, .free⟩  -- LDL
  | 0x63 => some ⟨some dataCodes, .memA, .mem, .both, 0, .free, .free⟩  -- LDT
  | 0x64 => some ⟨some dataCodes, .memS, .mem, .both, 0, .free, .withC⟩  -- ST
  | 0x65 => some ⟨some dataCodes, .memS, .mem, .both, 0, .only00, .withC⟩  -- STX
  | 0x66 => some ⟨some dataCodes, .memC, .mem, .both, 0, .free, .withC⟩  -- STL
  | 0x67 => some ⟨none, .mem0, .mem, .both, 0, .free, .never⟩  -- PREF
  | 0x70 => some ⟨some i32Codes, .memX, .mem, .both, 0, .free, .free⟩  -- AMOADD
  | 0x71 => some ⟨some i32Codes, .memX, .mem, .both, 0, .free, .free⟩  -- AMOAND
  | 0x72 => some ⟨some i32Codes, .memX, .mem, .both, 0, .free, .free⟩  -- AMOOR
  | 0x73 => some ⟨some i32Codes, .memX, .mem, .both, 0, .free, .free⟩  -- AMOXOR
  | 0x74 => some ⟨some i32Codes, .memX, .mem, .both, 0, .free, .free⟩  -- AMOMIN
  | 0x75 => some ⟨some i32Codes, .memX, .mem, .both, 0, .free, .free⟩  -- AMOMAX
  | 0x76 => some ⟨some swpCodes, .memX, .mem, .both, 0, .free, .free⟩  -- AMOSWP
  | 0x77 => some ⟨some i32Codes, .memX, .mem, .both, 0, .only00, .free⟩  -- AMOCAS
  | 0x78 => some ⟨some ffCodes, .memX, .mem, .both, 0, .free, .free⟩  -- AMOFADD
  | 0x79 => some ⟨none, .memF, .mem, .both, 0, .free, .free⟩  -- FENCE
  | 0x7A => some ⟨some i32Codes, .memA, .mem, .both, 0, .free, .free⟩  -- WAITA
  | 0x7B => some ⟨none, .mem0, .mem, .both, 0, .free, .free⟩  -- WAKE
  | 0x7C => some ⟨none, .none, .zero, .both, 1, .free, .free⟩  -- RETRY
  | 0x80 => some ⟨none, .none, .sopen, .both, 0, .free, .free⟩  -- SOPEN
  | 0x81 => some ⟨none, .none, .zero, .both, 0, .free, .free⟩  -- SCLOSE
  | 0x82 => some ⟨none, .none, .zero, .both, 0, .free, .free⟩  -- SPOS
  | 0x83 => some ⟨some mrgCodes, .one, .zero, .both, 0, .free, .free⟩  -- MRG
  | 0x84 => some ⟨none, .none, .zero, .both, 0, .free, .free⟩  -- MRGCFG
  | 0x85 => some ⟨some crdCodes, .none, .zero, .both, 0, .free, .free⟩  -- CRD
  | 0x90 => some ⟨none, .none, .bit0, .both, 0, .free, .free⟩  -- MWLD
  | 0x91 => some ⟨none, .none, .zero, .both, 0, .free, .free⟩  -- MWSWAP
  | 0x92 => some ⟨none, .none, .zero, .both, 0, .free, .free⟩  -- MSTR
  | 0x93 => some ⟨none, .none, .zero, .both, 0, .free, .free⟩  -- MRDO
  | 0x94 => some ⟨none, .none, .zero, .both, 0, .free, .free⟩  -- MZERO
  | 0x95 => some ⟨none, .none, .zero, .both, 0, .free, .free⟩  -- MCFG
  | 0xA0 => some ⟨some dataCodes, .memA, .mem, .both, 0, .free, .free⟩  -- KVLD
  | 0xA1 => some ⟨some dataCodes, .memS, .mem, .both, 0, .free, .withC⟩  -- KVST
  | 0xA2 => some ⟨none, .none, .zero, .both, 0, .free, .free⟩  -- KVAPP
  | 0xA3 => some ⟨none, .none, .zero, .both, 0, .free, .free⟩  -- KVQRY
  | 0xA4 => some ⟨some smxCodes, .none, .zero, .both, 0, .free, .free⟩  -- SMXUPD
  | 0xB0 => some ⟨none, .none, .zero, .both, 0, .free, .free⟩  -- DRVDECL
  | 0xB1 => some ⟨none, .none, .zero, .both, 0, .free, .free⟩  -- DRVDROP
  | 0xB2 => some ⟨some z64Codes, .memA, .mem, .both, 0, .free, .free⟩  -- DLD
  | 0xB3 => some ⟨some z64Codes, .mem0, .mem, .both, 0, .free, .free⟩  -- DLDL
  | 0xB4 => some ⟨none, .none, .zero, .both, 0, .free, .free⟩  -- DRVSYNC
  | 0xB5 => some ⟨none, .none, .zero, .both, 0, .free, .free⟩  -- DRVSTAT
  | 0xB8 => some ⟨none, .none, .lease, .both, 0, .free, .free⟩  -- LEASE
  | 0xB9 => some ⟨none, .none, .hint, .both, 0, .free, .free⟩  -- RPLHINT
  | 0xBA => some ⟨none, .none, .two, .both, 0, .free, .free⟩  -- TICKRD
  | 0xBB => some ⟨none, .none, .zero, .both, 0, .free, .free⟩  -- RPLCNT
  | 0xC0 => some ⟨none, .none, .reg, .block, 0, .free, .free⟩  -- READ
  | 0xC1 => some ⟨none, .none, .wreg, .block, 0, .free, .never⟩  -- WRITE
  | 0xC2 => some ⟨none, .none, .any28, .block, 0, .free, .never⟩  -- BRO
  | 0xC3 => some ⟨none, .none, .zero, .block, 0, .free, .never⟩  -- BRI
  | 0xC4 => some ⟨none, .none, .any28, .block, 0, .free, .never⟩  -- CALL
  | 0xC5 => some ⟨none, .none, .zero, .block, 0, .free, .never⟩  -- RET
  | 0xC6 => some ⟨none, .none, .zero, .block, 0, .free, .never⟩  -- HALT
  | 0xD0 => some ⟨none, .none, .launch, .both, 0, .free, .notInBlock⟩  -- LAUNCH
  | 0xD1 => some ⟨none, .none, .zero, .both, 0, .free, .notInBlock⟩  -- UNITEND
  | 0xD5 => some ⟨none, .none, .zero, .both, 0, .free, .notInBlock⟩  -- YIELD
  | 0xD2 => some ⟨none, .none, .zero, .both, 0, .free, .free⟩  -- GRPCNT
  | 0xD3 => some ⟨none, .none, .zero, .both, 0, .free, .free⟩  -- GRPWAIT
  | 0xD4 => some ⟨none, .none, .zero, .both, 0, .free, .free⟩  -- GRPCAN
  | 0xD8 => some ⟨none, .none, .zero, .both, 0, .free, .notInBlock⟩  -- BARINIT
  | 0xD9 => some ⟨none, .none, .zero, .both, 0, .free, .notInBlock⟩  -- BARADD
  | 0xDA => some ⟨none, .none, .zero, .both, 0, .free, .notInBlock⟩  -- BARARR
  | 0xDB => some ⟨none, .none, .zero, .both, 0, .free, .free⟩  -- BARWT
  | 0xDC => some ⟨none, .none, .zero, .both, 0, .free, .free⟩  -- BARTST
  | 0xDD => some ⟨none, .none, .zero, .both, 0, .free, .notInBlock⟩  -- ENGPOST
  | 0xDE => some ⟨none, .none, .zero, .both, 0, .free, .free⟩  -- ENGQRY
  | 0xE0 => some ⟨none, .none, .trap, .both, 0, .free, .notInBlock⟩  -- TRAP
  | 0xE1 => some ⟨none, .none, .zero, .both, 1, .free, .notInBlock⟩  -- ERET
  | 0xE2 => some ⟨none, .none, .csrr, .both, 0, .free, .free⟩  -- CSRRD
  | 0xE3 => some ⟨none, .none, .csrw, .both, 0, .free, .notInBlock⟩  -- CSRWR
  | 0xE4 => some ⟨none, .none, .zero, .both, 1, .free, .notInBlock⟩  -- MARK
  | 0xE5 => some ⟨none, .none, .zero, .both, 0, .free, .notInBlock⟩  -- BREAK
  | 0xE6 => some ⟨none, .none, .zero, .both, 0, .free, .free⟩  -- OWNQRY
  | 0xE8 => some ⟨none, .none, .bit0, .both, 0, .free, .free⟩  -- CFGLD
  | 0xE9 => some ⟨none, .none, .zero, .both, 0, .free, .free⟩  -- CFGSWAP
  | 0xEA => some ⟨none, .none, .zero, .both, 0, .free, .free⟩  -- CFGDRAIN
  | 0xEB => some ⟨none, .none, .bit0, .both, 0, .free, .free⟩  -- CFGPIN
  | 0xEC => some ⟨none, .none, .sel, .both, 0, .free, .free⟩  -- CFGQRY
  | 0xED => match xop with
    | 0x00 => some ⟨none, .none, .pscope, .both, 1, .free, .notInBlock⟩  -- TLBINV
    | 0x01 => some ⟨none, .none, .pscope, .both, 1, .free, .notInBlock⟩  -- TLBINVA
    | 0x02 => some ⟨none, .none, .zero, .both, 1, .free, .notInBlock⟩  -- BIASREQ
    | 0x03 => some ⟨none, .none, .zero, .both, 1, .free, .notInBlock⟩  -- PGMIG
    | 0x04 => some ⟨none, .none, .zero, .both, 1, .free, .free⟩  -- PGQRY
    | _ => none
  | _ => none

/-- The fields of a word and its extension word. -/
def unpack (w ext : Nat) : Raw :=
  { op := w / 2 ^ 56 % 2 ^ 8, pm := w / 2 ^ 54 % 2 ^ 2, ty := w / 2 ^ 50 % 2 ^ 4, md := w / 2 ^ 46 % 2 ^ 4,
    t1 := w / 2 ^ 37 % 2 ^ 9, t0 := w / 2 ^ 28 % 2 ^ 9, low := w % 2 ^ 28, ext := ext }

/-- The word of a set of fields. -/
def pack (r : Raw) : Nat :=
  r.op * 2 ^ 56 + r.pm * 2 ^ 54 + r.ty * 2 ^ 50 + r.md * 2 ^ 46 + r.t1 * 2 ^ 37 + r.t0 * 2 ^ 28 + r.low

/-- Opcodes of the extended forms (R101). -/
def isExtended (op : Nat) : Bool := decide (op = 0x02 ∨ op = 0x3C)

/-! Codes of the fields. -/
def bitN (b : Bool) : Nat := if b then 1 else 0
def encPm : Pm → Nat | .always => 0 | .onTrue => 1 | .onFalse => 2
def pmOf (n : Nat) : Pm := match n with | 1 => .onTrue | 2 => .onFalse | _ => .always
def slotCode : Slot → Nat | .a => 1 | .b => 2 | .p => 3
def slotOf (n : Nat) : Slot := match n with | 2 => .b | 3 => .p | _ => .a
/-- A target field (R96). -/
def encT : Target → Nat | none => 0 | some t => slotCode t.slot * 2 ^ 7 + t.idx.val
def targetOf (n : Nat) : Target :=
  if n / 2 ^ 7 % 2 ^ 2 = 0 then none else some ⟨slotOf (n / 2 ^ 7 % 2 ^ 2), Fin.ofNat 128 n⟩
def tyOf (n : Nat) : Ty :=
  match n % 16 with
  | 0 => .s64 | 1 => .z64 | 2 => .s32 | 3 => .z32 | 4 => .s16x4 | 5 => .z16x4 | 6 => .s8x8 | 7 => .z8x8
  | 8 => .f32 | 9 => .f32x2 | 10 => .f16x4 | 11 => .bf16x4 | 12 => .e4m3x8 | 13 => .e5m2x8
  | 14 => .e2m1x16 | _ => .p4x8
def encMode : RMode → Nat | .rne => 0 | .rtz => 1 | .rdn => 2 | .rup => 3 | .rna => 4
def modeOf (n : Nat) : RMode := match n with | 1 => .rtz | 2 => .rdn | 3 => .rup | 4 => .rna | _ => .rne
def encRound (r : Round) : Nat := encMode r.mode + bitN r.sat * 2 ^ 3
def roundOf (n : Nat) : Round := ⟨modeOf (n % 2 ^ 3), decide (n / 2 ^ 3 % 2 = 1)⟩
def encOrder : Order → Nat | .plain => 0 | .acq => 1 | .rel => 2
def orderOf (n : Nat) : Order := match n with | 1 => .acq | 2 => .rel | _ => .plain
/-- md of a memory-format word (R99). -/
def memMd (m : Mem) : Nat := bitN m.c * 2 ^ 3 + bitN m.ord * 2 ^ 2 + encOrder m.order
/-- Bits [27:0] of a memory-format word (R100). -/
def memLow (m : Mem) : Nat := m.lsid.val * 2 ^ 23 + m.scope.val * 2 ^ 20 + m.off.toNat
def hdrOf (r : Raw) : Hdr := ⟨pmOf r.pm, targetOf r.t0, targetOf r.t1⟩
def memOf (r : Raw) : Mem :=
  { c := decide (r.md / 2 ^ 3 % 2 = 1), ord := decide (r.md / 2 ^ 2 % 2 = 1), order := orderOf (r.md % 2 ^ 2),
    lsid := Fin.ofNat 32 (r.low / 2 ^ 23), scope := Fin.ofNat 8 (r.low / 2 ^ 20), off := BitVec.ofNat 20 r.low }
def rawOf (op : Nat) (h : Hdr) (ty md low ext : Nat) : Raw :=
  { op := op, pm := encPm h.pm, ty := ty, md := md, t1 := encT h.t1, t0 := encT h.t0, low := low, ext := ext }

/-- Read and write levels of a CSR (R461): none for an unlisted number; a write level of none for a
read-only one. -/
def csrLevels (n : Nat) : Option (Nat × Option Nat) :=
  match n with
  | 0x000 | 0x004 => some (0, some 0)
  | 0x001 => some (0, none)
  | 0x002 | 0x003 | 0x011 | 0x012 => some (0, some 1)
  | 0x010 | 0x013 | 0x014 | 0x018 | 0x019 | 0x01A | 0x030 | 0x031 | 0x032 | 0x033 | 0x034 => some (1, some 1)
  | 0x020 | 0x021 => some (2, some 2)
  | _ => none

/-- A target field holds 0, or an operand slot in its upper bits (R96). -/
def targetOk (n : Nat) : Bool := decide (n = 0 ∨ n / 2 ^ 7 % 2 ^ 2 ≠ 0)

/-- Listed combinations of memory modifiers (R99, R167): `.c`, `.ord`, `.acq`, `.rel`. -/
def memMdOk (cfg : Bool) (k : MdKind) (md : Nat) : Bool :=
  let c := decide (md / 8 % 2 = 1)
  let o := decide (md / 4 % 2 = 1)
  let ord := md % 4
  match k with
  | .mem0 => !c && !o && decide (ord = 0 ∨ ord = 3)
  | .memA => !c && !o && decide (ord ≠ 2)
  | .memS => (!c || cfg) && !o && decide (ord ≠ 1)
  | .memC => (!c || cfg) && !o && decide (ord = 0 ∨ ord = 3)
  | .memX => !c && (!o || cfg)
  | .memF => !c && !o
  | _ => true

/-- Step 4 of R106: the type is listed and the modifier bits are a listed combination. -/
def combosOk (cfg : Bool) (k : OpInfo) (r : Raw) : Bool :=
  (match k.types with | some l => l.contains r.ty | none => true) &&
  (match k.md with
   | .rm => decide (r.md < 8)
   | .cvt =>
     let sty := r.low / 2 ^ 20 % 16
     !(decide (r.ty = 14 ∧ sty = 14)) && !(decide (r.ty < 8 ∧ sty < 8 ∧ r.md % 8 ≠ 0))
   | .none | .one | .rmsat => true
   | m => memMdOk cfg m r.md)

/-- Lanes of a type code. -/
def codeLanes (n : Nat) : Nat := tyLanes (tyOf n)

/-- The part q of CVT (R154): within the ratio of the lane counts, 0 where E2M1 is involved. -/
def cvtPartOk (ty sty q : Nat) : Bool :=
  if ty = 14 ∨ sty = 14 then decide (q = 0)
  else
    let a := codeLanes ty
    let b := codeLanes sty
    decide (q * min a b < max a b)

/-- The limits on bits [27:0] of each layout (R61, R100, R113, R137 and the family tables). -/
def lowOk (cfg : Bool) (op : Nat) (k : OpInfo) (r : Raw) : Bool :=
  let v := r.low % 2 ^ 20
  let x := r.low / 2 ^ 20
  let xz := decide (x = 0) || decide (op = 0x29 ∨ op = 0xED)
  match k.low with
  | .zero => xz && decide (v = 0)
  | .imm => xz
  | .any28 => true
  | .t2 => decide (r.low % 2 ^ 19 = 0) && targetOk (r.low / 2 ^ 19)
      && (decide (op ≠ 0x02) || (decide (r.ext < 2 ^ 9) && targetOk r.ext))
  | .iter => decide (r.low < 2 ^ 10)
  | .iterx => if r.md = 1 then decide (r.low < 2 ^ 16) else decide (r.low = 0)
  | .slotset => decide (r.low < 7)
  | .two => decide (r.low < 4)
  | .sh => xz && decide (v < tyWidth (tyOf r.ty))
  | .cvt => decide (x < 16) && decide (v < 8) && cvtPartOk r.ty (x % 16) (v % 8)
  | .wbit => xz && decide (v < 2) && !(decide (v = 0 ∧ (r.ty = 12 ∨ r.ty = 13)))
  | .mem =>
    let lsid := r.low / 2 ^ 23
    let scope := r.low / 2 ^ 20 % 8
    (!cfg || decide (lsid = 0)) && (cfg || !(decide (scope = 1 ∨ scope = 2)))
      && (!(decide (op = 0x62 ∨ op = 0x66 ∨ op = 0xB3)) || decide (scope = 0))
      && (decide (op ≠ 0x67) || decide (scope = 3 ∨ scope = 5))
  | .sopen => xz && decide (v < 2 ^ 6)
  | .bit0 => xz && decide (v < 2)
  | .lease => xz && decide (v < 2 ^ 9)
  | .hint => xz && decide (v < 3)
  | .reg => decide (r.low < 2 ^ 6)
  | .wreg => decide (r.low < 2 ^ 6 ∧ r.low ≠ 0)
  | .launch => xz && decide (v < 2 ^ 14)
  | .trap => xz && decide (v < 2 ^ 16)
  | .csrr => xz && decide (v < 2 ^ 13) && (csrLevels (v % 2 ^ 12)).isSome
  | .csrw => xz && decide (v < 2 ^ 13) &&
      (match csrLevels (v % 2 ^ 12) with | some (_, some _) => true | _ => false)
  | .sel => xz && decide (v < 6)
  | .pscope => decide (3 ≤ v ∧ v ≤ 6)

/-- Step 5 of R106: reserved fields, pm, md, targets and the limits of the layouts. -/
def fieldsOk (cfg : Bool) (k : OpInfo) (r : Raw) : Bool :=
  decide (r.pm ≠ 3)
  && (match k.pm with
      | .free => true
      | .only00 => decide (r.pm = 0)
      | .configPred => !cfg || decide (r.pm ≠ 0))
  && (k.types.isSome || decide (r.ty = 0))
  && (match k.md with
      | .none => decide (r.md = 0)
      | .one => decide (r.md < 2)
      | .rm | .rmsat | .cvt => decide (r.md % 8 < 5)
      | _ => decide (r.md % 4 ≠ 3))
  && lowOk cfg r.op k r
  && targetOk r.t0 && targetOk r.t1
  && (match k.tgt with
      | .free => true
      | .never => decide (r.t0 = 0 ∧ r.t1 = 0)
      | .notInBlock => cfg || decide (r.t0 = 0 ∧ r.t1 = 0)
      | .withC => decide (r.md / 8 % 2 = 1) || decide (r.t0 = 0 ∧ r.t1 = 0))
  && (isExtended r.op || decide (r.ext = 0))

/-- The level that a word needs (R105): the row's, or the one the CSR's map gives. -/
def levelOf (k : OpInfo) (r : Raw) : Nat :=
  match k.low with
  | .csrr => (match csrLevels (r.low % 2 ^ 12) with | some (l, _) => l | none => 0)
  | .csrw => (match csrLevels (r.low % 2 ^ 12) with | some (_, some l) => l | _ => 0)
  | _ => k.level

/-- The row of an opcode without its xop: whether the opcode is assigned, and where it may stand. -/
def opPlace (op : Nat) : Option Container := (opInfo op 0).map OpInfo.place

/-- The checks of R106, in order: the first that fails names the cause. `cfg` is true in a configuration,
`lvl` is the privilege level of the context (0 user, 1 supervisor, 2 monitor). -/
def checkRaw (cfg : Bool) (lvl : Nat) (r : Raw) : Option Cause :=
  match opPlace r.op with
  | none => some .illegalOp
  | some p =>
    if (decide (p = .block) && cfg) || (decide (p = .config) && !cfg) then some .illegalOp
    else match opInfo r.op (r.low / 2 ^ 20) with
    | none => some .illegalOp
    | some k =>
      if !combosOk cfg k r then some .illegalOp
      else if !fieldsOk cfg k r then some .reservedField
      else if lvl < levelOf k r then some .permission
      else none

/-- The instruction of a word whose checks have passed (R102, R103). -/
def build (r : Raw) : Option Instr :=
  match r.op with
  | 0x00 => some (.mov (hdrOf r))
  | 0x01 => some (.fan3 (hdrOf r) (targetOf (r.low / 2 ^ 19)))
  | 0x02 => some (.fan4 (hdrOf r) (targetOf (r.low / 2 ^ 19)) (targetOf r.ext))
  | 0x03 => some (.nul (hdrOf r))
  | 0x04 => some (.steer (hdrOf r) (decide (r.md = 1)))
  | 0x05 => some (.gate (hdrOf r) (decide (r.md = 1)))
  | 0x06 => some (.merge (hdrOf r))
  | 0x07 => some (.iter (hdrOf r) (Fin.ofNat 1024 r.low))
  | 0x08 => some (.iterx (hdrOf r) (if r.md = 1 then some (BitVec.ofNat 16 r.low) else none))
  | 0x09 => some (.tagget (hdrOf r))
  | 0x0A => some (.tagset (hdrOf r))
  | 0x0B => some (.slotset (hdrOf r) (Fin.ofNat 7 r.low))
  | 0x0C => some (.sticky (hdrOf r))
  | 0x0D => some (.purge (hdrOf r))
  | 0x0E => some (.stop (hdrOf r) (Fin.ofNat 4 r.low))
  | 0x0F => some (.stopt (hdrOf r) (Fin.ofNat 4 r.low))
  | 0x10 => some (.add (hdrOf r) (tyOf r.ty))
  | 0x11 => some (.sub (hdrOf r) (tyOf r.ty))
  | 0x12 => some (.adds (hdrOf r) (tyOf r.ty))
  | 0x13 => some (.subs (hdrOf r) (tyOf r.ty))
  | 0x14 => some (.neg (hdrOf r) (tyOf r.ty))
  | 0x15 => some (.abs (hdrOf r) (tyOf r.ty))
  | 0x16 => some (.mul (hdrOf r) (tyOf r.ty))
  | 0x17 => some (.mulh (hdrOf r) (tyOf r.ty))
  | 0x18 => some (.div (hdrOf r) (tyOf r.ty))
  | 0x19 => some (.rem (hdrOf r) (tyOf r.ty))
  | 0x1A => some (.min (hdrOf r) (tyOf r.ty))
  | 0x1B => some (.max (hdrOf r) (tyOf r.ty))
  | 0x1C => some (.lea (hdrOf r) (tyOf r.ty) (Fin.ofNat 8 (r.low / 2 ^ 17)) (BitVec.ofNat 17 r.low))
  | 0x1D => some (.sel (hdrOf r) (tyOf r.ty))
  | 0x1E => some (.sext (hdrOf r) (tyOf r.ty) (Fin.ofNat 64 r.low))
  | 0x1F => some (.zext (hdrOf r) (tyOf r.ty) (Fin.ofNat 64 r.low))
  | 0x20 => some (.and (hdrOf r) (tyOf r.ty))
  | 0x21 => some (.or (hdrOf r) (tyOf r.ty))
  | 0x22 => some (.xor (hdrOf r) (tyOf r.ty))
  | 0x23 => some (.andn (hdrOf r) (tyOf r.ty))
  | 0x24 => some (.not (hdrOf r) (tyOf r.ty))
  | 0x25 => some (.shl (hdrOf r) (tyOf r.ty))
  | 0x26 => some (.shr (hdrOf r) (tyOf r.ty))
  | 0x27 => some (.sra (hdrOf r) (tyOf r.ty))
  | 0x28 => some (.rol (hdrOf r) (tyOf r.ty))
  | 0x29 => match r.low / 2 ^ 20 with
    | 0x00 => some (.clz (hdrOf r) (tyOf r.ty))
    | 0x01 => some (.ctz (hdrOf r) (tyOf r.ty))
    | 0x02 => some (.popc (hdrOf r) (tyOf r.ty))
    | 0x03 => some (.bswap (hdrOf r) (tyOf r.ty))
    | _ => none
  | 0x2A => some (.teq (hdrOf r) (tyOf r.ty))
  | 0x2B => some (.tne (hdrOf r) (tyOf r.ty))
  | 0x2C => some (.tlt (hdrOf r) (tyOf r.ty))
  | 0x2D => some (.tle (hdrOf r) (tyOf r.ty))
  | 0x30 => some (.addi (hdrOf r) (tyOf r.ty) (BitVec.ofNat 20 r.low))
  | 0x31 => some (.andi (hdrOf r) (tyOf r.ty) (BitVec.ofNat 20 r.low))
  | 0x32 => some (.ori (hdrOf r) (tyOf r.ty) (BitVec.ofNat 20 r.low))
  | 0x33 => some (.xori (hdrOf r) (tyOf r.ty) (BitVec.ofNat 20 r.low))
  | 0x34 => some (.shli (hdrOf r) (tyOf r.ty) (Fin.ofNat 64 r.low))
  | 0x35 => some (.shri (hdrOf r) (tyOf r.ty) (Fin.ofNat 64 r.low))
  | 0x36 => some (.srai (hdrOf r) (tyOf r.ty) (Fin.ofNat 64 r.low))
  | 0x37 => some (.teqi (hdrOf r) (tyOf r.ty) (BitVec.ofNat 20 r.low))
  | 0x38 => some (.tlti (hdrOf r) (tyOf r.ty) (BitVec.ofNat 20 r.low))
  | 0x39 => some (.tlei (hdrOf r) (tyOf r.ty) (BitVec.ofNat 20 r.low))
  | 0x3A => some (.movi (hdrOf r) (tyOf r.ty) (BitVec.ofNat 20 r.low))
  | 0x3B => some (.movhi (hdrOf r) (tyOf r.ty) (BitVec.ofNat 20 r.low))
  | 0x3C => some (.movx (hdrOf r) (tyOf r.ty) (BitVec.ofNat 64 r.ext))
  | 0x40 => some (.fadd (hdrOf r) (tyOf r.ty) (roundOf r.md))
  | 0x41 => some (.fsub (hdrOf r) (tyOf r.ty) (roundOf r.md))
  | 0x42 => some (.fmul (hdrOf r) (tyOf r.ty) (roundOf r.md))
  | 0x43 => some (.fma (hdrOf r) (tyOf r.ty) (roundOf r.md))
  | 0x44 => some (.fms (hdrOf r) (tyOf r.ty) (roundOf r.md))
  | 0x45 => some (.fnma (hdrOf r) (tyOf r.ty) (roundOf r.md))
  | 0x46 => some (.fmin (hdrOf r) (tyOf r.ty))
  | 0x47 => some (.fmax (hdrOf r) (tyOf r.ty))
  | 0x48 => some (.fabs (hdrOf r) (tyOf r.ty))
  | 0x49 => some (.fneg (hdrOf r) (tyOf r.ty))
  | 0x4A => some (.fcps (hdrOf r) (tyOf r.ty))
  | 0x4B => some (.fdiv (hdrOf r) (tyOf r.ty) (roundOf r.md))
  | 0x4C => some (.fsqrt (hdrOf r) (tyOf r.ty) (roundOf r.md))
  | 0x4D => some (.frcp (hdrOf r) (tyOf r.ty) (roundOf r.md))
  | 0x4E => some (.frsq (hdrOf r) (tyOf r.ty) (roundOf r.md))
  | 0x4F => some (.fexp2 (hdrOf r) (tyOf r.ty) (roundOf r.md))
  | 0x50 => some (.tfeq (hdrOf r) (tyOf r.ty))
  | 0x51 => some (.tflt (hdrOf r) (tyOf r.ty))
  | 0x52 => some (.tfle (hdrOf r) (tyOf r.ty))
  | 0x53 => some (.tfun (hdrOf r) (tyOf r.ty))
  | 0x54 => some (.frnd (hdrOf r) (tyOf r.ty) (roundOf r.md))
  | 0x55 => some (.cvt (hdrOf r) (tyOf r.ty) (tyOf (r.low / 2 ^ 20)) (roundOf r.md) (Fin.ofNat 8 r.low))
  | 0x56 => some (.fsum (hdrOf r) (tyOf r.ty) (roundOf r.md) (decide (r.low % 2 = 1)))
  | 0x57 => some (.fdot (hdrOf r) (tyOf r.ty) (roundOf r.md) (decide (r.low % 2 = 1)))
  | 0x58 => some (.pexp (hdrOf r) (tyOf r.ty))
  | 0x59 => some (.pmac (hdrOf r) (tyOf r.ty) (roundOf r.md))
  | 0x60 => some (.ld (hdrOf r) (tyOf r.ty) (memOf r))
  | 0x61 => some (.ldx (hdrOf r) (tyOf r.ty) (memOf r))
  | 0x62 => some (.ldl (hdrOf r) (tyOf r.ty) (memOf r))
  | 0x63 => some (.ldt (hdrOf r) (tyOf r.ty) (memOf r))
  | 0x64 => some (.st (hdrOf r) (tyOf r.ty) (memOf r))
  | 0x65 => some (.stx (hdrOf r) (tyOf r.ty) (memOf r))
  | 0x66 => some (.stl (hdrOf r) (tyOf r.ty) (memOf r))
  | 0x67 => some (.pref (hdrOf r) (memOf r))
  | 0x70 => some (.amoadd (hdrOf r) (tyOf r.ty) (memOf r))
  | 0x71 => some (.amoand (hdrOf r) (tyOf r.ty) (memOf r))
  | 0x72 => some (.amoor (hdrOf r) (tyOf r.ty) (memOf r))
  | 0x73 => some (.amoxor (hdrOf r) (tyOf r.ty) (memOf r))
  | 0x74 => some (.amomin (hdrOf r) (tyOf r.ty) (memOf r))
  | 0x75 => some (.amomax (hdrOf r) (tyOf r.ty) (memOf r))
  | 0x76 => some (.amoswp (hdrOf r) (tyOf r.ty) (memOf r))
  | 0x77 => some (.amocas (hdrOf r) (tyOf r.ty) (memOf r))
  | 0x78 => some (.amofadd (hdrOf r) (tyOf r.ty) (memOf r))
  | 0x79 => some (.fence (hdrOf r) (memOf r))
  | 0x7A => some (.waita (hdrOf r) (tyOf r.ty) (memOf r))
  | 0x7B => some (.wake (hdrOf r) (memOf r))
  | 0x7C => some (.retry (hdrOf r))
  | 0x80 => some (.sopen (hdrOf r) (Fin.ofNat 16 r.low) (Fin.ofNat 4 (r.low / 2 ^ 4)))
  | 0x81 => some (.sclose (hdrOf r))
  | 0x82 => some (.spos (hdrOf r))
  | 0x83 => some (.mrg (hdrOf r) (tyOf r.ty) (decide (r.md = 1)))
  | 0x84 => some (.mrgcfg (hdrOf r))
  | 0x85 => some (.crd (hdrOf r) (tyOf r.ty))
  | 0x90 => some (.mwld (hdrOf r) (decide (r.low % 2 = 1)))
  | 0x91 => some (.mwswap (hdrOf r))
  | 0x92 => some (.mstr (hdrOf r))
  | 0x93 => some (.mrdo (hdrOf r))
  | 0x94 => some (.mzero (hdrOf r))
  | 0x95 => some (.mcfg (hdrOf r))
  | 0xA0 => some (.kvld (hdrOf r) (tyOf r.ty) (memOf r))
  | 0xA1 => some (.kvst (hdrOf r) (tyOf r.ty) (memOf r))
  | 0xA2 => some (.kvapp (hdrOf r))
  | 0xA3 => some (.kvqry (hdrOf r))
  | 0xA4 => some (.smxupd (hdrOf r) (tyOf r.ty))
  | 0xB0 => some (.drvdecl (hdrOf r))
  | 0xB1 => some (.drvdrop (hdrOf r))
  | 0xB2 => some (.dld (hdrOf r) (tyOf r.ty) (memOf r))
  | 0xB3 => some (.dldl (hdrOf r) (tyOf r.ty) (memOf r))
  | 0xB4 => some (.drvsync (hdrOf r))
  | 0xB5 => some (.drvstat (hdrOf r))
  | 0xB8 => some (.lease (hdrOf r) (Fin.ofNat 256 r.low) (decide (r.low / 2 ^ 8 % 2 = 1)))
  | 0xB9 => some (.rplhint (hdrOf r) (Fin.ofNat 3 r.low))
  | 0xBA => some (.tickrd (hdrOf r) (Fin.ofNat 4 r.low))
  | 0xBB => some (.rplcnt (hdrOf r))
  | 0xC0 => some (.read (hdrOf r) (Fin.ofNat 64 r.low))
  | 0xC1 => some (.write (hdrOf r) (Fin.ofNat 64 r.low))
  | 0xC2 => some (.bro (hdrOf r) (BitVec.ofNat 28 r.low))
  | 0xC3 => some (.bri (hdrOf r))
  | 0xC4 => some (.call (hdrOf r) (BitVec.ofNat 28 r.low))
  | 0xC5 => some (.ret (hdrOf r))
  | 0xC6 => some (.halt (hdrOf r))
  | 0xD0 => some (.launch (hdrOf r) (Fin.ofNat 16384 r.low))
  | 0xD1 => some (.unitend (hdrOf r))
  | 0xD5 => some (.yield (hdrOf r))
  | 0xD2 => some (.grpcnt (hdrOf r))
  | 0xD3 => some (.grpwait (hdrOf r))
  | 0xD4 => some (.grpcan (hdrOf r))
  | 0xD8 => some (.barinit (hdrOf r))
  | 0xD9 => some (.baradd (hdrOf r))
  | 0xDA => some (.bararr (hdrOf r))
  | 0xDB => some (.barwt (hdrOf r))
  | 0xDC => some (.bartst (hdrOf r))
  | 0xDD => some (.engpost (hdrOf r))
  | 0xDE => some (.engqry (hdrOf r))
  | 0xE0 => some (.trap (hdrOf r) (BitVec.ofNat 16 r.low))
  | 0xE1 => some (.eret (hdrOf r))
  | 0xE2 => some (.csrrd (hdrOf r) (BitVec.ofNat 12 r.low) (decide (r.low / 2 ^ 12 % 2 = 1)))
  | 0xE3 => some (.csrwr (hdrOf r) (BitVec.ofNat 12 r.low) (decide (r.low / 2 ^ 12 % 2 = 1)))
  | 0xE4 => some (.mark (hdrOf r))
  | 0xE5 => some (.brk (hdrOf r))
  | 0xE6 => some (.ownqry (hdrOf r))
  | 0xE8 => some (.cfgld (hdrOf r) (decide (r.low % 2 = 1)))
  | 0xE9 => some (.cfgswap (hdrOf r))
  | 0xEA => some (.cfgdrain (hdrOf r))
  | 0xEB => some (.cfgpin (hdrOf r) (decide (r.low % 2 = 1)))
  | 0xEC => some (.cfgqry (hdrOf r) (Fin.ofNat 6 r.low))
  | 0xED => match r.low / 2 ^ 20 with
    | 0x00 => some (.tlbinv (hdrOf r) (Fin.ofNat 8 r.low))
    | 0x01 => some (.tlbinva (hdrOf r) (Fin.ofNat 8 r.low))
    | 0x02 => some (.biasreq (hdrOf r))
    | 0x03 => some (.pgmig (hdrOf r))
    | 0x04 => some (.pgqry (hdrOf r))
    | _ => none
  | _ => none

/-- The fields of an instruction's word (R95 to R101); an event has no word. -/
def toRaw (i : Instr) : Option Raw :=
  match i with
  | .mov h => some (rawOf 0x00 h 0 (0) (0) (0))
  | .fan3 h t2 => some (rawOf 0x01 h 0 (0) (encT t2 * 2 ^ 19) (0))
  | .fan4 h t2 t3 => some (rawOf 0x02 h 0 (0) (encT t2 * 2 ^ 19) (encT t3))
  | .nul h => some (rawOf 0x03 h 0 (0) (0) (0))
  | .steer h n => some (rawOf 0x04 h 0 (bitN n) (0) (0))
  | .gate h n => some (rawOf 0x05 h 0 (bitN n) (0) (0))
  | .merge h => some (rawOf 0x06 h 0 (0) (0) (0))
  | .iter h w => some (rawOf 0x07 h 0 (0) (w.val) (0))
  | .iterx h imm => some (rawOf 0x08 h 0 ((match imm with | some _ => 1 | none => 0)) ((match imm with | some k => k.toNat | none => 0)) (0))
  | .tagget h => some (rawOf 0x09 h 0 (0) (0) (0))
  | .tagset h => some (rawOf 0x0A h 0 (0) (0) (0))
  | .slotset h s => some (rawOf 0x0B h 0 (0) (s.val) (0))
  | .sticky h => some (rawOf 0x0C h 0 (0) (0) (0))
  | .purge h => some (rawOf 0x0D h 0 (0) (0) (0))
  | .stop h l => some (rawOf 0x0E h 0 (0) (l.val) (0))
  | .stopt h l => some (rawOf 0x0F h 0 (0) (l.val) (0))
  | .add h ty => some (rawOf 0x10 h (tyCode ty) (0) (0) (0))
  | .sub h ty => some (rawOf 0x11 h (tyCode ty) (0) (0) (0))
  | .adds h ty => some (rawOf 0x12 h (tyCode ty) (0) (0) (0))
  | .subs h ty => some (rawOf 0x13 h (tyCode ty) (0) (0) (0))
  | .neg h ty => some (rawOf 0x14 h (tyCode ty) (0) (0) (0))
  | .abs h ty => some (rawOf 0x15 h (tyCode ty) (0) (0) (0))
  | .mul h ty => some (rawOf 0x16 h (tyCode ty) (0) (0) (0))
  | .mulh h ty => some (rawOf 0x17 h (tyCode ty) (0) (0) (0))
  | .div h ty => some (rawOf 0x18 h (tyCode ty) (0) (0) (0))
  | .rem h ty => some (rawOf 0x19 h (tyCode ty) (0) (0) (0))
  | .min h ty => some (rawOf 0x1A h (tyCode ty) (0) (0) (0))
  | .max h ty => some (rawOf 0x1B h (tyCode ty) (0) (0) (0))
  | .lea h ty s off => some (rawOf 0x1C h (tyCode ty) (0) (s.val * 2 ^ 17 + off.toNat) (0))
  | .sel h ty => some (rawOf 0x1D h (tyCode ty) (0) (0) (0))
  | .sext h ty n => some (rawOf 0x1E h (tyCode ty) (0) (n.val) (0))
  | .zext h ty n => some (rawOf 0x1F h (tyCode ty) (0) (n.val) (0))
  | .and h ty => some (rawOf 0x20 h (tyCode ty) (0) (0) (0))
  | .or h ty => some (rawOf 0x21 h (tyCode ty) (0) (0) (0))
  | .xor h ty => some (rawOf 0x22 h (tyCode ty) (0) (0) (0))
  | .andn h ty => some (rawOf 0x23 h (tyCode ty) (0) (0) (0))
  | .not h ty => some (rawOf 0x24 h (tyCode ty) (0) (0) (0))
  | .shl h ty => some (rawOf 0x25 h (tyCode ty) (0) (0) (0))
  | .shr h ty => some (rawOf 0x26 h (tyCode ty) (0) (0) (0))
  | .sra h ty => some (rawOf 0x27 h (tyCode ty) (0) (0) (0))
  | .rol h ty => some (rawOf 0x28 h (tyCode ty) (0) (0) (0))
  | .clz h ty => some (rawOf 0x29 h (tyCode ty) (0) (0) (0))
  | .ctz h ty => some (rawOf 0x29 h (tyCode ty) (0) (0x01 * 2 ^ 20) (0))
  | .popc h ty => some (rawOf 0x29 h (tyCode ty) (0) (0x02 * 2 ^ 20) (0))
  | .bswap h ty => some (rawOf 0x29 h (tyCode ty) (0) (0x03 * 2 ^ 20) (0))
  | .teq h ty => some (rawOf 0x2A h (tyCode ty) (0) (0) (0))
  | .tne h ty => some (rawOf 0x2B h (tyCode ty) (0) (0) (0))
  | .tlt h ty => some (rawOf 0x2C h (tyCode ty) (0) (0) (0))
  | .tle h ty => some (rawOf 0x2D h (tyCode ty) (0) (0) (0))
  | .addi h ty imm => some (rawOf 0x30 h (tyCode ty) (0) (imm.toNat) (0))
  | .andi h ty imm => some (rawOf 0x31 h (tyCode ty) (0) (imm.toNat) (0))
  | .ori h ty imm => some (rawOf 0x32 h (tyCode ty) (0) (imm.toNat) (0))
  | .xori h ty imm => some (rawOf 0x33 h (tyCode ty) (0) (imm.toNat) (0))
  | .shli h ty k => some (rawOf 0x34 h (tyCode ty) (0) (k.val) (0))
  | .shri h ty k => some (rawOf 0x35 h (tyCode ty) (0) (k.val) (0))
  | .srai h ty k => some (rawOf 0x36 h (tyCode ty) (0) (k.val) (0))
  | .teqi h ty imm => some (rawOf 0x37 h (tyCode ty) (0) (imm.toNat) (0))
  | .tlti h ty imm => some (rawOf 0x38 h (tyCode ty) (0) (imm.toNat) (0))
  | .tlei h ty imm => some (rawOf 0x39 h (tyCode ty) (0) (imm.toNat) (0))
  | .movi h ty imm => some (rawOf 0x3A h (tyCode ty) (0) (imm.toNat) (0))
  | .movhi h ty imm => some (rawOf 0x3B h (tyCode ty) (0) (imm.toNat) (0))
  | .movx h ty v => some (rawOf 0x3C h (tyCode ty) (0) (0) (v.toNat))
  | .fadd h ty r => some (rawOf 0x40 h (tyCode ty) (encRound r) (0) (0))
  | .fsub h ty r => some (rawOf 0x41 h (tyCode ty) (encRound r) (0) (0))
  | .fmul h ty r => some (rawOf 0x42 h (tyCode ty) (encRound r) (0) (0))
  | .fma h ty r => some (rawOf 0x43 h (tyCode ty) (encRound r) (0) (0))
  | .fms h ty r => some (rawOf 0x44 h (tyCode ty) (encRound r) (0) (0))
  | .fnma h ty r => some (rawOf 0x45 h (tyCode ty) (encRound r) (0) (0))
  | .fmin h ty => some (rawOf 0x46 h (tyCode ty) (0) (0) (0))
  | .fmax h ty => some (rawOf 0x47 h (tyCode ty) (0) (0) (0))
  | .fabs h ty => some (rawOf 0x48 h (tyCode ty) (0) (0) (0))
  | .fneg h ty => some (rawOf 0x49 h (tyCode ty) (0) (0) (0))
  | .fcps h ty => some (rawOf 0x4A h (tyCode ty) (0) (0) (0))
  | .fdiv h ty r => some (rawOf 0x4B h (tyCode ty) (encRound r) (0) (0))
  | .fsqrt h ty r => some (rawOf 0x4C h (tyCode ty) (encRound r) (0) (0))
  | .frcp h ty r => some (rawOf 0x4D h (tyCode ty) (encRound r) (0) (0))
  | .frsq h ty r => some (rawOf 0x4E h (tyCode ty) (encRound r) (0) (0))
  | .fexp2 h ty r => some (rawOf 0x4F h (tyCode ty) (encRound r) (0) (0))
  | .tfeq h ty => some (rawOf 0x50 h (tyCode ty) (0) (0) (0))
  | .tflt h ty => some (rawOf 0x51 h (tyCode ty) (0) (0) (0))
  | .tfle h ty => some (rawOf 0x52 h (tyCode ty) (0) (0) (0))
  | .tfun h ty => some (rawOf 0x53 h (tyCode ty) (0) (0) (0))
  | .frnd h ty r => some (rawOf 0x54 h (tyCode ty) (encRound r) (0) (0))
  | .cvt h dty sty r q => some (rawOf 0x55 h (tyCode dty) (encRound r) (tyCode sty * 2 ^ 20 + q.val) (0))
  | .fsum h ty r w => some (rawOf 0x56 h (tyCode ty) (encRound r) (bitN w) (0))
  | .fdot h ty r w => some (rawOf 0x57 h (tyCode ty) (encRound r) (bitN w) (0))
  | .pexp h ty => some (rawOf 0x58 h (tyCode ty) (0) (0) (0))
  | .pmac h ty r => some (rawOf 0x59 h (tyCode ty) (encRound r) (0) (0))
  | .ld h ty m => some (rawOf 0x60 h (tyCode ty) (memMd m) (memLow m) (0))
  | .ldx h ty m => some (rawOf 0x61 h (tyCode ty) (memMd m) (memLow m) (0))
  | .ldl h ty m => some (rawOf 0x62 h (tyCode ty) (memMd m) (memLow m) (0))
  | .ldt h ty m => some (rawOf 0x63 h (tyCode ty) (memMd m) (memLow m) (0))
  | .st h ty m => some (rawOf 0x64 h (tyCode ty) (memMd m) (memLow m) (0))
  | .stx h ty m => some (rawOf 0x65 h (tyCode ty) (memMd m) (memLow m) (0))
  | .stl h ty m => some (rawOf 0x66 h (tyCode ty) (memMd m) (memLow m) (0))
  | .pref h m => some (rawOf 0x67 h 0 (memMd m) (memLow m) (0))
  | .amoadd h ty m => some (rawOf 0x70 h (tyCode ty) (memMd m) (memLow m) (0))
  | .amoand h ty m => some (rawOf 0x71 h (tyCode ty) (memMd m) (memLow m) (0))
  | .amoor h ty m => some (rawOf 0x72 h (tyCode ty) (memMd m) (memLow m) (0))
  | .amoxor h ty m => some (rawOf 0x73 h (tyCode ty) (memMd m) (memLow m) (0))
  | .amomin h ty m => some (rawOf 0x74 h (tyCode ty) (memMd m) (memLow m) (0))
  | .amomax h ty m => some (rawOf 0x75 h (tyCode ty) (memMd m) (memLow m) (0))
  | .amoswp h ty m => some (rawOf 0x76 h (tyCode ty) (memMd m) (memLow m) (0))
  | .amocas h ty m => some (rawOf 0x77 h (tyCode ty) (memMd m) (memLow m) (0))
  | .amofadd h ty m => some (rawOf 0x78 h (tyCode ty) (memMd m) (memLow m) (0))
  | .fence h m => some (rawOf 0x79 h 0 (memMd m) (memLow m) (0))
  | .waita h ty m => some (rawOf 0x7A h (tyCode ty) (memMd m) (memLow m) (0))
  | .wake h m => some (rawOf 0x7B h 0 (memMd m) (memLow m) (0))
  | .retry h => some (rawOf 0x7C h 0 (0) (0) (0))
  | .sopen h port sc => some (rawOf 0x80 h 0 (0) (port.val + sc.val * 2 ^ 4) (0))
  | .sclose h => some (rawOf 0x81 h 0 (0) (0) (0))
  | .spos h => some (rawOf 0x82 h 0 (0) (0) (0))
  | .mrg h ty d => some (rawOf 0x83 h (tyCode ty) (bitN d) (0) (0))
  | .mrgcfg h => some (rawOf 0x84 h 0 (0) (0) (0))
  | .crd h ty => some (rawOf 0x85 h (tyCode ty) (0) (0) (0))
  | .mwld h l => some (rawOf 0x90 h 0 (0) (bitN l) (0))
  | .mwswap h => some (rawOf 0x91 h 0 (0) (0) (0))
  | .mstr h => some (rawOf 0x92 h 0 (0) (0) (0))
  | .mrdo h => some (rawOf 0x93 h 0 (0) (0) (0))
  | .mzero h => some (rawOf 0x94 h 0 (0) (0) (0))
  | .mcfg h => some (rawOf 0x95 h 0 (0) (0) (0))
  | .kvld h ty m => some (rawOf 0xA0 h (tyCode ty) (memMd m) (memLow m) (0))
  | .kvst h ty m => some (rawOf 0xA1 h (tyCode ty) (memMd m) (memLow m) (0))
  | .kvapp h => some (rawOf 0xA2 h 0 (0) (0) (0))
  | .kvqry h => some (rawOf 0xA3 h 0 (0) (0) (0))
  | .smxupd h ty => some (rawOf 0xA4 h (tyCode ty) (0) (0) (0))
  | .drvdecl h => some (rawOf 0xB0 h 0 (0) (0) (0))
  | .drvdrop h => some (rawOf 0xB1 h 0 (0) (0) (0))
  | .dld h ty m => some (rawOf 0xB2 h (tyCode ty) (memMd m) (memLow m) (0))
  | .dldl h ty m => some (rawOf 0xB3 h (tyCode ty) (memMd m) (memLow m) (0))
  | .drvsync h => some (rawOf 0xB4 h 0 (0) (0) (0))
  | .drvstat h => some (rawOf 0xB5 h 0 (0) (0) (0))
  | .lease h n d => some (rawOf 0xB8 h 0 (0) (n.val + bitN d * 2 ^ 8) (0))
  | .rplhint h x => some (rawOf 0xB9 h 0 (0) (x.val) (0))
  | .tickrd h x => some (rawOf 0xBA h 0 (0) (x.val) (0))
  | .rplcnt h => some (rawOf 0xBB h 0 (0) (0) (0))
  | .read h g => some (rawOf 0xC0 h 0 (0) (g.val) (0))
  | .write h g => some (rawOf 0xC1 h 0 (0) (g.val) (0))
  | .bro h off => some (rawOf 0xC2 h 0 (0) (off.toNat) (0))
  | .bri h => some (rawOf 0xC3 h 0 (0) (0) (0))
  | .call h off => some (rawOf 0xC4 h 0 (0) (off.toNat) (0))
  | .ret h => some (rawOf 0xC5 h 0 (0) (0) (0))
  | .halt h => some (rawOf 0xC6 h 0 (0) (0) (0))
  | .launch h q => some (rawOf 0xD0 h 0 (0) (q.val) (0))
  | .unitend h => some (rawOf 0xD1 h 0 (0) (0) (0))
  | .yield h => some (rawOf 0xD5 h 0 (0) (0) (0))
  | .grpcnt h => some (rawOf 0xD2 h 0 (0) (0) (0))
  | .grpwait h => some (rawOf 0xD3 h 0 (0) (0) (0))
  | .grpcan h => some (rawOf 0xD4 h 0 (0) (0) (0))
  | .barinit h => some (rawOf 0xD8 h 0 (0) (0) (0))
  | .baradd h => some (rawOf 0xD9 h 0 (0) (0) (0))
  | .bararr h => some (rawOf 0xDA h 0 (0) (0) (0))
  | .barwt h => some (rawOf 0xDB h 0 (0) (0) (0))
  | .bartst h => some (rawOf 0xDC h 0 (0) (0) (0))
  | .engpost h => some (rawOf 0xDD h 0 (0) (0) (0))
  | .engqry h => some (rawOf 0xDE h 0 (0) (0) (0))
  | .trap h code => some (rawOf 0xE0 h 0 (0) (code.toNat) (0))
  | .eret h => some (rawOf 0xE1 h 0 (0) (0) (0))
  | .csrrd h n x => some (rawOf 0xE2 h 0 (0) (n.toNat + bitN x * 2 ^ 12) (0))
  | .csrwr h n x => some (rawOf 0xE3 h 0 (0) (n.toNat + bitN x * 2 ^ 12) (0))
  | .mark h => some (rawOf 0xE4 h 0 (0) (0) (0))
  | .brk h => some (rawOf 0xE5 h 0 (0) (0) (0))
  | .ownqry h => some (rawOf 0xE6 h 0 (0) (0) (0))
  | .cfgld h pin => some (rawOf 0xE8 h 0 (0) (bitN pin) (0))
  | .cfgswap h => some (rawOf 0xE9 h 0 (0) (0) (0))
  | .cfgdrain h => some (rawOf 0xEA h 0 (0) (0) (0))
  | .cfgpin h pin => some (rawOf 0xEB h 0 (0) (bitN pin) (0))
  | .cfgqry h x => some (rawOf 0xEC h 0 (0) (x.val) (0))
  | .tlbinv h s => some (rawOf 0xED h 0 (0) (s.val) (0))
  | .tlbinva h s => some (rawOf 0xED h 0 (0) (0x01 * 2 ^ 20 + s.val) (0))
  | .biasreq h => some (rawOf 0xED h 0 (0) (0x02 * 2 ^ 20) (0))
  | .pgmig h => some (rawOf 0xED h 0 (0) (0x03 * 2 ^ 20) (0))
  | .pgqry h => some (rawOf 0xED h 0 (0) (0x04 * 2 ^ 20) (0))
  | .tokenAccept _ _ _ => none
  | .spillRefill _ _ _ => none
  | .slotImageFetch _ _ _ _ => none
  | .coreQuiescent _ _ => none
  | .markerArrival _ _ => none
  | .trestleGrant _ _ _ _ => none
  | .blockMap _ _ => none
  | .blockSettlement _ _ => none
  | .watchdog _ _ => none
  | .doorbell _ _ => none
  | .queueEnable _ => none
  | .queueDisable _ => none
  | .recordTake _ => none
  | .unitTakesPlace _ => none
  | .unitCompletion _ _ _ => none
  | .configLoad _ _ => none
  | .drainComplete _ => none
  | .drainTimeout _ => none
  | .spareRepair _ _ _ => none
  | .portReport _ => none
  | .portAccessIssue _ => none
  | .streamElement _ _ _ => none
  | .outputStreamToken _ _ _ => none
  | .mergeInput _ _ => none
  | .mergeNodeDecision _ _ => none
  | .fifoAccept _ _ => none
  | .fifoEmit _ _ => none
  | .formatIsland _ _ => none
  | .matrixCommandFire _ _ => none
  | .planeLoadComplete _ => none
  | .homeAccess _ => none
  | .accessCompletion _ => none
  | .waitaPoll _ => none
  | .orderedAtomicArrival _ => none
  | .orderedAtomicRetry _ => none
  | .deltaApply _ _ => none
  | .rescan _ _ => none
  | .flushMarker _ _ => none
  | .publish _ _ _ => none
  | .buildComplete _ _ => none
  | .ptsAdvance _ => none
  | .trackerDecay => none
  | .rebase => none
  | .scrubReport => none
  | .jobArrival _ _ => none
  | .jobStart _ _ => none
  | .jobLanding _ _ => none
  | .ringTimeout _ _ => none
  | .copyingComplete _ => none
  | .freezingComplete _ => none
  | .cutComplete _ => none
  | .saveImageWritten _ => none
  | .scrub => none
  | .requestFlit _ _ => none
  | .completionFlit _ _ _ => none
  | .recallFlit _ _ _ _ => none
  | .collectiveFlit _ _ _ => none
  | .managementFlit _ _ => none
  | .ackFlit _ _ => none
  | .nakFlit _ _ => none
  | .abortFlit _ _ => none
  | .completionTimeout _ => none
  | .trainingComplete _ _ => none
  | .trainingTimeout _ => none
  | .laneLoss _ _ => none
  | .peerLoss _ => none
  | .portEnable _ => none
  | .portDisable _ => none
  | .powerGood => none
  | .claim _ => none
  | .handover _ _ => none
  | .detach _ => none
  | .cut _ _ _ => none
  | .cutCheckpoint _ _ _ => none
  | .cutResume _ _ _ => none
  | .flip _ _ _ => none
  | .post _ _ _ => none
  | .stream _ _ => none
  | .quote _ _ => none
  | .resetCold _ => none
  | .resetWarm _ => none
  | .ownershipLapse => none
  | .throttleStep _ _ => none
  | .thermalTrip => none
  | .contextCreate _ _ _ => none
  | .contextDestroy _ _ => none
  | .tickbaseWrite _ _ => none
  | .registerWrite _ _ _ => none
  | .recallTimeout _ => none
  | .peerPresent _ _ => none
  | .badFlit _ _ => none
  | .resumeComplete _ => none
  | .ready => none
  | .duplicatedStateCompare _ => none

/-- Decoding of one instruction word with its extension word (0 for a form that has none). -/
def decode (cfg : Bool) (lvl : Nat) (w ext : Nat) : Except Cause Instr :=
  let r := unpack w (if isExtended (w / 2 ^ 56 % 2 ^ 8) then ext else 0)
  match checkRaw cfg lvl r with
  | some c => .error c
  | none => match build r with
    | some i => .ok i
    | none => .error .illegalOp

/-- Whether an instruction's word passes every check of R106 in a container at a level. An event has no
word and is not asked. -/
def wordOk (cfg : Bool) (lvl : Nat) (i : Instr) : Bool :=
  match toRaw i with
  | none => false
  | some r => (checkRaw cfg lvl r).isNone

/-- The word and the extension word of an instruction; an event has none. -/
def encode (i : Instr) : Option (Nat × Nat) := (toRaw i).map fun r => (pack r, r.ext)

/-- The instruction that the host's word names: the low 64 bits are the word, the next 64 its extension
word (R101); a configuration at monitor level accepts it, or else a block does. -/
def decodeTableWord (nbits w : Nat) : Option Instr :=
  let lo := w % 2 ^ 64
  let ext := w / 2 ^ 64 % 2 ^ 64
  match decode true 2 lo ext with
  | .ok i => some i
  | .error _ => match decode false 2 lo ext with
    | .ok i => some i
    | .error _ => none

end Sys2Proof
end

