-- ==== Sys2Proof/Machine/Operands.lean ====
section
/-!
DEFINITION. Operand forms. An instruction's operands are the tokens matched at its slots: which slots it requires
(R43), what the kinds at them decide (R45, R46), where its targets lead (R27, R111), and how a firing's tokens
leave (R42, R46, R82).
-/

set_option linter.unusedVariables false

namespace Sys2Proof.Machine

open Sys2Proof

variable {s0 : State}

/-! ## Required operands (R43) -/

/-- Operand slots that an instruction's description names, without a predicate's p (R43, R61, R96, R114,
R138, R167, R215, R242, R274, R300, R309, R327, R369, R388, R414, R446, R481). -/
def namedOps (i : Instr) : List Slot :=
  match i with
  | .nul .. | .movi .. | .movx .. | .read .. | .bro .. | .halt .. => []
  | .sel .. | .fma .. | .fms .. | .fnma .. | .pmac .. | .stx .. | .amocas .. => [.a, .b, .p]
  | .iterx _ none => [.a, .b]
  | .csrrd _ _ x => if x then [.a, .b] else [.a]
  | .csrwr _ _ x => if x then [.a, .b] else [.a]
  | .steer .. | .gate .. | .tagset .. | .add .. | .sub .. | .adds .. | .subs .. | .mul .. | .mulh .. | .div ..
  | .rem .. | .min .. | .max .. | .lea .. | .and .. | .or .. | .xor .. | .andn .. | .shl .. | .shr .. | .sra ..
  | .rol .. | .teq .. | .tne .. | .tlt .. | .tle .. | .fadd .. | .fsub .. | .fmul .. | .fmin .. | .fmax ..
  | .fcps .. | .fdiv .. | .tfeq .. | .tflt .. | .tfle .. | .tfun .. | .fdot .. | .pexp .. | .ldx .. | .st ..
  | .stl .. | .amoadd .. | .amoand .. | .amoor .. | .amoxor .. | .amomin .. | .amomax .. | .amoswp ..
  | .amofadd .. | .waita .. | .mrg .. | .mrgcfg .. | .crd .. | .mstr .. | .mrdo .. | .kvst .. | .kvapp ..
  | .smxupd .. | .drvdecl .. | .lease .. | .barinit .. | .baradd .. | .bararr .. | .barwt .. | .eret ..
  | .mark .. | .cfgld .. | .cfgswap .. | .cfgdrain .. | .cfgpin .. | .tlbinv .. | .biasreq .. | .pgmig .. =>
    [.a, .b]
  | _ => [.a]

/-- The header of an instruction of a word; an event has none and reads as unpredicated without targets. -/
def hdrOfInstr (i : Instr) : Hdr :=
  match toRaw i with
  | some r => hdrOf r
  | none => ⟨.always, none, none⟩

/-- Required operands, with p under a predicate (R43). -/
def required (i : Instr) : List Slot :=
  let l := namedOps i
  if (hdrOfInstr i).pm = .always then l else if l.contains .p then l else l ++ [.p]

/-- Instructions that take p (R96). -/
def takesP (i : Instr) : Bool := (required i).contains .p

/-- MERGE and ITER fire on each token accepted for them (R43). -/
def nonMatching (i : Instr) : Bool :=
  match i with
  | .merge _ | .iter _ _ => true
  | _ => false

/-- The five exits (R215). -/
def isExit (i : Instr) : Bool :=
  match i with
  | .bro _ _ | .bri _ | .call _ _ | .ret _ | .halt _ => true
  | _ => false

/-! ## Kinds (R45, R46) -/

/-- A missing operand reads as NULL; no meaning reads one that its instruction does not require. -/
def nullTok : Tok := ⟨.null, .consume, false, false, .a, 0, ⟨0, 0, 0⟩, 0⟩

/-- The first token of an operand. -/
def opTok (l : List Tok) : Tok := l.headD nullTok

def isStop : Kind → Bool
  | .stop _ => true
  | _ => false

/-- Level of a stop, 0 for any other kind. -/
def stopLevel : Kind → Nat
  | .stop l => l.val
  | _ => 0

/-- The stop of the highest level present (R46). -/
def maxStop (l : List Tok) : Kind :=
  .stop (Fin.ofNat 4 (l.foldl (fun m t => max m (stopLevel t.kind)) 0))

/-- What R46 makes of the operands in the order a, b, p: a kind and value for every target, or none when the
instruction operates. -/
def kindRule (l : List Tok) : Option (Kind × Word) :=
  if l.any (fun t => t.kind = .null) then some (.null, 0)
  else match l.find? (fun t => isStop t.kind) with
    | some t => some (maxStop l, t.value)
    | none => match l.find? (fun t => t.kind = .error) with
      | some t => some (.error, t.value)
      | none => none

/-- One token that a firing emits: `send(target, kind, value, tag, action)` of R61, with a carry bit of its
own (R353). -/
structure Send where
  tgt : Target
  kind : Kind
  value : Word
  tag : Tag
  action : Action
  carry : Bool
deriving DecidableEq, Repr

/-- What a firing's body produces: tokens and flags. -/
structure Res where
  sends : List Send
  fl : FFlags
deriving DecidableEq, Repr

def Res.none : Res := ⟨[], fNone⟩

/-- `send` to each of some targets, with the firing's tag and action consume. -/
def sendAll (tgts : List Target) (k : Kind) (v : Word) (tag : Tag) : List Send :=
  tgts.map fun t => ⟨t, k, v, tag, .consume, false⟩

def resAll (tgts : List Target) (k : Kind) (v : Word) (tag : Tag) : Res := ⟨sendAll tgts k v tag, fNone⟩

/-- What the predicate decides (R45). -/
inductive Pred where
  | fire
  /-- fires, and every token is ERROR with this value -/
  | fireErr (v : Word)
  | silent
  /-- emits a kind and value to each target -/
  | emit (k : Kind) (v : Word)
deriving DecidableEq, Repr

def predRule (pm : Pm) (p : Tok) : Pred :=
  match pm with
  | .always => .fire
  | m => match p.kind with
    | .data => if decide (p.value ≠ 0) = decide (m = .onTrue) then .fire else .silent
    | .error => if m = .onTrue then .silent else .fireErr p.value
    | .stop l => .emit (.stop l) p.value
    | _ => .emit .null 0

/-- Tokens made ERROR with one value (R45). -/
def toError (v : Word) (l : List Send) : List Send := l.map fun t => { t with kind := .error, value := v }

/-- R45 and R46 around a body: the predicate first, then the kinds of the operands, then the body. -/
def ruled (h : Hdr) (tgts : List Target) (f : Firing) (ops : List Tok) (body : Res) : Res :=
  match predRule h.pm (opTok f.p) with
  | .silent => .none
  | .emit k v => resAll tgts k v f.tag
  | .fire => match kindRule ops with
    | some (k, v) => resAll tgts k v f.tag
    | none => body
  | .fireErr v => match kindRule ops with
    | some (k, w) => resAll tgts k w f.tag
    | none => ⟨toError v body.sends, body.fl⟩

/-- R45 around a body that has its own rule for the kinds of its operands. `given` says that the kinds of the operands, and not the
instruction's operation, make the tokens of the body: these stand under an ERROR at p. -/
def ruledOwn (h : Hdr) (tgts : List Target) (f : Firing) (given : Bool) (body : Res) : Res :=
  match predRule h.pm (opTok f.p) with
  | .silent => .none
  | .emit k v => resAll tgts k v f.tag
  | .fire => body
  | .fireErr v => if given then body else ⟨toError v body.sends, body.fl⟩

/-- NULL or a stop: the kinds that decide before an instruction operates (R46, cases 1 and 2). -/
def nullOrStop (t : Tok) : Bool := decide (t.kind = .null) || isStop t.kind

def tgts2 (h : Hdr) : List Target := [h.t0, h.t1]

/-! ## Routes (R111) -/

/-- Place of a trestle's PE number j (R261). -/
def trestlePe (t j : Nat) : Nat × Nat := (2 * (t % 8) + j % 2, 1 + 2 * (t / 8) + j / 2)

/-- Where a route entry leads, and the index it writes into the target (R111). -/
def routeDest (re : Nat) : Dest × Nat :=
  let kind := re / 2 ^ 30 % 4
  let dest := re / 2 ^ 22 % 2 ^ 8
  let idx := re / 2 ^ 17 % 2 ^ 5
  match kind with
  | 0 => (.pe (dest / 16) (dest % 16), idx)
  | 1 => (.tile (dest / 32) (dest % 32), idx)
  | _ => (.port (dest % 16), idx)

/-- Operand slot of a route held by a tile (R111): 00 reads as a. -/
def routeSlot (re : Nat) : Slot :=
  if re / 2 ^ 30 % 4 = 0 then
    (match re / 2 ^ 9 % 4 with | 2 => .b | 3 => .p | _ => .a)
  else .a

/-- Burst length of a route's edge (R111): 0, 16, 32 or 64. -/
def routeBurst (re : Nat) : Nat :=
  match re / 2 ^ 11 % 4 with | 0 => 0 | 1 => 16 | 2 => 32 | _ => 64

/-- The slot image at a PE (R260). -/
def imageAt (k : Core) (slot x y : Nat) : Option Image :=
  k.bindings.findSome? fun b => b.cfg.images.find? fun i => i.slot = slot && i.x = x && i.y = y

/-- The binding that owns a slot (R260). -/
def slotOwner (k : Core) (slot : Nat) : Option Binding :=
  k.bindings.find? fun b => b.cfg.slots.testBit slot

/-- Burst length that the a edge of an instruction carries (R84): that of a route of its binding, or of an
open stream, that leads to it. -/
def edgeBurst (k : Core) (slot x y idx : Nat) : Nat :=
  let hit (re : Nat) : Bool := decide (routeDest re = (.pe x y, idx)) && decide (routeBurst re ≠ 0)
  let imgs := match slotOwner k slot with
    | some b => b.cfg.images.flatMap Image.routes
    | none => []
  let strs := k.ports.flatMap fun p => p.2.streams.filterMap fun c =>
    if c.2.st = .running || c.2.st = .held then some c.2.route else none
  match (imgs ++ strs).find? hit with
  | some re => routeBurst re
  | none => 0

/-- Route entries of the emitting slot (R111). -/
def routesOf (s : State) (f : Firing) : List Nat :=
  match imageAt (s.core f.core) f.tag.slot.toNat f.x f.y with
  | some i => i.routes
  | none => []

/-- Where a target of a firing leads: within its trestle, or by its slot's route table. -/
def targetDest (s : State) (f : Firing) (t : Tgt) : Dest × Nat :=
  match f.trestle with
  | some n =>
    let (x, y) := trestlePe n (t.idx.val / 32)
    (.pe x y, t.idx.val)
  | none => routeDest ((routesOf s f).getD t.idx.val 0)

/-! ## Emission -/

/-- Tokens matched by a firing. -/
def Firing.all (f : Firing) : List Tok := f.a ++ f.b ++ f.p

/-- Poison and carry of every token a firing emits (R46). -/
def Firing.poison (f : Firing) : Bool := f.all.any Tok.poison
def Firing.carry (f : Firing) : Bool := f.all.any Tok.carry

/-- Whether the firing fails its PE's residue or parity check (R477). -/
def peFails (s : State) (f : Firing) : Bool := (s.core f.core).failing.contains (f.x, f.y)

/-- The flight of one token of a firing; none for a target of none. -/
def flightOf (s : State) (f : Firing) (x : Send) : Option Flight :=
  match x.tgt with
  | none => none
  | some t =>
    let (d, i) := targetDest s f t
    some { tok := { kind := x.kind, action := x.action, poison := f.poison || peFails s f,
                    carry := f.carry || x.carry, slot := t.slot, idx := i, tag := x.tag, value := x.value },
           ctx := f.ctx, src := .pe f.x f.y, dest := d }

/-- Tokens of a firing leave in target order (R42). -/
def emitSends (r : R s0) (f : Firing) (l : List Send) : R s0 :=
  let fl := l.filterMap (flightOf r.s f)
  updCore r f.core fun k => { k with flights := k.flights ++ fl }

/-- Flags of a firing (R82): into FLAGS in a configuration, into the instance's flags in a block. -/
def orFlagsOf (r : R s0) (f : Firing) (fl : FFlags) : R s0 :=
  if fl = fNone then r
  else match f.trestle with
    | some t => updInst r f.core t fun i => { i with flags := i.flags ||| fl }
    | none => updCtx r f.ctx fun c => { c with flags := c.flags ||| fl }

/-- A PE whose check failed is marked, and every binding with an image there enters Repairing (R271, R477). -/
def markFailed (r : R s0) (c x y : Nat) : R s0 :=
  updCore r c fun k =>
    { k with
      failing := k.failing.filter (· ≠ (x, y))
      failed := if k.failed.contains (x, y) then k.failed else (x, y) :: k.failed
      bindings := k.bindings.map fun b =>
        if b.cfg.images.any (fun i => i.x = x && i.y = y) then { b with prior := b.st, st := .repairing } else b }

/-- The end of a firing whose whole effect is its tokens and flags. -/
def finish (r : R s0) (f : Firing) (x : Res) : R s0 :=
  let r1 := orFlagsOf r f x.fl
  let r2 := emitSends r1 f x.sends
  r2.when (peFails r.s f) fun q => markFailed q f.core f.x f.y

/-- The answer of an instruction whose whole effect is its tokens and flags. -/
def fireRes (s : State) (x : Res) : Host.Outcome State Fault Refusal := (finish (R.start s) s.cur x).done

/-- Notes that a tag cannot be replayed any more (R478). -/
def noteRetag (r : R s0) (f : Firing) : R s0 :=
  updCore r f.core fun k =>
    { k with noReplay := if k.noReplay.contains (f.ctx, f.tag) then k.noReplay else (f.ctx, f.tag) :: k.noReplay }

/-- The answer of a retagging instruction (R478). -/
def fireRetag (s : State) (x : Res) : Host.Outcome State Fault Refusal :=
  (finish (noteRetag (R.start s) s.cur) s.cur x).done

/-! ## The operand forms of the computing instructions -/

/-- Result of a body on DATA words: a word, or the undefined result of R77, which is ERROR with the value of
a, and the flags. -/
def wordRes (h : Hdr) (f : Firing) (x : FRes) : Res :=
  match x.val with
  | some w => ⟨sendAll (tgts2 h) .data w f.tag, x.fl⟩
  | none => ⟨sendAll (tgts2 h) .error (opTok f.a).value f.tag, x.fl⟩

/-- One operand at a. -/
def unary (h : Hdr) (f : Firing) (g : Word → Word) : Res :=
  ruled h (tgts2 h) f [opTok f.a] (resAll (tgts2 h) .data (g (opTok f.a).value) f.tag)

/-- Operands at a and b. -/
def binary (h : Hdr) (f : Firing) (g : Word → Word → Word) : Res :=
  ruled h (tgts2 h) f [opTok f.a, opTok f.b]
    (resAll (tgts2 h) .data (g (opTok f.a).value (opTok f.b).value) f.tag)

/-- No operand. -/
def nullary (h : Hdr) (f : Firing) (v : Word) : Res :=
  ruled h (tgts2 h) f [] (resAll (tgts2 h) .data v f.tag)

/-- A DATA operand that holds a NaN code in a lane read counts as ERROR (R139). -/
def nanTok (bad : Word → Bool) (t : Tok) : Tok :=
  if t.kind = .data && bad t.value then { t with kind := .error } else t

/-- One floating operand at a. -/
def funary (h : Hdr) (f : Firing) (bad : Word → Bool) (g : Word → FRes) : Res :=
  ruled h (tgts2 h) f [nanTok bad (opTok f.a)] (wordRes h f (g (opTok f.a).value))

/-- Floating operands at a and b. -/
def fbinary (h : Hdr) (f : Firing) (badA badB : Word → Bool) (g : Word → Word → FRes) : Res :=
  ruled h (tgts2 h) f [nanTok badA (opTok f.a), nanTok badB (opTok f.b)]
    (wordRes h f (g (opTok f.a).value (opTok f.b).value))

/-- Floating operands at a, b and p (R142). -/
def fternary (h : Hdr) (f : Firing) (badA badB badP : Word → Bool) (g : Word → Word → Word → FRes) : Res :=
  ruled h (tgts2 h) f [nanTok badA (opTok f.a), nanTok badB (opTok f.b), nanTok badP (opTok f.p)]
    (wordRes h f (g (opTok f.a).value (opTok f.b).value (opTok f.p).value))

end Sys2Proof.Machine
end

