-- ==== Sys2Proof/Machine/Ops.lean ====
section
/-!
DEFINITION. The named operations over memory, contexts and requests that every family shares: governance (R459),
translation and its checks (R173, R356 to R360), fault records (R465 to R469), taking a fault as one operation
(`takeFault`: R174, R175, R209) with the trap of a strand and the return from it (R483), and the life of a request
(R175, R196).
-/

set_option linter.unusedVariables false

namespace Sys2Proof.Machine

open Sys2Proof

variable {s0 : State}

/-! ## Contexts (R459) -/

/-- Context `a` governs `b` (R459). -/
def governs (s : State) (a b : Nat) : Bool :=
  decide (a = b) || decide ((s.ctx b).gov.toNat = a ∧ (s.ctx b).valid = true) ||
    decide ((s.ctx a).priv = .monitor)

/-- A context whose agents may move: no cut has stopped its sources (R464, R471). -/
def ctxMoves (s : State) (c : Nat) : Bool :=
  match (s.ctx c).st with
  | .idle | .running => true
  | _ => false

/-- Numeric privilege level. -/
def privCode : Priv → Nat | .user => 0 | .supervisor => 1 | .monitor => 2

/-! ## Quiescence (R58) -/

/-- Head tokens: the first buffered token of each operand slot (log 6). -/
def peHeads (p : Pe) : List BufTok :=
  [Slot.a, Slot.b, Slot.p].filterMap fun k => p.bufs.find? fun t => t.tok.slot = k

/-- The a port of an ITER node stalls while a token is held there, its b port while a retirement is (R56). -/
def iterStall (p : Pe) (op : Slot) : Bool :=
  match op with
  | .a => p.wins.any fun w => w.held.isSome
  | .b => p.wins.any fun w => w.heldB.isSome
  | .p => false

/-- A head token of the context that its PE can accept: not held by a fault or at a stalled port (R56, R59). -/
def acceptable (p : Pe) (c : Nat) : Bool :=
  !p.stopped && (peHeads p).any fun t => decide (t.ctx = c) && !t.reported && !iterStall p t.tok.slot

/-- A request that only waits for another's report, number or room (R187, R286). -/
def stalledReq (q : Req) : Bool :=
  match q.stage with
  | .laneWait | .laneRefused => true
  | .blocked => q.translated
  | _ => false

/-- Quiescence of a core for a context (R58), leaving aside requests for which `skip` holds. -/
def quiescentBut (skip : Req → Bool) (s : State) (core c : Nat) : Bool :=
  let k := s.core core
  (k.pes.all fun p => !(p.2.ready.any fun f => f.ctx = c) && !acceptable p.2 c && !(p.2.breaks.any fun b => b.firing.ctx = c)) &&
    !(k.flights.any fun f => f.ctx = c) &&
    !((k.matrix.run.toList ++ k.matrix.load.toList).any fun m => m.firing.ctx = c) &&
    !(s.reqs.any fun q => decide (q.firing.core = core ∧ q.firing.ctx = c) && !skip q)

def quiescent (s : State) (core c : Nat) : Bool := quiescentBut (fun _ => false) s core c

/-! ## Progress of a unit in deterministic mode (R354, R469) -/

def chainOf (k : Core) (c : Nat) (u : BitVec 13) : Option Chain :=
  k.chains.find? fun x => decide (x.ctx = c ∧ x.unit = u)

def strandOf (k : Core) (c : Nat) (u : BitVec 13) : Option Strand :=
  k.strands.find? fun x => decide (x.ctx = c ∧ x.unit = u)

/-- Step of a unit (R354): blocks committed, or the oldest unresolved iteration with its wraps. -/
def unitStep (s : State) (core c : Nat) (u : BitVec 13) : Nat :=
  match strandOf (s.core core) c u with
  | some x => x.steps
  | none => match chainOf (s.core core) c u with
    | some x => x.wraps * 2 ^ 16 + x.oldest.toNat
    | none => 0

/-- Step of a tag (R354): of its strand, or its iteration extended by the unit's wraps. -/
def tagStep (s : State) (core c : Nat) (t : Tag) : Nat :=
  if t.slot = 7 then unitStep s core c t.unit
  else match chainOf (s.core core) c t.unit with
    | some x =>
      let back := decide (2 ^ 15 ≤ (t.iter - x.oldest).toNat)
      (if t.iter.toNat < x.oldest.toNat ∧ back = false then x.wraps + 1
       else if x.oldest.toNat < t.iter.toNat ∧ back then x.wraps - 1 else x.wraps) * 2 ^ 16 + t.iter.toNat
    | none => t.iter.toNat

def firingStep (s : State) (f : Firing) : Nat := tagStep s f.core f.ctx f.tag

/-- A unit sleeps in WAITA, BARWT or GRPWAIT (R354). -/
def unitSleeps (s : State) (c : Nat) (u : BitVec 13) : Bool :=
  s.reqs.any fun q => decide (q.firing.ctx = c ∧ q.firing.tag.unit = u) &&
    (match q.stage with
     | .sleeping | .polling => true
     | _ => match q.instr with | .grpwait _ => true | _ => false)

/-- A live unit of the context that could still raise a fault of a lower identifier (R469). -/
def faultMayPrecede (s : State) (c unit step : Nat) : Bool :=
  s.works.any fun w => decide (w.ctx = c ∧ w.st = .live) && !quiescent s w.core c &&
    (decide (w.num.toNat < unit) || decide (w.num.toNat = unit ∧ unitStep s w.core c w.num < step))

/-- A live unit of the context that could still perform an access of a lower key (R354). -/
def accessMayPrecede (s : State) (c step unit : Nat) : Bool :=
  s.works.any fun w => decide (w.ctx = c ∧ w.st = .live ∧ w.num.toNat ≠ unit) &&
    !unitSleeps s c w.num && !quiescentBut stalledReq s w.core c &&
    (let t := unitStep s w.core c w.num
     decide (t < step) || decide (t = step ∧ w.num.toNat < unit))

/-! ## Fault records (R465 to R469) -/

/-- Cause codes (R467). -/
def causeCode : Cause → Nat
  | .illegalOp => 0x01 | .reservedField => 0x02 | .blockFormat => 0x03 | .blockHang => 0x04
  | .tagAlias => 0x05 | .tagExhaust => 0x06 | .overflowFull => 0x07 | .slotAbsent => 0x08
  | .translation => 0x10 | .permission => 0x11 | .alignment => 0x12 | .kvUnmapped => 0x13
  | .biasConflict => 0x14 | .trackMismatch => 0x15 | .derivedSuspended => 0x16
  | .poison => 0x20 | .uncorrectable => 0x21 | .engineError => 0x30 | .ringBroken => 0x31
  | .trapInstr => 0x40 | .breakInstr => 0x41

/-- What a fault record says (R466, R468), without context and number. -/
structure Rec where
  cause : Cause
  restartable : Bool
  poison : Bool
  /-- core identifier, 0xFF for none -/
  core : Nat
  source : Nat
  index : Nat
  tag : Nat
  handle : Nat
  words : List Nat
deriving DecidableEq, Repr

/-- A record's 64 bytes (R466). -/
def recBytes (x : Rec) (c seq : Nat) (det : Bool) : List Byte :=
  bytesLE 1 (causeCode x.cause) ++
    bytesLE 1 ((if x.restartable then 1 else 0) + (if det then 2 else 0) + (if x.poison then 4 else 0)) ++
    bytesLE 2 (c % 2 ^ 12) ++ bytesLE 1 x.core ++ bytesLE 1 x.source ++ bytesLE 2 x.index ++ bytesLE 4 x.tag ++
    bytesLE 4 seq ++ bytesLE 8 x.handle ++ (List.range 5).flatMap fun i => bytesLE 8 (x.words.getD i 0)

/-- The context whose ring takes a record of `c` (R461): the first of the governor chain with a ring. -/
def ringOf (s : State) : Nat → Nat → Option Nat
  | 0, _ => none
  | fuel + 1, c =>
    if (s.ctx c).frBase ≠ 0 then some c
    else if (s.ctx c).gov.toNat = c then none else ringOf s fuel (s.ctx c).gov.toNat

def setLost (r : R s0) (c : Nat) : R s0 := updCtx r c fun x => { x with lost := true }

/-- Writes 64 bytes of a record of context `c` into its ring, or counts it as lost (R465). -/
def putRecord (r : R s0) (c : Nat) (bytes : List Byte) : R s0 :=
  match ringOf r.s 4096 c with
  | none => setLost r c
  | some g =>
    let fb := (r.s.ctx g).frBase.toNat
    let n := 2 ^ (r.s.ctx g).frSize.toNat
    let tail := r.s.nat fb 4
    let head := r.s.nat (fb + 8) 4
    if (tail + 2 ^ 32 - head) % 2 ^ 32 = n then
      setLost (homeWrite r .dev 0 true (fb + 4) (bytesLE 4 ((r.s.nat (fb + 4) 4 + 1) % 2 ^ 32))) c
    else
      let r1 := homeWrite r .dev 0 true (fb + 64 + 64 * (tail % n)) bytes
      homeWrite r1 .dev 0 true fb (bytesLE 4 ((tail + 1) % 2 ^ 32))

/-- A record's number enters its bytes 12 to 15 when it is written. -/
def numbered (r : R s0) (c : Nat) (bytes : List Byte) : R s0 :=
  let seq := (r.s.ctx c).seq.toNat
  let r1 := updCtx r c fun x => { x with seq := x.seq + 1 }
  putRecord r1 c (bytes.take 12 ++ bytesLE 4 seq ++ bytes.drop 16)

/-- Order of waiting records (R469). -/
def pendBefore (x y : PendRec) : Bool :=
  decide (x.unit < y.unit) || (decide (x.unit = y.unit) && (decide (x.step < y.step) ||
    (decide (x.step = y.step) && (decide (x.pos < y.pos) || (decide (x.pos = y.pos) && decide (x.cause ≤ y.cause))))))

/-- Inserts by identifier. -/
def pendInsert (x : PendRec) : List PendRec → List PendRec
  | [] => [x]
  | y :: l => if pendBefore y x then y :: pendInsert x l else x :: y :: l

/-- Writes the waiting records of a context that no agent can still precede (R469). -/
def flushRecords (r : R s0) (c : Nat) : Nat → R s0
  | 0 => r
  | fuel + 1 =>
    match (r.s.ctx c).pend with
    | [] => r
    | x :: l =>
      if faultMayPrecede r.s c x.unit x.step then r
      else flushRecords (numbered (updCtx r c fun k => { k with pend := l }) c x.bytes) c fuel

/-- Reports a fault of context `c` (R465): at once, or in deterministic mode in the order of identifiers, which the
firing gives (R469). -/
def report (r : R s0) (c : Nat) (x : Rec) (unit step pos : Nat) : R s0 :=
  let k := r.s.ctx c
  let b := recBytes x c 0 k.det
  if k.det then
    let r1 := updCtx r c fun y => { y with pend := pendInsert ⟨unit, step, pos, causeCode x.cause, b⟩ y.pend }
    flushRecords r1 c (r1.s.ctx c).pend.length
  else numbered r c b

/-- Reports a fault that belongs to no firing. -/
def reportPlain (r : R s0) (c : Nat) (x : Rec) : R s0 := report r c x 0 0 0

/-- Index that a record of a tag's instruction names (R466): the index in its block, or the node number. -/
def tagIndex (t : Tag) (idx : Nat) : Nat := if t.slot = 7 then idx else t.slot.toNat * 32 + idx

def firingIndex (f : Firing) : Nat := tagIndex f.tag f.idx

/-- Source of a record of a tag's firing or token (R466): 0 in a configuration, 1 in a block. -/
def tagSrc (t : Tag) : Nat := if t.slot = 7 then 1 else 0

def firingSrc (f : Firing) : Nat := tagSrc f.tag

def tagNat (t : Tag) : Nat := t.slot.toNat * 2 ^ 29 + t.unit.toNat * 2 ^ 16 + t.iter.toNat

/-- A record of a firing. -/
def recOf (f : Firing) (cause : Cause) (restartable : Bool) (source handle : Nat) (words : List Nat) : Rec :=
  ⟨cause, restartable, f.poison, f.core, source, firingIndex f, tagNat f.tag, handle, words⟩

def reportFiring (r : R s0) (f : Firing) (x : Rec) : R s0 :=
  report r f.ctx x f.tag.unit.toNat (firingStep r.s f) (firingIndex f)

/-! ## Translation (R356 to R360) -/

/-- Outcome of a walk (R358). -/
inductive WalkRes where
  | ok (pa : Nat) (leaf : Word) (level entry : Nat)
  | fault (final : Bool) (level entry : Nat)
deriving DecidableEq, Repr

/-- Bits [hi:lo] of a number. -/
def field (x hi lo : Nat) : Nat := x / 2 ^ lo % 2 ^ (hi + 1 - lo)

/-- A malformed entry at a level (R358). -/
def malformed (e level : Nat) : Bool :=
  let l := field e 1 1
  decide (field e 63 53 ≠ 0) ||
  decide (l = 1 ∧ level = 3) || decide (l = 0 ∧ level = 0) ||
  decide (l = 0 ∧ (field e 52 52 ≠ 0 ∨ field e 10 2 ≠ 0)) ||
  decide (l = 1 ∧ (level = 1 ∨ level = 2) ∧ (field e 10 10 = 1 ∨ field e 7 7 = 1 ∨
    field e (8 * level + 15) 11 ≠ 0)) ||
  decide (l = 1 ∧ level = 0 ∧ field e 15 11 ≠ 0)

/-- The walk from a table at a level (R358). -/
def walkFrom (s : State) (va : Nat) : Nat → Nat → WalkRes
  | level, ta =>
    let ea := ta + 8 * (va / 2 ^ (8 * level + 16) % 2 ^ 8)
    let e := s.nat (localPa s ea) 8
    if e % 2 = 0 then .fault false level ea
    else if malformed e level then .fault true level ea
    else if field e 1 1 = 1 then
      let k := 8 * level + 16
      .ok (field e 51 k * 2 ^ k + va % 2 ^ k) (BitVec.ofNat 64 e) level ea
    else match level with
      | 0 => .fault true level ea
      | l + 1 => walkFrom s va l (field e 51 11 * 2 ^ 11)

/-- A walk of a context (R358, R461). -/
def walk (s : State) (c va : Nat) : WalkRes :=
  let root := (s.ctx c).ptroot.toNat
  if root = 0 then .fault true 3 0 else walkFrom s va 3 root

def tlbFind (l : List TlbEnt) (c va : Nat) : Option TlbEnt :=
  l.find? fun e => decide (e.ctx = c ∧ e.va ≤ va ∧ va < e.va + e.size)

def TlbEnt.res (e : TlbEnt) (va : Nat) : WalkRes :=
  .ok (e.pa + (va - e.va)) e.leaf (if e.size = 2 ^ 16 then 0 else if e.size = 2 ^ 24 then 1 else 2) e.entry

/-- A translation for a core through its TLBs (R359), which take what a walk finds. -/
def translate (r : R s0) (core c va : Nat) : R s0 × WalkRes :=
  match tlbFind (r.s.core core).tlb c va with
  | some e => (r, e.res va)
  | none =>
    match tlbFind (r.s.cluster (core / 4)).tlb c va with
    | some e => (updCore r core fun k => { k with tlb := (e :: k.tlb).take 64 }, e.res va)
    | none =>
      match walk r.s c va with
      | .ok pa leaf level ea =>
        let k := 8 * level + 16
        let e : TlbEnt := ⟨c, va / 2 ^ k * 2 ^ k, 2 ^ k, pa - va % 2 ^ k, leaf, ea⟩
        let r1 := updCore r core fun x => { x with tlb := (e :: x.tlb).take 64 }
        (updCluster r1 (core / 4) fun x => { x with tlb := (e :: x.tlb).take 2048 }, .ok pa leaf level ea)
      | w => (r, w)

/-- Kinds of access for the permission check (R360). -/
inductive Acc3 where
  | rd | wr | rw | fetch
deriving DecidableEq, Repr

def permOk (s : State) (c : Nat) (k : Acc3) (leaf : Word) : Bool :=
  (match k with
   | .rd => leafRd leaf
   | .wr => leafWr leaf
   | .rw => leafRd leaf && leafWr leaf
   | .fetch => leafX leaf) && (decide ((s.ctx c).priv ≠ .user) || leafU leaf)

/-- A fault of an access (R173) with its cause-specific words (R468). -/
structure AccFault where
  cause : Cause
  final : Bool
  words : List Nat
deriving DecidableEq, Repr

/-- Outcome of the checks of R173. -/
inductive AccRes where
  | ok (pa : Nat) (leaf : Word)
  | fault (x : AccFault)
deriving DecidableEq, Repr

def accWords (ea level : Nat) (k : Acc3) (entry : Nat) : List Nat :=
  [ea, level + (if k = .wr ∨ k = .rw then 2 ^ 8 else 0), entry]

/-- The rows of R173 from the translation on, with the bias row of R364 where `bias` asks for it. -/
def checkLeaf (s : State) (c ea : Nat) (k : Acc3) (bias : Bool) (w : WalkRes) : AccRes :=
  match w with
  | .fault final level entry => .fault ⟨.translation, final, accWords ea level k entry⟩
  | .ok pa leaf level entry =>
    if permOk s c k leaf = false then .fault ⟨.permission, true, accWords ea level k entry⟩
    else if bias && (s.frame (localPa s pa / 2 ^ 16)).hostBias && !isRemote s pa then
      .fault ⟨.biasConflict, true, accWords ea level k entry⟩
    else .ok (localPa s pa) leaf

/-- The checks of R173 in the order of its rows, for a core. -/
def checkAccess (r : R s0) (core c ea align : Nat) (k : Acc3) (bias : Bool) : R s0 × AccRes :=
  if 2 ^ 48 ≤ ea then (r, .fault ⟨.translation, true, accWords ea 7 k 0⟩)
  else if ea % align ≠ 0 then (r, .fault ⟨.alignment, true, accWords ea 7 k 0⟩)
  else
    let (r1, w) := translate r core c ea
    (r1, checkLeaf r1.s c ea k bias w)

/-- The same without a core's TLB, for a scheduler or an engine. -/
def checkWalk (s : State) (c ea align : Nat) (k : Acc3) (bias : Bool) : AccRes :=
  if 2 ^ 48 ≤ ea then .fault ⟨.translation, true, accWords ea 7 k 0⟩
  else if ea % align ≠ 0 then .fault ⟨.alignment, true, accWords ea 7 k 0⟩
  else checkLeaf s c ea k bias (walk s c ea)

/-- Checks a range of bytes page by page, and gives the physical base of each part of `step` bytes. -/
def checkParts (r : R s0) (core c step : Nat) (k : Acc3) : Nat → Nat → List Nat → R s0 × Except AccFault (List Nat)
  | 0, _, acc => (r, .ok acc.reverse)
  | n + 1, ea, acc =>
    match checkAccess r core c ea 1 k false with
    | (r1, .ok pa _) => checkParts r1 core c step k n (ea + step) (pa :: acc)
    | (r1, .fault x) => (r1, .error x)

/-! ## Activation frames (R200, R201) -/

/-- The 576 bytes of a frame. -/
def Frame.image (f : Frame) : List Byte :=
  bytesLE 8 (f.pres.toNat ||| 1) ++ bytesLE 8 f.err.toNat ++ bytesLE 8 f.link.toNat ++ bytesLE 8 f.ret.toNat ++
    bytesLE 32 0 ++ bytesLE 8 0 ++ (List.range 63).flatMap fun j => bytesLE 8 (tabGet (0 : Word) (j + 1) f.regs).toNat

/-- A frame from its parts in memory. -/
def frameFrom (s : State) (parts : List Nat) : Frame :=
  let l := parts.flatMap fun pa => s.bytes pa 64
  let w (i : Nat) : Word := BitVec.ofNat 64 (ofBytesLE ((l.drop (8 * i)).take 8))
  { pres := w 0 ||| 1, err := w 1 &&& ~~~1, link := w 2, ret := w 3,
    regs := (List.range 63).foldl (fun t j => tabSet 0 (j + 1) (w (9 + j)) t) [] }

/-- Writes a frame back with the translation with which it was taken (R201). -/
def writeFrame (r : R s0) (core : Nat) (parts : List Nat) (f : Frame) : R s0 :=
  let l := f.image
  (r.each (List.range 9) fun q i =>
    match parts[i]? with
    | some pa => homeWrite q (.core core) 0 true pa ((l.drop (64 * i)).take 64)
    | none => q)

def updStrand (r : R s0) (core c : Nat) (u : BitVec 13) (f : Strand → Strand) : R s0 :=
  updCore r core fun k => { k with strands := k.strands.map fun x => if x.ctx = c ∧ x.unit = u then f x else x }

/-- The frame cache writes back the current frame of a strand. -/
def writeBack (r : R s0) (core c : Nat) (u : BitVec 13) : R s0 :=
  match strandOf (r.s.core core) c u with
  | some x => (match x.frPa with | some parts => writeFrame r core parts x.frame | none => r)
  | none => r

/-! ## Removing tokens and requests -/

/-- Drops the requests for which `p` holds, with their waiter entries and buffered lane entries. -/
def dropReqs (r : R s0) (p : Req → Bool) : R s0 :=
  r.each (r.s.reqs.filter p) fun q x =>
    let q1 := updHome q x.pa fun h =>
      { h with waiters := h.waiters.filter (·.id ≠ x.id),
               lanes := h.lanes.map fun l => { l with buf := l.buf.filter (·.2 ≠ x.id) } }
    dropReq q1 x.id

/-- Drops from a PE every token for which `p` holds of context and tag. -/
def Pe.dropTokens (p : Pe) (f : Nat → Tag → Bool) : Pe :=
  { p with bufs := p.bufs.filter fun t => !f t.ctx t.tok.tag
           store := p.store.filter fun e => !f e.ctx (opTok e.toks).tag
           spill := p.spill.filter fun e => !f e.ctx (opTok e.toks).tag
           ready := p.ready.filter fun x => !f x.ctx x.tag
           breaks := p.breaks.filter fun b => !f b.firing.ctx b.firing.tag }

/-- Applies a function to every listed PE. -/
def mapPes (r : R s0) (core : Nat) (f : Pe → Pe) : R s0 :=
  updCore r core fun k =>
    { k with pes := k.pes.filterMap fun x => let v := f x.2; if v = Pe.init then none else some (x.1, v) }

/-- Removes every token of a core for which `p` holds: in PEs, in flight, in tiles. -/
def dropTokens (r : R s0) (core : Nat) (f : Nat → Tag → Bool) : R s0 :=
  updCore (mapPes r core fun p => p.dropTokens f) core fun k =>
    { k with flights := k.flights.filter fun x => !f x.ctx x.tok.tag }

/-- The tokens of a strand's block instance: slot 7 of its unit (R199). -/
def isBlockTok (c : Nat) (u : BitVec 13) (c' : Nat) (t : Tag) : Bool := decide (c' = c ∧ t.slot = 7 ∧ t.unit = u)

/-- Removes the instance of a trestle with its tokens and requests. -/
def freeTrestle (r : R s0) (core t : Nat) : R s0 :=
  match instOf r.s core t with
  | none => updTrestle r core t fun _ => .free
  | some i =>
    let r1 := dropReqs r fun q => decide (q.firing.core = core ∧ q.firing.trestle = some t)
    let r2 := dropTokens r1 core (isBlockTok i.ctx i.unit)
    let r3 := updMatrix r2 core fun m => { m with cmds := m.cmds.filter fun c => c.firing.trestle ≠ some t }
    updTrestle r3 core t fun _ => .free

/-! ## Taking a fault (R174, R175, R209), and the return from it (R483) -/

/-- The strand of a trestle becomes Trapped (R213): its frame is written back before its record (R483). -/
def trapStrand (r : R s0) (core c : Nat) (u : BitVec 13) : R s0 :=
  updStrand (writeBack r core c u) core c u fun x => { x with st := .trapped }

/-- Discard of a block instance (R209): its tokens, held stores and requests are dropped, its strand is Trapped, and
the record is written last. -/
def discard (r : R s0) (core t : Nat) (x : Rec) : R s0 :=
  match instOf r.s core t with
  | none => r
  | some i =>
    let step := unitStep r.s core i.ctx i.unit
    let again := decide (x.cause = .poison ∧ i.replayed = false ∧ i.early = false)
    let r1 := updStrand (trapStrand (freeTrestle r core t) core i.ctx i.unit) core i.ctx i.unit fun y =>
      { y with rerun := if again then 1 else 0 }
    report r1 i.ctx x i.unit.toNat step x.index

/-- TAKING A FAULT. A final fault of a firing writes its record; in a block it discards the instance, and in a
configuration `after` goes on with the ERROR tokens (R174). -/
def takeFault (r : R s0) (f : Firing) (x : Rec) (after : R s0 → R s0) : R s0 :=
  match f.trestle with
  | some t => discard r f.core t x
  | none => after (reportFiring r f x)

/-- RETURN FROM A FAULT (R483): a Trapped strand becomes Ready, at a new block pointer when one is given, and joins the
strands that became ready before it. -/
def resumeStrand (r : R s0) (core c : Nat) (u : BitVec 13) (bp : Option Word) : R s0 :=
  match strandOf (r.s.core core) c u with
  | none => r
  | some x =>
    let y := { x with st := .ready, bp := bp.getD x.bp, rerun := 0 }
    updCore r core fun k => { k with strands := k.strands.filter (fun z => ¬(z.ctx = c ∧ z.unit = u)) ++ [y] }

/-! ## Replies of a firing -/

/-- Under pm = 10 with ERROR at p every token of the firing is ERROR (R45). -/
def predErr (h : Hdr) (f : Firing) : Option Word :=
  match predRule h.pm (opTok f.p) with
  | .fireErr v => some v
  | _ => none

/-- The tokens of a reply under an ERROR at p: a NULL or a stop, which the kinds of its operands alone give it, stands (R45). -/
def replyError (v : Word) (l : List Send) : List Send :=
  l.map fun t => if t.kind = .data ∨ t.kind = .error then { t with kind := .error, value := v } else t

/-- One token to each of t0 and t1 with kinds and values of their own. -/
def reply2 (r : R s0) (f : Firing) (h : Hdr) (k0 : Kind) (v0 : Word) (k1 : Kind) (v1 : Word) (carry : Bool) : R s0 :=
  let l : List Send := [⟨h.t0, k0, v0, f.tag, .consume, carry⟩, ⟨h.t1, k1, v1, f.tag, .consume, carry⟩]
  emitSends r f (match predErr h f with | some v => replyError v l | none => l)

/-- One kind and value to t0 and t1. -/
def reply (r : R s0) (f : Firing) (h : Hdr) (k : Kind) (v : Word) (carry : Bool) : R s0 := reply2 r f h k v k v carry

/-- ERROR with the value of a. -/
def replyErr (r : R s0) (f : Firing) (h : Hdr) : R s0 := reply r f h .error (opTok f.a).value false

/-- What R45 and R46 decide before an instruction acts: it acts, emits a kind, or nothing. -/
inductive Gate where
  | run | emit (k : Kind) (v : Word) | silent
deriving DecidableEq, Repr

def gate (h : Hdr) (f : Firing) (ops : List Tok) : Gate :=
  match predRule h.pm (opTok f.p) with
  | .silent => .silent
  | .emit k v => .emit k v
  | _ => match kindRule ops with
    | some (k, v) => .emit k v
    | none => .run

/-- A carry bit among the operands lifts the core's tick before the firing issues any access (R401). -/
def liftCarry (r : R s0) (f : Firing) : R s0 := r.when f.carry fun q => acquireM q f.core

/-- An instruction that acts at firing: its gate, then its body. -/
def acting (s : State) (h : Hdr) (ops : List Tok) (body : R s → R s) : Host.Outcome State Fault Refusal :=
  let f := s.cur
  let r := liftCarry (R.start s) f
  let r1 := match gate h f ops with
    | .silent => r
    | .emit k v => emitSends r f (sendAll (tgts2 h) k v f.tag)
    | .run => body r
  (r1.when (peFails s f) fun q => markFailed q f.core f.x f.y).done

/-- A final PERMISSION fault at firing (R459). -/
def denyFault (r : R s0) (f : Firing) (h : Hdr) (src : Nat) : R s0 :=
  takeFault r f (recOf f .permission false src 0 []) fun q => replyErr q f h

/-! ## Requests (R175, R196) -/

/-- A request with nothing done yet. -/
def Req.new (id : Nat) (i : Instr) (f : Firing) (src : ReqSrc) (op : AccOp) : Req :=
  { id := id, instr := i, firing := f, src := src, stage := .blocked, va := 0, pa := 0, size := 8, op := op, ty := .z64,
    scope := 0, acq := false, rel := false, ordd := false, lsid := 0, own := 0, translated := false, leaf := 0,
    marks := [], reported := false, rk := .data, rv := 0, rv2 := 0, carry := false, since := 0, aux := 0 }

/-- The memory-port tile or front end of a firing (R284). -/
def reqSrcOf (f : Firing) : ReqSrc :=
  match f.trestle with
  | some t => .front t
  | none => .port f.y

/-- Adds a request under a number of its own. -/
def addReq (r : R s0) (mk : Nat → Req) : R s0 :=
  let id := r.s.nextId
  (updReqs r fun l => l ++ [mk id]).eff .nextId

/-- Request handle (R196). -/
def reqHandle (q : Req) : Nat :=
  let (src, n) := match q.src with
    | .port p => (0, p)
    | .front t => (1, t)
    | .walker => (2, 0)
  q.firing.ctx * 2 ^ 16 + q.firing.core * 2 ^ 9 + src * 2 ^ 7 + n * 2 ^ 3

/-- Source byte of a record of a request (R466). -/
def recSrc (q : Req) : Nat :=
  match q.src with
  | .port _ => 2
  | .front _ => 1
  | .walker => 3

/-- A request ahead of this one at the same port, front end or walker queue is held (R175, R385). -/
def heldAhead (s : State) (q : Req) : Bool :=
  s.reqs.any fun x => decide (x.id < q.id ∧ x.firing.core = q.firing.core ∧ x.src = q.src ∧ x.stage = .held) &&
    (match q.src with | .walker => decide (x.firing.ctx = q.firing.ctx) | _ => true)

/-- A restartable fault: the request is held with a record that carries its handle (R175). -/
def holdReq (r : R s0) (q : Req) (x : AccFault) : R s0 :=
  let r1 := updReq r q.id fun y => { y with stage := .held, translated := false }
  reportFiring r1 q.firing (recOf q.firing x.cause true (recSrc q) (reqHandle q) x.words)

/-- A skip sent to the port chains in place of an access (R286). -/
def skipReport (r : R s0) (f : Firing) (i : Instr) (own : Nat) : R s0 :=
  if own = 0 then r
  else addReq r fun id => { Req.new id i f (reqSrcOf f) .report with own := own }

/-- A fault of a request (R174, R175): held when restartable; otherwise its record, and in a configuration ERROR to the
targets and a skip. -/
def faultReq (r : R s0) (q : Req) (h : Hdr) (x : AccFault) : R s0 :=
  if x.final = false then holdReq r q x
  else
    let r1 := dropReq r q.id
    takeFault r1 q.firing (recOf q.firing x.cause false (recSrc q) 0 x.words) fun z =>
      (replyErr z q.firing h).when (q.own ≠ 0 && !q.reported) fun y => skipReport y q.firing q.instr q.own

/-- A refused tag cannot be replayed (R478). -/
def noReplayOf (s : State) (f : Firing) : Bool :=
  match f.trestle with
  | none => (s.core f.core).noReplay.contains (f.ctx, f.tag)
  | some t => match instOf s f.core t with
    | some i => i.early || i.replayed
    | none => true

/-- Refusal of a poisoned tag at a sink (R173, R477): the record names the PE, and a block is discarded. -/
def refusePoison (r : R s0) (f : Firing) (src pa : Nat) : R s0 :=
  let w0 := if pa = 0 then 2 ^ 63 + f.x * 16 + f.y else pa
  takeFault r f (recOf f .poison false src 0 [w0, tagNat f.tag, if noReplayOf r.s f then 1 else 0]) id

/-- Marks every token of a firing as poisoned: its operand came from uncorrectable data (R477). -/
def Firing.poisoned (f : Firing) : Firing :=
  { f with a := (if f.a.isEmpty then [{ nullTok with poison := true }] else f.a.map fun t => { t with poison := true }) }

end Sys2Proof.Machine
end

