-- ==== Sys2Proof/Machine/Fabric.lean ====
section
/-!
DEFINITION. The fabric of a core: what a PE issues next (R47, R48) and what the network delivers, the instruction ITER
with its loop windows (R55, R56), and the events of the fabric: TOKEN_ACCEPT (R41 to R57), SPILL_REFILL (R52, R53),
SLOT_IMAGE_FETCH (R266), CORE_QUIESCENT (R58) and MARKER_ARRIVAL (R471).
-/

set_option linter.unusedVariables false

namespace Sys2Proof.Machine

open Sys2Proof

variable {s0 : State}

/-! ## Keys (R43, R48) -/

/-- Node number of an instruction (R48). -/
def nodeOf (t : Tag) (idx : Nat) : Nat := t.slot.toNat * 32 + idx

/-- Iteration i precedes j (R40). -/
def iterBefore (i j : BitVec 16) : Bool := let d := (j - i).toNat; decide (1 ≤ d ∧ d ≤ 32767)

/-- Order of firing keys (R48): unit, iteration by precedence, node. -/
def keyBefore (t : Tag) (i : Nat) (u : Tag) (j : Nat) : Bool :=
  decide (t.unit.toNat < u.unit.toNat) || (decide (t.unit = u.unit) &&
    (iterBefore t.iter u.iter || (decide (t.iter = u.iter) && decide (nodeOf t i < nodeOf u j))))

/-- The element that no other precedes, the first of equals. -/
def leastBy {α : Type} (lt : α → α → Bool) : List α → Option α
  | [] => none
  | x :: l => match leastBy lt l with
    | none => some x
    | some y => if lt y x then some y else some x

/-! ## Issue (R41, R47, R48) -/

/-- The firing a PE issues next: the first to become ready, or in deterministic mode the lowest key of its
context. A PE cut for a context issues none of it (R471). -/
def nextReady (s : State) (p : Pe) : Option Firing :=
  let l := p.ready.filter fun f => !p.marked.contains f.ctx
  match l with
  | [] => none
  | f :: _ =>
    if (s.ctx f.ctx).det then
      leastBy (fun a b => keyBefore a.tag a.idx b.tag b.idx) (l.filter fun g => g.ctx = f.ctx)
    else some f

/-- The words of a firing's place: a trestle's image copy, or a slot image. -/
def wordsAt (s : State) (f : Firing) : List Nat :=
  match f.trestle with
  | some t => (match instOf s f.core t with | some i => i.words | none => [])
  | none => (match imageAt (s.core f.core) f.tag.slot.toNat f.x f.y with | some i => i.words | none => [])

/-- The instruction at a firing's place. Images are checked before they run (R106), so it decodes. -/
def instrOf (s : State) (f : Firing) : Option Instr :=
  let ws := wordsAt s f
  match decode f.trestle.isNone 2 (ws.getD f.idx 0) (ws.getD (f.idx + 1) 0) with
  | .ok i => some i
  | .error _ => none

/-- An entry of the store that a firing consumes: its consume-action operands (R43, R49). -/
def consumedBy (f : Firing) (e : Entry) : Bool :=
  let t := opTok e.toks
  decide (e.ctx = f.ctx ∧ t.tag = f.tag ∧ t.idx = f.idx ∧ t.action = .consume)

/-- A PE with room again accepts tokens (R54). -/
def Pe.reopen (p : Pe) : Pe := if p.store.length < 64 then { p with stopped := false, stopReported := false } else p

/-- The state in which a PE's next firing executes: it has left the ready list, its operands have left the store, and
it is the current firing. -/
def issueState (r : R s0) (f : Firing) : R s0 :=
  let r1 := updPe r f.core f.x f.y fun p =>
    ({ p with ready := p.ready.filter (· ≠ f)
              store := p.store.filter fun e => !consumedBy f e
              spill := p.spill.filter fun e => !consumedBy f e }).reopen
  (updCore r1 f.core fun k => { k with quiet := k.quiet.filter (· ≠ f.ctx) }).eff (.cur f)

/-- A fault of the hardware (R479): the next firing of a PE fails its check. -/
def failPe (r : R s0) (core x y : Nat) : R s0 :=
  updCore r core fun k => { k with failing := if k.failing.contains (x, y) then k.failing else (x, y) :: k.failing }

/-- A fault of the hardware (R477, R479): the stored data of an 8-byte granule becomes uncorrectable. -/
def failData (r : R s0) (g : Nat) : R s0 := if r.s.bad.contains g then r else r.eff (.bad (g :: r.s.bad))

/-- Instructions whose commit the watchdog does not count (R369). -/
def isPageOp (i : Instr) : Bool := match i with | .tlbinv .. | .tlbinva .. | .biasreq _ | .pgmig _ => true | _ => false

/-- The watchdog of an instance pauses (R210, R330, R369, R449): a held request, a sleeper, or a commit that waits for an
operation on pages. -/
def instPaused (s : State) (core t : Nat) : Bool :=
  (s.reqs.any fun q => decide (q.firing.core = core ∧ q.src = .front t) && isPageOp q.instr) ||
  (let m := (s.core core).matrix
   (decide (m.st = .held) && m.run.any fun c => c.firing.trestle = some t) || (m.loadHeld && m.load.any fun c => c.firing.trestle = some t)) ||
  s.reqs.any fun q => decide (q.firing.core = core ∧ q.firing.trestle = some t) &&
    (match q.stage with
     | .held | .sleeping | .polling => true
     | _ => match q.instr with | .grpwait _ | .dld .. | .cfgdrain _ => true | _ => false)

/-! ## Network (R42) -/

/-- A flight may arrive: no earlier one of its route and target is under way (R42). -/
def routeFirst (k : Core) (n : Nat) (x : Flight) : Bool :=
  !((k.flights.take n).any fun y => decide (y.src = x.src ∧ y.dest = x.dest ∧ y.tok.idx = x.tok.idx ∧ y.tok.slot = x.tok.slot))

/-- A token for a failed PE under repair stays with its sender (R271). -/
def repairHolds (k : Core) (x : Flight) : Bool :=
  match x.dest with
  | .pe a b => k.failed.contains (a, b) && k.bindings.any (fun v => decide (v.st = .repairing))
  | _ => false

/-- The network delivers its n-th token into a PE's or a port's input buffer when there is room (R16, R41; log 6); one that has met a
MARKER takes every token (R471). -/
def deliver (r : R s0) (core n : Nat) : R s0 :=
  let k := r.s.core core
  match k.flights[n]? with
  | none => r
  | some x =>
    let go (r : R s0) : R s0 :=
      updCore r core fun k => { k with flights := k.flights.eraseIdx n, quiet := k.quiet.filter (· ≠ x.ctx) }
    let b : BufTok := ⟨x.tok, x.ctx, false⟩
    if routeFirst k n x = false ∨ x.tok.kind = .marker ∨ repairHolds k x then r
    else match x.dest with
      | .pe a c =>
        if (k.pe a c).marked.contains x.ctx ∨ ((k.pe a c).bufs.filter fun t => t.tok.slot = x.tok.slot).length < 4 then
          updPe (go r) core a c fun p => { p with bufs := p.bufs ++ [b] }
        else r
      | .port p =>
        if k.cutting.contains x.ctx ∨ ((k.port p).bufs.filter fun t => t.tok.idx = x.tok.idx).length < 4 then
          updPort (go r) core p fun q => { q with bufs := q.bufs ++ [b] }
        else r
      | .tile _ _ => r

/-! ## Acceptance (R41 to R57) -/

/-- Same key (R43). -/
def sameKey (c : Nat) (t : Tok) (e : Entry) : Bool :=
  let u := opTok e.toks
  decide (e.ctx = c ∧ u.tag = t.tag ∧ u.idx = t.idx ∧ u.slot = t.slot ∧ u.action = .consume)

/-- A sticky entry for the token's slot, unit, instruction and operand (R49). -/
def stickyFor (c : Nat) (t : Tok) (e : Entry) : Bool :=
  let u := opTok e.toks
  decide (e.ctx = c ∧ u.tag.slot = t.tag.slot ∧ u.tag.unit = t.tag.unit ∧ u.idx = t.idx ∧ u.slot = t.slot ∧
    u.action = .sticky)

def pkeyOf (c : Nat) (t : Tok) : PKey := ⟨c, t.tag.slot, t.tag.unit, t.idx, t.slot⟩

/-- Distance of iterations (R40). -/
def iterDist (i j : BitVec 16) : Nat := min (j - i).toNat (i - j).toNat

/-- R57: a consume-action token of the slot and unit lies 1,024 or more iterations away. -/
def outOfWindow (p : Pe) (c : Nat) (t : Tok) : Bool :=
  (p.store ++ p.spill).any fun e =>
    let u := opTok e.toks
    decide (e.ctx = c ∧ u.action = .consume ∧ u.tag.slot = t.tag.slot ∧ u.tag.unit = t.tag.unit ∧
      1024 ≤ iterDist u.tag.iter t.tag.iter)

/-- Tokens that complete an operand: a whole burst at a decoding CVT, a whole run at an encoding one (R84, R157), one
token otherwise. -/
def operandCount (k : Core) (i : Instr) (x y slot idx : Nat) (op : Slot) (first : Kind) : Nat :=
  match i with
  | .cvt h d t _ _ =>
    if op ≠ .a then 1
    else if t = .e2m1x16 then (if first = .data then 1 + edgeBurst k slot x y idx / 16 else 1)
    else if d = .e2m1x16 then
      let l := match h.t0 with
        | some g => (match imageAt k slot x y with | some im => routeBurst (im.routes.getD g.idx.val 0) | none => 0)
        | none => 0
      max 1 (l / tyLanes t)
    else 1
  | _ => 1

/-- A complete operand for a tag at a slot: its own entry, or the sticky one. -/
def operandFor (k : Core) (p : Pe) (i : Instr) (x y c : Nat) (tag : Tag) (idx : Nat) (op : Slot) : Option (List Tok) :=
  let l := p.store ++ p.spill
  let probe : Tok := { nullTok with slot := op, idx := idx, tag := tag }
  match l.find? (sameKey c probe) with
  | some e =>
    if operandCount k i x y tag.slot.toNat idx op (opTok e.toks).kind ≤ e.toks.length then some e.toks else none
  | none => (l.find? (stickyFor c probe)).map Entry.toks

/-- The firing of an instruction for a tag when all its required operands are present and one of them is not
sticky (R43, R49). -/
def readyFor (k : Core) (p : Pe) (core x y c : Nat) (tr : Option Nat) (i : Instr) (tag : Tag) (idx : Nat) : Option Firing :=
  let get (op : Slot) : Option (List Tok) :=
    if (required i).contains op then operandFor k p i x y c tag idx op else some []
  match get .a, get .b, get .p with
  | some a, some b, some d =>
    if (a ++ b ++ d).any (fun t => t.action = .consume) then some ⟨core, x, y, c, tr, tag, idx, a, b, d⟩ else none
  | _, _, _ => none

/-- Pushes the firings that have become ready for some tags, each once. -/
def pushReady (k : Core) (core x y c : Nat) (tr : Option Nat) (i : Instr) (idx : Nat) (tags : List Tag) (p : Pe) : Pe :=
  tags.foldl (fun p t =>
    if p.ready.any (fun f => decide (f.ctx = c ∧ f.tag = t ∧ f.idx = idx)) then p
    else match readyFor k p core x y c tr i t idx with
      | some f => { p with ready := p.ready ++ [f] }
      | none => p) p

/-- Removes one occurrence of a buffered token. -/
def Pe.take (p : Pe) (t : BufTok) : Pe := { p with bufs := p.bufs.erase t }

/-- A record of a token that a PE holds or discards (R468). -/
def tokRec (core x y : Nat) (cause : Cause) (t : Tok) : Rec :=
  ⟨cause, false, t.poison, core, tagSrc t.tag, tagIndex t.tag t.idx, tagNat t.tag, 0, [x * 16 + y, tagNat t.tag, slotCode t.slot]⟩

def reportTok (r : R s0) (core x y c : Nat) (cause : Cause) (t : Tok) : R s0 :=
  report r c (tokRec core x y cause t) t.tag.unit.toNat (tagStep r.s core c t.tag) (tagIndex t.tag t.idx)

/-- Marks a buffered token's fault as reported, once (R44). -/
def holdTok (r : R s0) (core x y : Nat) (b : BufTok) (cause : Cause) : R s0 :=
  if b.reported then r
  else
    let r1 := updPe r core x y fun p => { p with bufs := p.bufs.map fun t => if t = b then { t with reported := true } else t }
    reportTok r1 core x y b.ctx cause b.tok

/-- A free overflow frame of a context (R53). -/
def freeFrame (s : State) (c : Nat) : Option Nat :=
  (List.range (s.ctx c).ovfCnt.toNat).find? fun i => !(s.ctx c).ovfUsed.contains i

/-- The 16 bytes of a token (R36). -/
def tokImage (t : Tok) : List Byte :=
  let kind := match t.kind with
    | .data => 0 | .null => 1 | .error => 2 | .stop l => 3 + l.val | .marker => 7 | .purge => 8
  let act := match t.action with | .consume => 0 | .sticky => 1 | .purge => 2
  let tgt := slotCode t.slot * 2 ^ 7 + t.idx % 2 ^ 7
  bytesLE 8 t.value.toNat ++ bytesLE 4 (tagNat t.tag) ++
    bytesLE 4 (kind + act * 2 ^ 4 + (if t.poison then 2 ^ 6 else 0) + slotCode t.slot * 2 ^ 7 + tgt * 2 ^ 9 +
      (if t.carry then 2 ^ 18 else 0))

/-- The image of the n-th frame of a PE's chain (R53). -/
def frameImage (p : Pe) (x y c n : Nat) : List Byte :=
  let toks := ((p.spill.filter fun e => e.ctx = c).flatMap Entry.toks)
  let l := (toks.drop (252 * n)).take 252
  let fr := (p.frames.filter fun f => f.1 = c).map Prod.snd
  bytesLE 32 (2 ^ l.length - 1) ++ bytesLE 2 (y * 16 + x) ++ bytesLE 2 (fr.getD (n + 1) 0xFFFF) ++
    bytesLE 4 l.length ++ bytesLE 24 0 ++ l.flatMap tokImage ++ List.replicate (16 * (252 - l.length)) 0

/-- Writes the frames of a PE's chain where they translate (R53). -/
def writeFrames (r : R s0) (core x y c : Nat) : R s0 :=
  let p := (r.s.core core).pe x y
  let fr := (p.frames.filter fun f => f.1 = c).map Prod.snd
  r.each (List.range fr.length) fun q n =>
    match checkWalk q.s c ((q.s.ctx c).ovfBase.toNat + 4096 * fr.getD n 0) 4096 .wr false with
    | .ok pa leaf => writeLines q (.core core) leaf 32 pa (frameImage p x y c n)
    | .fault _ => q

/-- Frames a PE's chain needs for a context's spilled tokens. -/
def framesNeeded (p : Pe) (c : Nat) : Nat :=
  (((p.spill.filter fun e => e.ctx = c).flatMap Entry.toks).length + 251) / 252

/-- Returns the frames that hold nothing (R53). -/
def trimFrames (r : R s0) (core x y c : Nat) : R s0 :=
  let p := (r.s.core core).pe x y
  let own := p.frames.filter fun f => f.1 = c
  let extra := own.drop (framesNeeded p c)
  if extra.isEmpty then r
  else
    let r1 := updPe r core x y fun p => { p with frames := p.frames.filter fun f => !extra.contains f }
    updCtx r1 c fun k => { k with ovfUsed := k.ovfUsed.filter fun i => !extra.contains (c, i) }

/-- Spills a token (R52): into a frame of the chain, or a new one; with none free the PE stops (R54). The result says
whether the token was taken. -/
def spillTok (r : R s0) (core x y : Nat) (b : BufTok) (e : Entry) : R s0 :=
  let p := (r.s.core core).pe x y
  let have_ := (p.frames.filter fun f => f.1 = b.ctx).length
  let used := ((p.spill.filter fun e => e.ctx = b.ctx).flatMap Entry.toks).length
  let put (r : R s0) : R s0 :=
    writeFrames (updPe r core x y fun p => { p.take b with spill := p.spill ++ [e] }) core x y b.ctx
  if used < 252 * have_ then put r
  else match freeFrame r.s b.ctx with
    | some i =>
      let r1 := updCtx r b.ctx fun k => { k with ovfUsed := k.ovfUsed ++ [i] }
      put (updPe r1 core x y fun p => { p with frames := p.frames ++ [(b.ctx, i)] })
    | none =>
      let r1 := updPe r core x y fun p => { p with stopped := true }
      if p.stopped || (r.s.ctx b.ctx).det then r1
      else reportTok (updPe r1 core x y fun p => { p with stopReported := true }) core x y b.ctx .overflowFull b.tok

/-- What stands at a token's place: the trestle and instruction of a block, or the instruction of a slot image. -/
inductive Place where
  /-- the token reaches no image: R520 -/
  | absent
  /-- its image is being fetched or repaired -/
  | wait
  | at (tr : Option Nat) (i : Instr)
deriving DecidableEq, Repr

/-- The trestle of a strand's instance. -/
def trestleOf (k : Core) (c : Nat) (u : BitVec 13) : Option (Nat × Inst) :=
  k.trestles.findSome? fun x => match x.2 with
    | .busy i => if i.ctx = c ∧ i.unit = u then some (x.1, i) else none
    | _ => none

def placeOf (k : Core) (x y : Nat) (p : Pe) (b : BufTok) : Place :=
  let t := b.tok
  if t.tag.slot = 7 then
    match trestleOf k b.ctx t.tag.unit with
    | some (n, i) => (match decode false 2 (i.words.getD t.idx 0) (i.words.getD (t.idx + 1) 0) with
      | .ok ins => .at (some n) ins
      | .error _ => .absent)
    | none => .absent
  else match slotOwner k t.tag.slot.toNat with
    | none => .absent
    | some v =>
      if v.cfg.ctx ≠ b.ctx then .absent
      else match imageAt k t.tag.slot.toNat x y with
        | none => .absent
        | some im =>
          if !p.resident.contains t.tag.slot.toNat || (k.failed.contains (x, y) && decide (v.st = .repairing)) then .wait
          else match decode true 2 (im.words.getD t.idx 0) (im.words.getD (t.idx + 1) 0) with
            | .ok ins => .at none ins
            | .error _ => .absent

/-- The firing of an earlier token of the same ITER node has not issued yet, and may still hold its port (R56). -/
def iterBusy (p : Pe) (t : Tok) (i : Instr) : Bool :=
  (match i with | .iter .. => true | _ => false) &&
    p.ready.any fun f => decide (f.trestle = none ∧ f.tag.slot = t.tag.slot ∧ f.idx = t.idx)

/-- A head token that could act now: it is not waiting for an image, a cut, a stall or a key. -/
def actionable (s : State) (core x y : Nat) (b : BufTok) : Bool :=
  let k := s.core core
  let p := k.pe x y
  if p.marked.contains b.ctx || iterStall p b.tok.slot then false
  else match placeOf k x y p b with
    | .absent => true
    | .wait => false
    | .at _ i =>
      if b.tok.kind = .purge then true
      else if iterBusy p b.tok i || (p.stopped && !nonMatching i) then false
      else if b.reported then
        -- a held token is examined again: it acts once its key is free (R44)
        !(outOfWindow p b.ctx b.tok ||
          (p.store ++ p.spill).any (fun e => sameKey b.ctx b.tok e || stickyFor b.ctx b.tok e))
      else true

/-- The head token a PE accepts next (R47, R48). -/
def nextHead (s : State) (core x y : Nat) : Option BufTok :=
  let p := (s.core core).pe x y
  let heads := (peHeads p).filter (actionable s core x y)
  match p.bufs.find? fun b => heads.contains b with
  | none => none
  | some b =>
    if (s.ctx b.ctx).det then
      leastBy (fun a c => keyBefore a.tok.tag a.tok.idx c.tok.tag c.tok.idx) (heads.filter fun h => h.ctx = b.ctx)
    else some b

/-- A matching token enters the store, completes firings, or spills (R43, R52). -/
def enterStore (r : R s0) (core x y : Nat) (b : BufTok) (tr : Option Nat) (i : Instr) : R s0 :=
  let k := r.s.core core
  let p := k.pe x y
  let t := b.tok
  let cnt := operandCount k i x y t.tag.slot.toNat t.idx t.slot
  let grow (e : Entry) : Entry := if sameKey b.ctx t e then { e with toks := e.toks ++ [t] } else e
  let part (e : Entry) : Bool := sameKey b.ctx t e && decide (e.toks.length < cnt (opTok e.toks).kind)
  if (p.store ++ p.spill).any part then
    updPe r core x y fun p =>
      pushReady k core x y b.ctx tr i t.idx [t.tag] { p.take b with store := p.store.map grow, spill := p.spill.map grow }
  else
    let e : Entry := ⟨b.ctx, [t]⟩
    let p1 := { p.take b with store := p.store ++ [e] }
    let tags := if t.action = .sticky then
        (((p.store ++ p.spill).filter fun e =>
          let u := opTok e.toks
          decide (e.ctx = b.ctx ∧ u.tag.slot = t.tag.slot ∧ u.tag.unit = t.tag.unit ∧ u.idx = t.idx ∧ u.action = .consume)).map
            fun e => (opTok e.toks).tag).eraseDups
      else [t.tag]
    let p2 := pushReady k core x y b.ctx tr i t.idx tags p1
    if 64 ≤ p.store.length ∧ p2.ready.length = p.ready.length then spillTok r core x y b e
    else updPe r core x y fun _ => p2

/-- A PURGE reaches its target (R50): it removes the sticky token, or becomes pending. -/
def purgeAt (r : R s0) (core x y : Nat) (b : BufTok) : R s0 :=
  updPe r core x y fun p =>
    let q := p.take b
    if (p.store ++ p.spill).any (stickyFor b.ctx b.tok) then
      ({ q with store := p.store.filter fun e => !stickyFor b.ctx b.tok e
                spill := p.spill.filter fun e => !stickyFor b.ctx b.tok e }).reopen
    else if p.purges.contains (pkeyOf b.ctx b.tok) then q
    else { q with purges := p.purges ++ [pkeyOf b.ctx b.tok] }

/-- TOKEN_ACCEPT (R41): the PE accepts one head token, or holds it with its fault. -/
def acceptTok (r : R s0) (core x y : Nat) (b : BufTok) : R s0 :=
  let k := r.s.core core
  let p := k.pe x y
  let r := updCore r core fun k => { k with quiet := k.quiet.filter (· ≠ b.ctx) }
  match placeOf k x y p b with
  | .wait => r
  | .absent => reportTok (updPe r core x y fun p => p.take b) core x y b.ctx .slotAbsent b.tok
  | .at tr i =>
    if b.tok.kind = .purge then purgeAt r core x y b
    else if nonMatching i then
      let f : Firing := ⟨core, x, y, b.ctx, tr, b.tok.tag, b.tok.idx,
        if b.tok.slot = .a then [b.tok] else [], if b.tok.slot = .a then [] else [b.tok], []⟩
      updPe r core x y fun p => { p.take b with ready := p.ready ++ [f] }
    else if b.tok.action = .sticky ∧ p.purges.contains (pkeyOf b.ctx b.tok) then
      updPe r core x y fun p => { p.take b with purges := p.purges.filter (· ≠ pkeyOf b.ctx b.tok) }
    else if b.tok.action = .consume ∧ outOfWindow p b.ctx b.tok then holdTok r core x y b .tagAlias
    else
      let cnt := operandCount k i x y b.tok.tag.slot.toNat b.tok.idx b.tok.slot
      let full (e : Entry) : Bool :=
        stickyFor b.ctx b.tok e || (sameKey b.ctx b.tok e && decide (cnt (opTok e.toks).kind ≤ e.toks.length)) ||
          (decide (b.tok.action = .sticky) && sameKey b.ctx b.tok e)
      if (p.store ++ p.spill).any full then holdTok r core x y b .tagAlias
      else enterStore r core x y b tr i

def execTokenAccept (core x y : Nat) (s : State) : Host.Outcome State Fault Refusal :=
  let r := R.start s
  (match nextHead s core x y with
   | some b => acceptTok r core x y b
   | none => r).done

/-- SPILL_REFILL (R52): one spilled operand returns to a freed store entry. -/
def execSpillRefill (core x y : Nat) (s : State) : Host.Outcome State Fault Refusal :=
  let r := R.start s
  let p := (s.core core).pe x y
  let pick : Option Entry := match p.spill with
    | [] => none
    | e :: _ =>
      if (s.ctx e.ctx).det then
        leastBy (fun a b => keyBefore (opTok a.toks).tag (opTok a.toks).idx (opTok b.toks).tag (opTok b.toks).idx)
          (p.spill.filter fun g => g.ctx = e.ctx)
      else some e
  (match pick with
   | none => r
   | some e =>
     if 64 ≤ p.store.length ∨ ctxMoves s e.ctx = false then r
     else
       let r1 := updPe r core x y fun p => { p with spill := p.spill.erase e, store := p.store ++ [e] }
       writeFrames (trimFrames r1 core x y e.ctx) core x y e.ctx).done

/-- SLOT_IMAGE_FETCH (R266): an assigned slot's image becomes resident at a PE that has one. -/
def execSlotImageFetch (core x y slot : Nat) (s : State) : Host.Outcome State Fault Refusal :=
  let r := R.start s
  let k := s.core core
  (if (imageAt k slot x y).isSome && !((k.pe x y).resident.contains slot) then
     updPe r core x y fun p => { p with resident := slot :: p.resident }
   else r).done

/-! ## Faults of quiescence (R54, R58) -/

/-- An ITER window that is full with a token held at a (R58). -/
def fullWindows (p : Pe) (c : Nat) : List Tok := p.wins.filterMap fun w => if w.ctx = c then w.held else none

/-- TAG_EXHAUST for the ITER nodes of a core, OVERFLOW_FULL for stopped PEs in deterministic mode. -/
def quiescentPes (r : R s0) (core c : Nat) : R s0 :=
  r.each (r.s.core core).pes fun q e =>
    let x := e.1 % 16
    let y := e.1 / 16
    let q1 := q.each (fullWindows e.2 c) fun z t => reportTok z core x y c .tagExhaust t
    if e.2.stopped && !e.2.stopReported && (q.s.ctx c).det then
      match e.2.bufs.find? fun b => b.ctx = c with
      | some b => reportTok (updPe q1 core x y fun p => { p with stopReported := true }) core x y c .overflowFull b.tok
      | none => q1
    else q1

/-- Every report that R286 asks for has arrived. -/
def reportsDone (s : State) (q : Req) : Bool :=
  match chainOf (s.core q.firing.core) q.firing.ctx q.firing.tag.unit with
  | none => true
  | some k =>
    let i := q.firing.tag.iter
    iterBefore i k.oldest ||
      (decide (i = k.oldest) && (List.range q.own).all fun n => decide (n = 0) || k.reps.contains (i.toNat, n))

/-- TAG_EXHAUST for an access that waits for a missing report (R286) and for the lowest waiting number of each stalled
lane when every core of the context is quiescent (R187). -/
def quiescentReqs (r : R s0) (core c : Nat) : R s0 :=
  let allQuiet := (List.range 128).all fun k => quiescentBut stalledReq r.s k c
  let lowest (q : Req) : Bool := q.marks.isEmpty && !(r.s.reqs.any fun x =>
    decide (x.firing.ctx = c ∧ (x.stage = .laneWait ∨ x.stage = .laneRefused) ∧ x.pa / 8 = q.pa / 8) && x.marks.isEmpty &&
      iterBefore x.firing.tag.iter q.firing.tag.iter)
  r.each (r.s.reqs.filter fun q => q.firing.core = core ∧ q.firing.ctx = c) fun z q =>
    let raise := match q.stage with
      | .blocked => q.translated && decide (q.own ≠ 0) && !reportsDone r.s q
      | .laneWait | .laneRefused => allQuiet && lowest q
      | _ => false
    if raise then reportFiring z q.firing (recOf q.firing .tagExhaust false (recSrc q) 0
      [q.firing.x * 16 + q.firing.y, tagNat q.firing.tag, 0]) else z

/-- TAG_EXHAUST for matrix commands that wait (R313). -/
def quiescentMatrix (r : R s0) (core c : Nat) : R s0 :=
  r.each ((r.s.core core).matrix.cmds.filter fun m => m.firing.ctx = c) fun z m =>
    reportFiring z m.firing (recOf m.firing .tagExhaust false 4 0 [m.firing.x * 16 + m.firing.y, tagNat m.firing.tag, 0])

/-- CORE_QUIESCENT (R58): the faults of a core that has become quiescent for a context, raised once, and its fault
records that no agent can precede any more (R469). -/
def execCoreQuiescent (core c : Nat) (s : State) : Host.Outcome State Fault Refusal :=
  let r := R.start s
  let k := s.core core
  (if quiescentBut stalledReq s core c = false ∨ ctxMoves s c = false then r
   else
     let r1 := if k.quiet.contains c then r
       else
         let q := quiescentMatrix (quiescentReqs (quiescentPes r core c) core c) core c
         updCore q core fun k => { k with quiet := c :: k.quiet }
     flushRecords r1 c (r1.s.ctx c).pend.length).done

/-! ## A cut's markers (R471) -/

def markerTok (tag : Tag) : Tok := ⟨.marker, .consume, false, false, .a, 0, tag, 0⟩

/-- Sends a MARKER of a context along some routes. -/
def sendMarkers (r : R s0) (core c : Nat) (src : Dest) (routes : List Nat) (slot : Nat) : R s0 :=
  let fl := (routes.filter (· ≠ 0)).map fun re =>
    let (d, i) := routeDest re
    ({ tok := { markerTok ⟨BitVec.ofNat 3 slot, 0, 0⟩ with idx := i, slot := routeSlot re }, ctx := c, src := src, dest := d } : Flight)
  updCore r core fun k => { k with flights := k.flights ++ fl }

/-- A MARKER reaches a PE: the first of its context stops the PE's firings of it and goes on along every route of its
slots. -/
def markPe (r : R s0) (core x y c : Nat) : R s0 :=
  let k := r.s.core core
  if (k.pe x y).marked.contains c then r
  else
    let r1 := updPe r core x y fun p => { p with marked := c :: p.marked }
    let imgs := k.bindings.flatMap fun b => if b.cfg.ctx = c then b.cfg.images.filter fun i => i.x = x ∧ i.y = y else []
    r1.each imgs fun q i => sendMarkers q core c (.pe x y) i.routes i.slot

/-- What a MARKER does where it arrives: a PE or a FIFO passes it on, anything else absorbs it. -/
def markArrive (r : R s0) (core : Nat) (x : Flight) : R s0 :=
  match x.dest with
  | .pe a b => markPe r core a b x.ctx
  | .tile 0 m =>
    let v := ((r.s.core core).bindings.find? fun v => decide (v.cfg.ctx = x.ctx ∧ v.cfg.roles.getD m 0 = 2)).toList
    sendMarkers r core x.ctx (.tile 0 m) (v.map fun (v : Binding) => v.cfg.fifo.getD m 0) x.tok.tag.slot.toNat
  | _ => r

/-- A MARKER is first on its route to a PE; what stands before it on a route to a tile is in that tile's input already. -/
def markerReady (k : Core) (n : Nat) (x : Flight) : Bool :=
  match x.dest with
  | .pe _ _ => routeFirst k n x
  | _ => true

/-- MARKER_ARRIVAL (R471): the n-th flight, a MARKER first on its route, reaches a PE or a tile; it enters no store. -/
def execMarkerArrival (core n : Nat) (s : State) : Host.Outcome State Fault Refusal :=
  let r := R.start s
  let k := s.core core
  (match k.flights[n]? with
   | none => r
   | some x =>
     if x.tok.kind ≠ Kind.marker ∨ markerReady k n x = false then r
     else markArrive (updCore r core fun k => { k with flights := k.flights.eraseIdx n }) core x).done

/-! ## ITER (R55, R56) -/

def Win.init (c : Nat) (slot : BitVec 3) (u : BitVec 13) : Win := ⟨c, slot, u, true, 0, 0, [], none, none⟩

def winOf (p : Pe) (c : Nat) (slot : BitVec 3) (u : BitVec 13) : Win :=
  (p.wins.find? fun w => decide (w.ctx = c ∧ w.slot = slot ∧ w.unit = u)).getD (Win.init c slot u)

def setWin (p : Pe) (w : Win) : Pe :=
  { p with wins := w :: p.wins.filter fun v => ¬(v.ctx = w.ctx ∧ v.slot = w.slot ∧ v.unit = w.unit) }

/-- What ITER does with a token at a (R56). -/
inductive IterRes where
  | issue (n : BitVec 16) | hold | tagTwin
deriving DecidableEq, Repr

/-- Evaluation of iteration `i` at a against a window of size `size`; `first` for a token not held before. -/
def iterEval (w : Win) (size : Nat) (i : BitVec 16) (first : Bool) : Win × IterRes :=
  let w1 := if w.empty && first then { w with base := i, top := i } else w
  let n := i + 1
  let d := (n - w1.base).toNat
  if d < size then ({ w1 with top := n, empty := false, held := none }, .issue n)
  else if d < 32768 then (w1, .hold)
  else (w1, .tagTwin)

/-- Advances base over retired iterations, up to top. -/
def advanceBase : Nat → Win → Win
  | 0, w => w
  | fuel + 1, w =>
    if w.retired.contains w.base then
      let w1 := { w with retired := w.retired.filter (· ≠ w.base), base := w.base + 1 }
      if w.base = w.top then { w1 with empty := true } else advanceBase fuel w1
    else w

/-- Retirement of iteration `j` (R56): none when it lies outside base to top. -/
def retire (w : Win) (j : BitVec 16) : Option Win :=
  if w.empty then none
  else if (j - w.base).toNat ≤ (w.top - w.base).toNat then
    some (advanceBase 1025 { w with retired := if w.retired.contains j then w.retired else j :: w.retired })
  else none

/-- Tokens of an issue: the accepted token under iteration n to t0 and t1. -/
def iterSends (h : Hdr) (t : Tok) (n : BitVec 16) : List Send :=
  sendAll (tgts2 h) t.kind t.value { t.tag with iter := n }

/-- The held token is evaluated again after a retirement, without any rebase. -/
def reevalHeld (h : Hdr) (size : Nat) (w : Win) : Win × List Send :=
  match w.held with
  | none => (w, [])
  | some t => match iterEval w size t.tag.iter false with
    | (w1, .issue n) => (w1, iterSends h t n)
    | (w1, _) => (w1, [])

/-- A token at b that was held outside the window is evaluated again. -/
def reevalB (w : Win) : Win :=
  match w.heldB with
  | none => w
  | some t => match retire w t.tag.iter with
    | some v => { v with heldB := none }
    | none => w

/-- Emits tokens that carry poison and carry of one token. -/
def sendsOf (f : Firing) (t : Tok) (l : List Send) (r : R s0) : R s0 :=
  emitSends r { f with a := [t], b := [], p := [] } l

/-- ITER (R56): a token at a issues the next iteration, is held, or precedes base; a token at b retires its
iteration. -/
def execIter (h : Hdr) (w : Fin 1024) (s : State) : Host.Outcome State Fault Refusal :=
  let f := s.cur
  let size := w.val + 1
  let r := noteRetag (R.start s) f
  let win := winOf ((s.core f.core).pe f.x f.y) f.ctx f.tag.slot f.tag.unit
  let put (r : R s) (v : Win) : R s := updPe r f.core f.x f.y fun p => setWin p v
  let r1 := match f.a with
    | t :: _ => (match iterEval win size t.tag.iter true with
      | (v, .issue n) => sendsOf f t (iterSends h t n) (put r (reevalB v))
      | (v, .hold) => put r { v with held := some t }
      | (v, .tagTwin) => reportTok (put r { v with held := some t }) f.core f.x f.y f.ctx .tagAlias t)
    | [] =>
      let t := opTok f.b
      (match retire win t.tag.iter with
       | some v =>
         let (v1, l) := reevalHeld h size v
         (match v.held with
          | some g => sendsOf f g l (put r v1)
          | none => put r v1)
       | none => reportTok (put r { win with heldB := some t }) f.core f.x f.y f.ctx .tagAlias t)
  (r1.when (peFails s f) fun q => markFailed q f.core f.x f.y).done

/-! ## A word placed for the next step (log 14) -/

/-- The operands of a word's firing: DATA 0 at every slot its instruction requires, DATA 1 at the p of a
predicate that asks for a true one. -/
def placedOperand (i : Instr) (op : Slot) : List Tok :=
  let v : Word := if op = .p ∧ (hdrOfInstr i).pm = .onTrue then 1 else 0
  let t : Tok := ⟨.data, .consume, false, false, op, 0, ⟨0, 0, 0⟩, v⟩
  if (required i).contains op ∧ (nonMatching i = false ∨ op = .a) then [t] else []

/-- A binding of context 0 whose one image, of slot 0 at PE (1, 1), holds a word and its extension word. -/
def placedBinding (w ext : Nat) : Binding :=
  ⟨⟨0, 0, [], 0, 1, false, [], [], 0, 0, [], [], [], [], [⟨1, 1, 0, [w, ext], []⟩]⟩, .live, .live, []⟩

/-- An instance of context 0, unit 0, that holds a word and its extension word. -/
def placedInst (w ext : Nat) : Inst :=
  ⟨0, 0, 0, 0, 0, [w, ext], [], true, [], [], [], 0, 0, [], [], 0, 0, false, false, false⟩

/-- The state with an instruction's word where the next step fires it: in a slot image when a configuration accepts
the word, else in the block instance of trestle 0; its firing is the only ready one of its PE, and that PE's issue
is the next move (log 14). -/
def placeWord (s : State) (w : Nat) : State :=
  let lo := w % 2 ^ 64
  let ext := w / 2 ^ 64 % 2 ^ 64
  let k := s.core 0
  match decode true 2 lo ext with
  | .ok i =>
    let f : Firing := ⟨0, 1, 1, 0, none, ⟨0, 0, 0⟩, 0, placedOperand i .a, placedOperand i .b, placedOperand i .p⟩
    let p := { k.pe 1 1 with ready := [f], marked := [], resident := [0] }
    let k1 := { k with bindings := [placedBinding lo ext], pes := tabSet Pe.init 17 p k.pes }
    { s with agenda := [.issue 0 1 1], cores := tabSet Core.init 0 k1 s.cores }
  | .error _ =>
    match decode false 2 lo ext with
    | .ok i =>
      let f : Firing :=
        ⟨0, 0, 1, 0, some 0, ⟨7, 0, 0⟩, 0, placedOperand i .a, placedOperand i .b, placedOperand i .p⟩
      let p := { k.pe 0 1 with ready := [f], marked := [] }
      let k1 := { k with trestles := tabSet .free 0 (.busy (placedInst lo ext)) k.trestles
                         strands := [⟨0, 0, 0, 0, .running, Frame.init, none, 0, none, 0⟩]
                         pes := tabSet Pe.init 16 p k.pes }
      { s with agenda := [.issue 0 0 1], cores := tabSet Core.init 0 k1 s.cores }
    | .error _ => s

end Sys2Proof.Machine
end

