-- ==== Sys2Proof/Machine/Got.lean ====
section
/-!
DEFINITION. Reads that an instruction makes of records, tables and descriptors on its way (log 8): each is translated
and checked as R173 states, and may end in a value, in a fault, or in waiting for a host's half or a frame
(R365, R412). At a remote address they act on the model's own bytes of that address (log 17).
-/

set_option linter.unusedVariables false

namespace Sys2Proof.Machine

open Sys2Proof

variable {s0 : State}

/-- The end of such a read. -/
inductive Got (α : Type) where
  | val (x : α)
  | fault (x : AccFault)
  | wait

/-- A state so far with the end of a read. -/
abbrev GotR (s0 : State) (α : Type) := R s0 × Got α

/-- Goes on with the value read. -/
def GotR.then {α β : Type} (x : GotR s0 α) (f : R s0 → α → GotR s0 β) : GotR s0 β :=
  match x with
  | (r, .val v) => f r v
  | (r, .fault e) => (r, .fault e)
  | (r, .wait) => (r, .wait)

/-- Goes on with a pure function of the value. -/
def GotR.map {α β : Type} (x : GotR s0 α) (f : α → β) : GotR s0 β := x.then fun r v => (r, .val (f v))

/-- The outcome of the checks as such an end. -/
def AccRes.got (x : AccRes) : Got (Nat × Word) :=
  match x with
  | .ok pa leaf => .val (pa, leaf)
  | .fault e => .fault e

/-- Bytes of a physical range that lies within one frame, once no host owns a part of it. -/
def physRead (r : R s0) (pa n : Nat) : GotR s0 (List Byte) :=
  let lines := (List.range ((pa % 128 + n + 127) / 128)).map fun i => (pa / 128 + i) * 128
  if frameWaits r.s pa then (r, .wait)
  else
    let owned := lines.filter fun l => let a := max l pa; hostOwned r.s a (min (l + 128) (pa + n) - a)
    if owned.isEmpty then (r, .val (r.s.bytes pa n))
    else (r.each owned fun q l => let a := max l pa; recallHalves q a (min (l + 128) (pa + n) - a) false, .wait)

/-- A read of `n` bytes at a virtual address for a core; `align` divides the address. -/
def vRead (r : R s0) (core c va n align : Nat) : GotR s0 (List Byte) :=
  let (r1, x) := checkAccess r core c va align .rd false
  GotR.then (r1, x.got) fun q p => physRead q p.1 n

/-- The same as a number. -/
def vNat (r : R s0) (core c va n : Nat) : GotR s0 Nat := (vRead r core c va n n).map ofBytesLE

/-- A range of any length, in parts of `step` bytes that lie within one frame each; gives bytes in order. -/
def vRange (r : R s0) (core c step : Nat) : Nat → Nat → GotR s0 (List Byte)
  | 0, _ => (r, .val [])
  | n + 1, va =>
    (vRead r core c va step 1).then fun q l => (vRange q core c step n (va + step)).map fun m => l ++ m

/-- A write of `n` bytes at a virtual address that is about to be made: its physical address and leaf, once no host
owns or shares a part of it. -/
def vPrep (r : R s0) (core c va n align : Nat) (k : Acc3) : GotR s0 (Nat × Word) :=
  let (r1, x) := checkAccess r core c va align k false
  GotR.then (r1, x.got) fun q p => (physRead q p.1 n).then fun z _ => (recallHalves z p.1 n true, .val p)

/-- The same over a list. -/
def vPrepAll (r : R s0) (core c n align : Nat) (k : Acc3) : List Nat → GotR s0 (List (Nat × Word))
  | [] => (r, .val [])
  | va :: l => (vPrep r core c va n align k).then fun q p => (vPrepAll q core c n align k l).map fun m => p :: m

/-! ## Instructions that act as one attempt, repeated while they wait -/

/-- The firing whose tokens an instruction emits later: poisoned when its PE's check failed (R477). -/
def firingOf (s : State) : Firing := if peFails s s.cur then s.cur.poisoned else s.cur

/-- An instruction that acts through its port, front end or walker: its request is made and attempted at once, unless
a held request stands before it (R175). -/
def startCtl (s : State) (h : Hdr) (ops : List Tok) (i : Instr) (src : ReqSrc) (attempt : R s → Req → R s) :
    Host.Outcome State Fault Refusal :=
  acting s h ops fun r =>
    let q := Req.new r.s.nextId i (firingOf s) src .ctl
    let r1 := addReq r fun _ => q
    if heldAhead r1.s q then r1 else attempt r1 q

/-- The attempt ends: the request leaves and its tokens are sent. -/
def ctlDone2 (r : R s0) (q : Req) (k0 : Kind) (v0 : Word) (k1 : Kind) (v1 : Word) (carry : Bool) : R s0 :=
  reply2 (dropReq r q.id) q.firing (hdrOfInstr q.instr) k0 v0 k1 v1 carry

def ctlDone (r : R s0) (q : Req) (k : Kind) (v : Word) (carry : Bool) : R s0 := ctlDone2 r q k v k v carry

/-- It ends with ERROR of the value of a. -/
def ctlErr (r : R s0) (q : Req) : R s0 := ctlDone r q .error (opTok q.firing.a).value false

/-- It ends with a status whose code stands in [63:56]. -/
def ctlStatus (r : R s0) (q : Req) (code : Nat) (carry : Bool) : R s0 :=
  ctlDone r q .data (BitVec.ofNat 64 (code * 2 ^ 56)) carry

/-- The attempt goes on with a value read; a fault is taken (R174, R175), and a wait leaves the request. -/
def GotR.run {α : Type} (x : GotR s0 α) (q : Req) (f : R s0 → α → R s0) : R s0 :=
  match x with
  | (r, .val v) => f r v
  | (r, .fault e) => faultReq r q (hdrOfInstr q.instr) e
  | (r, .wait) => r

/-- An earlier access of the same agent that is not performed yet (R170, R171); `held` counts those that a restartable
fault holds (R355). -/
def earlierOpen (s : State) (q : Req) (held : Bool) : Bool :=
  s.reqs.any fun x =>
    decide (x.id < q.id ∧ x.firing.core = q.firing.core ∧ x.firing.ctx = q.firing.ctx ∧
      x.firing.tag.unit = q.firing.tag.unit ∧ x.stage ≠ .performed) && (held || decide (x.stage ≠ .held))

/-- An instruction that acts at the commit of its block, and at once in a configuration (R243, R327, R369, R481). -/
def startAct (s : State) (h : Hdr) (ops : List Tok) (i : Instr) (attempt : R s → Req → R s) :
    Host.Outcome State Fault Refusal :=
  match s.cur.trestle with
  | none => startCtl s h ops i (reqSrcOf s.cur) attempt
  | some t => acting s h ops fun r =>
      updInst r s.cur.core t fun x => { x with acts := x.acts ++ [⟨s.cur.idx, i, firingOf s⟩] }

end Sys2Proof.Machine
end

