-- ==== Sys2Proof/Machine/Kv.lean ====
section
/-!
DEFINITION. KV sequences (R376 to R393): the walk of a KV handle with the walker tile's caches, and the instructions
KVAPP, KVQRY and SMXUPD. KVLD and KVST stand in Access.lean with the other memory instructions.
-/

set_option linter.unusedVariables false

namespace Sys2Proof.Machine

open Sys2Proof

variable {s0 : State}

/-- The fields of a handle (R376). -/
structure KvHandle where
  seq : Nat
  layer : Nat
  head : Nat
  kv : Nat
  pos : Nat
  page : Nat
  row : Nat
  low : Nat
deriving DecidableEq, Repr

def kvHandle (h : Nat) : KvHandle :=
  ⟨field h 63 44, field h 43 36, field h 35 28, field h 27 27, field h 26 3, field h 26 9, field h 8 3, field h 2 0⟩

/-- A KV_UNMAPPED fault (R468). -/
def kvFault (h : Nat) (off : Int) (level ea : Nat) (final : Bool) : AccFault :=
  ⟨.kvUnmapped, final, [h, wrapInt 64 off, level, ea]⟩

/-- A descriptor's bytes (R377): none unless V is set and no field breaks the table. -/
def kvDescOf (c seq va : Nat) (l : List Byte) : Option KvDesc :=
  let n (i k : Nat) : Nat := ofBytesLE ((l.drop i).take k)
  let d : KvDesc := ⟨c, seq, va, n 0 4, n 4 1, n 5 1, n 6 2, n 8 8, n 16 8, n 24 1 / 2 % 2 = 1⟩
  if n 24 1 % 2 = 1 ∧ n 24 1 < 4 ∧ d.length ≤ 2 ^ 24 ∧ 8 ≤ d.rowbytes ∧ d.rowbytes ≤ 1024 ∧ d.rowbytes % 8 = 0 ∧
      d.streams % 8 = 0 ∧ d.pool % 16 = 0 ∧ (l.drop 25).all (fun b => b = 0) then some d else none

/-- The descriptor read at its home (R380). -/
def kvReadDesc (r : R s0) (core c seq : Nat) : GotR s0 (Option KvDesc) :=
  let va := (r.s.ctx c).kvBase.toNat + 64 * seq
  (vRead r core c va 64 8).map (kvDescOf c seq va)

/-- Number of streams of a sequence (R377), and the stream of a handle. -/
def KvDesc.streamCount (d : KvDesc) : Nat := (d.layers + 1) * (d.heads + 1) * 2
def KvDesc.streamOf (d : KvDesc) (x : KvHandle) : Nat := 2 * (x.layer * (d.heads + 1) + x.head) + x.kv

def cacheDesc (r : R s0) (core : Nat) (d : KvDesc) : R s0 :=
  updCore r core fun k => { k with walker := { k.walker with
    desc := (d :: k.walker.desc.filter fun e => ¬(e.ctx = d.ctx ∧ e.seq = d.seq)).take 16 } }

def cachePage (r : R s0) (core : Nat) (p : KvPage) : R s0 :=
  updCore r core fun k => { k with walker := { k.walker with
    pages := (p :: k.walker.pages.filter fun e =>
      ¬(e.ctx = p.ctx ∧ e.seq = p.seq ∧ e.stream = p.stream ∧ e.page = p.page)).take 512 } }

/-- The descriptor of a walk (R381): a cached one serves positions below its length. -/
def kvDesc (r : R s0) (core c : Nat) (h : Nat) (off : Int) : GotR s0 KvDesc :=
  let x := kvHandle h
  match (r.s.core core).walker.desc.find? fun d => decide (d.ctx = c ∧ d.seq = x.seq ∧ x.pos < d.length) with
  | some d => (r, .val d)
  | none => (kvReadDesc r core c x.seq).then fun q o => match o with
    | some d => (cacheDesc q core d, .val d)
    | none => (q, .fault (kvFault h off 0 ((q.s.ctx c).kvBase.toNat + 64 * x.seq) true))

/-- One table entry (R378): its level's format, with V clear a restartable fault at that level. `allowed` has a bit for
each bit that the entry may set. -/
def kvEntry (r : R s0) (core c h : Nat) (off : Int) (level va allowed : Nat) : GotR s0 Nat :=
  (vNat r core c va 8).then fun q e =>
    if e &&& allowed ≠ e then (q, .fault (kvFault h off level va true))
    else if e % 2 = 0 then (q, .fault (kvFault h off level va false))
    else (q, .val e)

/-- Bits that stream and directory entries, and page entries, may set. -/
def kvDirBits : Nat := 2 ^ 48 - 2 ^ 12 + 1
def kvPageBits : Nat := 2 ^ 48 - 2 ^ 7 + 3

/-- Address of the page entry of a stream's page (R378), and the addresses of the entries above it. -/
def kvPageEntry (r : R s0) (core c h : Nat) (off : Int) (d : KvDesc) (t g : Nat) : GotR s0 (List Nat) :=
  let sa := d.streams + 8 * t
  (kvEntry r core c h off 1 sa kvDirBits).then fun q e =>
    let da := field e 47 12 * 2 ^ 12 + 8 * (g / 512)
    (kvEntry q core c h off 2 da kvDirBits).map fun y => [field y 47 12 * 2 ^ 12 + 8 * (g % 512), da, sa]

/-- The page of a walk (R381). -/
def kvPage (r : R s0) (core c h : Nat) (off : Int) (d : KvDesc) : GotR s0 KvPage :=
  let x := kvHandle h
  let t := d.streamOf x
  match (r.s.core core).walker.pages.find? fun p =>
      decide (p.ctx = c ∧ p.seq = x.seq ∧ p.stream = t ∧ p.page = x.page) with
  | some p => (r, .val p)
  | none =>
    (kvPageEntry r core c h off d t x.page).then fun q uses =>
      (kvEntry q core c h off 3 (uses.headD 0) kvPageBits).then fun z e =>
        let p : KvPage := ⟨c, x.seq, t, x.page, field e 47 7 * 2 ^ 7, field e 1 1 = 1, d.rowbytes, d.va :: uses⟩
        (cachePage z core p, .val p)

/-- THE WALK (R380): the effective address behind a handle, an offset and a size. -/
def kvWalk (r : R s0) (core c h : Nat) (off : Int) (size : Nat) (store : Bool) : GotR s0 Nat :=
  let x := kvHandle h
  if x.low ≠ 0 then (r, .fault ⟨.reservedField, true, []⟩)
  else if (r.s.ctx c).kvCnt.toNat ≤ x.seq then (r, .fault (kvFault h off 0 0 true))
  else (kvDesc r core c h off).then fun q d =>
    if d.layers < x.layer ∨ d.heads < x.head ∨ d.length ≤ x.pos then (q, .fault (kvFault h off 0 d.va true))
    else if off % size ≠ 0 then (q, .fault ⟨.alignment, true, [h, 7 + (if store then 2 ^ 8 else 0), 0]⟩)
    else if off < 0 ∨ d.rowbytes < off + size then (q, .fault (kvFault h off 4 0 true))
    else (kvPage q core c h off d).then fun z p =>
      if store && (!p.wr || d.ro) then
        (z, .fault ⟨.permission, true, [h, 3 + 2 ^ 8, p.uses.getD 1 0]⟩)
      else (z, .val (p.block + p.rowbytes * x.row + off.toNat))

/-! ## KVAPP (R391) -/

/-- KVAPP's status. -/
def kvStatus (code len : Nat) : Word := BitVec.ofNat 64 (code * 2 ^ 56 + len % 2 ^ 25)

/-- Pages that hold some positions. -/
def kvPages (x : Nat) : Nat := (x + 63) / 64

/-- The page entries of pages g0 to g1 − 1 of every stream, in the order of R391. -/
def kvEntries (r : R s0) (core c h : Nat) (d : KvDesc) : List (Nat × Nat) → GotR s0 (List (Nat × Word))
  | [] => (r, .val [])
  | (g, t) :: l =>
    (kvPageEntry r core c h 0 d t g).then fun q uses =>
      (vPrep q core c (uses.headD 0) 8 8 .rw).then fun z p =>
        (kvEntries z core c h d l).map fun m => p :: m

/-- Pages and streams from page g0 to g1 − 1. -/
def kvRange (g0 g1 n : Nat) : List (Nat × Nat) :=
  (List.range (g1 - g0)).flatMap fun i => (List.range n).map fun t => (g0 + i, t)

/-- Eight-byte writes at physical addresses by a core. -/
def put8 (r : R s0) (core : Nat) (l : List ((Nat × Word) × Nat)) : R s0 :=
  r.each l fun q e => homeWrite q (.core core) e.1.2 true e.1.1 (bytesLE 8 e.2)

/-- The pool of a sequence: (top, capacity, stack) with the checked place of its top word. -/
def kvPool (r : R s0) (core c pool : Nat) : GotR s0 ((Nat × Nat × Nat) × (Nat × Word)) :=
  (vPrep r core c pool 16 16 .rw).map fun p =>
    let s := r.s
    ((s.nat p.1 4, s.nat (p.1 + 4) 4, s.nat (p.1 + 8) 8), p)

/-- Every walker tile of the module drops a sequence's entries (R382). -/
def dropSeq (r : R s0) (c seq : Nat) : R s0 :=
  r.each (r.s.cores.map Prod.fst) fun q k =>
    updCore q k fun v => { v with walker :=
      ⟨v.walker.desc.filter fun d => ¬(d.ctx = c ∧ d.seq = seq), v.walker.pages.filter fun p => ¬(p.ctx = c ∧ p.seq = seq)⟩ }

/-- The last write of KVAPP: the new length. -/
def kvSetLength (r : R s0) (core : Nat) (p : Nat × Word) (len : Nat) : R s0 :=
  homeWrite r (.core core) p.2 true p.1 (bytesLE 4 len)

/-- The new descriptor length also enters the walker tile's copy (R381: a length is only raised by the home's). -/
def kvDone (r : R s0) (q : Req) (code len : Nat) : R s0 := ctlDone r q .data (kvStatus code len) true

/-- One attempt of KVAPP. -/
def tryKvapp (r : R s0) (q : Req) : R s0 :=
  let f := q.firing
  let h := (opTok f.a).value.toNat
  let seq := field h 63 44
  let n := sInt 64 (opTok f.b).value.toNat
  if field h 43 0 ≠ 0 then ctlErr r q
  else if (r.s.ctx f.ctx).kvCnt.toNat ≤ seq then kvDone r q 6 0
  else (kvReadDesc r f.core f.ctx seq).run q fun r1 o =>
    match o with
    | none => kvDone r1 q 6 0
    | some d =>
      let new : Int := d.length + n
      if new < 0 ∨ 2 ^ 24 < new then kvDone r1 q 10 d.length
      else if d.ro then kvDone r1 q 11 d.length
      else
        let len := new.toNat
        let g0 := kvPages d.length
        let g1 := kvPages len
        (vPrep r1 f.core f.ctx d.va 4 4 .rw).run q fun r2 dp =>
          if g1 = g0 then kvDone (if len = d.length then r2 else kvSetLength r2 f.core dp len) q 0 len
          else if d.pool = 0 then
            if g0 < g1 then kvDone r2 q 2 d.length
            else
              -- a truncation without a pool: no block can be pushed
              (kvEntries r2 f.core f.ctx h d (kvRange g1 g0 d.streamCount)).run q fun r3 es =>
                if es.any fun e => r3.s.nat e.1 8 % 2 = 1 then kvDone r3 q 2 d.length
                else kvDone (dropSeq (kvSetLength (put8 r3 f.core (es.map fun e => (e, 0))) f.core dp len) f.ctx seq) q 0 len
          else
            (kvPool r2 f.core f.ctx d.pool).run q fun r3 pl =>
              let ((top, cap, stack), pp) := pl
              if g0 < g1 then
                let need := (g1 - g0) * d.streamCount
                if top < need then kvDone r3 q 2 d.length
                else (kvEntries r3 f.core f.ctx h d (kvRange g0 g1 d.streamCount)).run q fun r4 es =>
                  (vPrepAll r4 f.core f.ctx 8 8 .rd ((List.range need).map fun i => stack + 8 * (top - 1 - i))).run q
                    fun r5 bs =>
                      let w := (es.zip bs).map fun e => (e.1, r5.s.nat e.2.1 8 &&& (2 ^ 48 - 2 ^ 7) ||| 3)
                      let r6 := put8 r5 f.core w
                      let r7 := homeWrite r6 (.core f.core) pp.2 true pp.1 (bytesLE 4 (top - need))
                      kvDone (kvSetLength r7 f.core dp len) q 0 len
              else (kvEntries r3 f.core f.ctx h d (kvRange g1 g0 d.streamCount)).run q fun r4 es =>
                let back := es.filter fun e => r4.s.nat e.1 8 % 2 = 1
                if cap < top + back.length then kvDone r4 q 2 d.length
                else
                  (vPrepAll r4 f.core f.ctx 8 8 .rw ((List.range back.length).map fun i => stack + 8 * (top + i))).run q
                    fun r5 bs =>
                      let w := (bs.zip back).map fun e => (e.1, r5.s.nat e.2.1 8 &&& (2 ^ 48 - 2 ^ 7))
                      let r6 := put8 (put8 r5 f.core w) f.core (es.map fun e => (e, 0))
                      let r7 := homeWrite r6 (.core f.core) pp.2 true pp.1 (bytesLE 4 (top + back.length))
                      kvDone (dropSeq (kvSetLength r7 f.core dp len) f.ctx seq) q 0 len

/-- KVAPP (R391): acts at firing in both containers. -/
def execKvapp (h : Hdr) (s : State) : Host.Outcome State Fault Refusal :=
  startCtl s h [opTok s.cur.a, opTok s.cur.b] (.kvapp h) .walker tryKvapp

/-! ## KVQRY (R392) -/

/-- The query word. -/
def kvWord (state level len : Nat) (wr cached : Bool) : Word :=
  BitVec.ofNat 64 (state * 2 ^ 62 + (if wr then 2 ^ 61 else 0) + (if cached then 2 ^ 60 else 0) + level * 2 ^ 57 +
    len % 2 ^ 25)

/-- What a query reads: a walk without offset, fault or access. -/
def kvQuery (r : R s0) (core c h : Nat) : R s0 × Word :=
  let x := kvHandle h
  if x.low ≠ 0 then (r, kvWord 0 0 0 false false)
  else if (r.s.ctx c).kvCnt.toNat ≤ x.seq then (r, kvWord 3 0 0 false false)
  else match kvReadDesc r core c x.seq with
    | (r1, .val none) => (r1, kvWord 3 0 0 false false)
    | (r1, .val (some d)) =>
      let t := d.streamOf x
      let cached := (r1.s.core core).walker.pages.any fun p =>
        decide (p.ctx = c ∧ p.seq = x.seq ∧ p.stream = t ∧ p.page = x.page)
      if d.layers < x.layer ∨ d.heads < x.head ∨ d.length ≤ x.pos then (r1, kvWord 0 0 d.length false cached)
      else
        let at3 := (kvPageEntry r1 core c h 0 d t x.page).then fun z uses => kvEntry z core c h 0 3 (uses.headD 0) kvPageBits
        (match at3 with
         | (r2, .val e) => (r2, kvWord 2 7 d.length (decide (field e 1 1 = 1)) cached)
         | (r2, .fault e) =>
           (r2, kvWord 1 (if e.cause = .kvUnmapped then e.words.getD 2 1 else 1) d.length false cached)
         | (r2, .wait) => (r2, kvWord 1 1 d.length false cached))
    | (r1, _) => (r1, kvWord 1 0 0 false false)

/-- KVQRY (R392): the query word to both targets. -/
def execKvqry (h : Hdr) (s : State) : Host.Outcome State Fault Refusal :=
  acting s h [opTok s.cur.a] fun r =>
    let (r1, w) := kvQuery r s.cur.core s.cur.ctx (opTok s.cur.a).value.toNat
    reply r1 s.cur h .data w false

/-! ## SMXUPD (R393) -/

/-- State, weights and flags of one online softmax step; none for the undefined corners. -/
def smxStep (a b : Word) : Option (Word × Word) × FFlags :=
  let mc := laneOf 32 0 a
  let sc := laneOf 32 0 b
  let m := decodeFmt fmtF32 mc
  let l := decodeFmt fmtF32 (laneOf 32 1 a)
  let x := decodeFmt fmtF32 sc
  let w := decodeFmt fmtF32 (laneOf 32 1 b)
  if m = .inf true ∧ x = .inf true then (some (a, 0x3F3F3F3F3F3F3F3F), fNone)
  else
    let first := !ordLt m x
    let mn := if first then m else x
    let ro := pexpLane m mn
    let rn := pexpLane x mn
    let fl := ro.fl ||| rn.fl
    match ro.code, rn.code with
    | some co, some cn =>
      let sum : EVal := match mulVal l (decodeP4 co), mulVal w (decodeP4 cn) with
        | some u, some v => addVal u v
        | _, _ => .undef
      let nl := roundTo fmtF32 .rne false sum
      (match nl.code with
       | some c =>
         (some (BitVec.ofNat 64 ((if first then mc else sc) + c * 2 ^ 32),
           BitVec.ofNat 64 (packN 8 (List.replicate 4 co ++ List.replicate 4 cn))), fl ||| nl.fl)
       | none => (none, fl ||| nl.fl))
    | _, _ => (none, fl)

/-- SMXUPD (R393): the new state to t0 and the weights to t1; an undefined result is ERROR with the value of a. -/
def execSmxupd (h : Hdr) (ty : Ty) (s : State) : Host.Outcome State Fault Refusal :=
  let f := s.cur
  let a := nanTok (anyNaN ty) (opTok f.a)
  let b := nanTok (anyNaN ty) (opTok f.b)
  let body : Res := match smxStep a.value b.value with
    | (some (st, w), fl) => ⟨sendAll [h.t0] .data st f.tag ++ sendAll [h.t1] .data w f.tag, fl⟩
    | (none, fl) => ⟨sendAll (tgts2 h) .error a.value f.tag, fl⟩
  fireRes s (ruled h (tgts2 h) f [a, b] body)

end Sys2Proof.Machine
end

