-- ==== Sys2Proof/Machine/Access.lean ====
section
/-!
DEFINITION. Memory instructions at their firing (R164 to R194, R383, R389): effective addresses, the checks of R173, numbers and
LSIDs, and the requests they make. What a request does at its home stands in Perform.lean, its order in Port.lean.
-/

set_option linter.unusedVariables false

namespace Sys2Proof.Machine

open Sys2Proof

variable {s0 : State}

/-! ## Kinds of memory instructions -/

def isStore (i : Instr) : Bool :=
  match i with
  | .st .. | .stx .. | .stl .. | .kvst .. => true
  | _ => false

def isAtomic (i : Instr) : Bool :=
  match i with
  | .amoadd .. | .amoand .. | .amoor .. | .amoxor .. | .amomin .. | .amomax .. | .amoswp .. | .amocas .. | .amofadd .. => true
  | _ => false

def isLocal (i : Instr) : Bool :=
  match i with
  | .ldl .. | .stl .. => true
  | _ => false

def isKv (i : Instr) : Bool :=
  match i with
  | .kvld .. | .kvst .. => true
  | _ => false

/-- The memory layout of an instruction that has one (R100). -/
def memOfInstr (i : Instr) : Option Mem :=
  match i with
  | .ld _ _ m | .ldx _ _ m | .ldl _ _ m | .ldt _ _ m | .st _ _ m | .stx _ _ m | .stl _ _ m | .pref _ m
  | .amoadd _ _ m | .amoand _ _ m | .amoor _ _ m | .amoxor _ _ m | .amomin _ _ m | .amomax _ _ m | .amoswp _ _ m
  | .amocas _ _ m | .amofadd _ _ m | .fence _ m | .waita _ _ m | .wake _ m | .kvld _ _ m | .kvst _ _ m | .dld _ _ m
  | .dldl _ _ m => some m
  | _ => none

/-- No target receives anything. -/
def noTargets (i : Instr) : Bool := (hdrOfInstr i).t0.isNone && (hdrOfInstr i).t1.isNone

/-- Prefetches (R176, R182, R389): they never fault. -/
def isPrefetch (i : Instr) : Bool :=
  match i with
  | .pref .. => true
  | .ld .. | .ldx .. | .kvld .. => noTargets i
  | _ => false

/-- Held to the commit of a block (R170, R185). -/
def isHeldKind (i : Instr) : Bool := isStore i || (isAtomic i && noTargets i)

/-- Instructions of a word list, by index; an extension word holds none (R101). -/
def instrsAt (cfg : Bool) : Nat → List Nat → List (Nat × Instr)
  | _, [] => []
  | n, w :: l =>
    let rest := instrsAt cfg (n + 1) l
    match decode cfg 2 w (l.headD 0) with
    | .ok i => (n, i) :: (if isExtended (w / 2 ^ 56 % 2 ^ 8) then rest.filter (·.1 ≠ n + 1) else rest)
    | .error _ => rest

/-- Numbered instructions (R285, R383). -/
def isNumbered (i : Instr) : Bool :=
  match i with
  | .dld .. | .dldl .. => false
  | _ => (memOfInstr i).isSome

/-- Indices of the numbered instructions of a word list. -/
def numberedAt (words : List Nat) : List Nat := (instrsAt true 0 words).filterMap fun x => if isNumbered x.2 then some x.1 else none

/-- Own sequence number of the instruction of a firing (R285); 0 for none. -/
def ownOf (s : State) (f : Firing) : Nat :=
  match f.trestle with
  | some _ => 0
  | none => match slotOwner (s.core f.core) f.tag.slot.toNat with
    | none => 0
    | some b =>
      let l := b.cfg.images.flatMap fun i => (numberedAt i.words).map fun n => (i.x, i.y, i.slot, n)
      (l.findIdx? (· = (f.x, f.y, f.tag.slot.toNat, f.idx))).elim 0 (· + 1)

/-- Number of the last numbered instruction of a configuration. -/
def ownCount (c : Config) : Nat := (c.images.flatMap fun i => numberedAt i.words).length

/-! ## LSIDs (R170, R206) -/

def updLsid (r : R s0) (f : Firing) (k : Nat) (g : LState → LState) : R s0 :=
  match f.trestle with
  | some t => updInst r f.core t fun i => { i with lsids := tabSet LState.init k (g (tabGet LState.init k i.lsids)) i.lsids }
  | none => r

def fireLsid (r : R s0) (f : Firing) (k : Nat) : R s0 := updLsid r f k fun l => { l with fired := true }
def nullLsid (r : R s0) (f : Firing) (k : Nat) : R s0 := updLsid r f k fun l => { l with fired := true, nulled := true }
def dropLsid (r : R s0) (f : Firing) (k : Nat) : R s0 := updLsid r f k fun l => { l with dropped := f.idx :: l.dropped }
/-- A store or atomic is counted (R206). -/
def countLsid (r : R s0) (f : Firing) (k : Nat) : R s0 := updLsid r f k fun l => { l with counted := l.counted ++ [f.idx] }

/-! ## Addresses (R165, R166, R167) -/

/-- Access size (R167). -/
def accSize (ty : Ty) : Nat :=
  match ty with
  | .s32 | .z32 | .f32 => 4
  | _ => 8

/-- a + off (R165). -/
def eaOf (a : Word) (m : Mem) : Word := a + m.off.signExtend 64
/-- a + b · size + off (R165). -/
def eaIndexed (a b : Word) (m : Mem) (size : Nat) : Word := a + b * BitVec.ofNat 64 size + m.off.signExtend 64

/-- A local address is good for a context on a core (R166). -/
def localOk (s : State) (core c a n : Nat) : Bool :=
  let t := (s.core core).tile (a / 2 ^ 16)
  decide (a + n ≤ 2 ^ 21 ∧ t.role = 1) && decide (t.owner.map Prod.fst = some c)

/-- The bytes that a store writes of its data (R78, R179). -/
def storeBytes (ty : Ty) (d : Tok) : List Byte :=
  let n := accSize ty
  if d.kind = .error then
    let v := match ty with
      | .s64 | .s32 | .s16x4 | .s8x8 => fillTy ty (List.replicate (tyLanes ty) (2 ^ (tyWidth ty - 1)))
      | .z64 | .z32 | .z16x4 | .z8x8 | .p4x8 => BitVec.allOnes 64
      | _ => fillTy ty (List.replicate (tyLanes ty) (canonNaN (tyFmt ty)))
    bytesLE n (v.toNat % 2 ^ (8 * n))
  else bytesLE n (d.value.toNat % 2 ^ (8 * n))

/-! ## The checks of R173 -/

/-- The access kind and whether the bias row applies (R173, R364). -/
def accKind (q : Req) : Acc3 × Bool :=
  match q.op with
  | .store _ => (.wr, false)
  | .atomic .. | .skip .. | .barrier .. | .barwt _ | .bartst => (.rw, true)
  | .waita _ | .wake => (.rd, true)
  | _ => (.rd, false)

/-- An access that has passed the checks: virtual and physical address, leaf. -/
structure Placed where
  va : Nat
  pa : Nat
  leaf : Word
deriving DecidableEq, Repr

/-- The checks of R173 for a request, in the order of its rows up to the bias row. -/
def checkReq (r : R s0) (q : Req) : GotR s0 Placed :=
  let c := q.firing.ctx
  let (k, bias) := accKind q
  if isLocal q.instr then
    if localOk r.s q.firing.core c q.va q.size = false then (r, .fault ⟨.translation, true, accWords q.va 7 k 0⟩)
    else if q.va % q.size ≠ 0 then (r, .fault ⟨.alignment, true, accWords q.va 7 k 0⟩)
    else (r, .val ⟨q.va, q.va, 0⟩)
  else if isKv q.instr then
    let off : Int := match memOfInstr q.instr with | some m => m.off.toInt | none => 0
    (kvWalk r q.firing.core c (opTok q.firing.a).value.toNat off q.size (isStore q.instr)).then fun z ea =>
      let (z1, x) := checkAccess z q.firing.core c ea 1 k false
      GotR.map (z1, x.got) fun p => ⟨ea, p.1, p.2⟩
  else
    let (r1, x) := checkAccess r q.firing.core c q.va q.size k bias
    GotR.map (r1, x.got) fun p => ⟨q.va, p.1, p.2⟩

/-- A request that passed the checks: a poisoned tag is refused (R173, last row); a store of a block is held to its
commit and counted (R170, R206); any other request goes on. -/
def placeReq (r : R s0) (q : Req) (p : Placed) : R s0 :=
  let q1 := { q with translated := true, va := p.va, pa := p.pa, leaf := p.leaf, stage := .blocked }
  if q.firing.poison then
    let r1 := dropReq r q.id
    let r2 := refusePoison r1 q.firing (recSrc q) p.pa
    r2.when q.firing.trestle.isNone fun z => updCore z q.firing.core fun k =>
      { k with refused := if k.refused.contains (q.firing.ctx, q.firing.tag) then k.refused
                          else (q.firing.ctx, q.firing.tag) :: k.refused }
  else match q.firing.trestle with
    | some t =>
      if isHeldKind q.instr then
        let r1 := dropReq r q.id
        countLsid (updInst r1 q.firing.core t fun i => { i with held := i.held ++ [q1] }) q.firing q.lsid
      else updReq r q.id fun _ => q1
    | none => updReq r q.id fun _ => q1

/-- The checks of a request that are due: at its firing, or when RETRY reissues it. -/
def runChecks (r : R s0) (q : Req) : R s0 :=
  match checkReq r q with
  | (r1, .val p) => placeReq r1 q p
  | (r1, .fault e) =>
    if isPrefetch q.instr then
      -- a prefetch that would fault is dropped and keeps its place (R176)
      (dropReq r1 q.id).when (q.own ≠ 0 && !q.reported) fun z => skipReport z q.firing q.instr q.own
    else match q.op with
      | .skip k v =>
        -- a skip that draws a final fault is not sent; the token is R46's (R186)
        if e.final then
          takeFault (dropReq r1 q.id) q.firing (recOf q.firing e.cause false (recSrc q) 0 e.words) fun z =>
            (reply z q.firing (hdrOfInstr q.instr) k v false).when (q.own ≠ 0 && !q.reported) fun y =>
              skipReport y q.firing q.instr q.own
        else holdReq r1 q e
      | _ => faultReq r1 q (hdrOfInstr q.instr) e
  | (r1, .wait) => r1

/-! ## Firing -/

/-- A memory instruction consumes its operands without an access (R286, R206): a kind and value for its targets. -/
def noAccess (r : R s0) (f : Firing) (h : Hdr) (i : Instr) (m : Mem) (k : Kind) (v : Word) : R s0 :=
  let r1 := emitSends r f (sendAll (tgts2 h) k v f.tag)
  let r2 := if k = .null then nullLsid r1 f m.lsid.val else fireLsid r1 f m.lsid.val
  skipReport r2 f i (ownOf r.s f)

/-- The source that issues a memory instruction's request (R284, R384). -/
def memSrc (f : Firing) (i : Instr) : ReqSrc := if isKv i then .walker else reqSrcOf f

/-- A memory instruction at its firing: predicate, kinds, then its request with the checks of R173. -/
def memFire (s : State) (h : Hdr) (i : Instr) (m : Mem) (ty : Ty) (ops : List Tok) (op : AccOp) (ea : Word) :
    Host.Outcome State Fault Refusal :=
  let f := s.cur
  let r := liftCarry (R.start s) f
  let own := ownOf s f
  let r1 := match predRule h.pm (opTok f.p) with
    | .silent => skipReport (dropLsid r f m.lsid.val) f i own
    | .emit k v => noAccess r f h i m k v
    | _ => match kindRule ops with
      | some (k, v) => noAccess r f h i m k v
      | none =>
        let q : Req := { Req.new r.s.nextId i (firingOf s) (memSrc f i) op with
          va := ea.toNat, size := accSize ty, ty := ty, scope := m.scope.val, acq := decide (m.order = Order.acq),
          rel := decide (m.order = Order.rel), ordd := m.ord, lsid := m.lsid.val, own := own }
        let r2 := addReq (fireLsid r f m.lsid.val) fun _ => q
        if heldAhead r2.s q then r2 else runChecks r2 q
  (r1.when (peFails s f) fun q => markFailed q f.core f.x f.y).done

/-- LD (R177). -/
def execLd (h : Hdr) (ty : Ty) (m : Mem) (s : State) : Host.Outcome State Fault Refusal :=
  let a := opTok s.cur.a
  memFire s h (.ld h ty m) m ty [a] .load (eaOf a.value m)

/-- LDX (R177). -/
def execLdx (h : Hdr) (ty : Ty) (m : Mem) (s : State) : Host.Outcome State Fault Refusal :=
  let a := opTok s.cur.a
  let b := opTok s.cur.b
  memFire s h (.ldx h ty m) m ty [a, b] .load (eaIndexed a.value b.value m (accSize ty))

/-- LDT (R176, R177). -/
def execLdt (h : Hdr) (ty : Ty) (m : Mem) (s : State) : Host.Outcome State Fault Refusal :=
  let a := opTok s.cur.a
  memFire s h (.ldt h ty m) m ty [a] .loadTracked (eaOf a.value m)

/-- LDL (R166, R177). -/
def execLdl (h : Hdr) (ty : Ty) (m : Mem) (s : State) : Host.Outcome State Fault Refusal :=
  let a := opTok s.cur.a
  memFire s h (.ldl h ty m) m ty [a] .load (eaOf a.value m)

/-- KVLD (R389). -/
def execKvld (h : Hdr) (ty : Ty) (m : Mem) (s : State) : Host.Outcome State Fault Refusal :=
  let a := opTok s.cur.a
  memFire s h (.kvld h ty m) m ty [a] .load a.value

/-- The operands of a store whose kinds decide: ERROR data is stored (R179, R181). -/
def storeOps (addr : List Tok) (d : Tok) : List Tok := if d.kind = .error then addr else addr ++ [d]

/-- ST (R179). -/
def execSt (h : Hdr) (ty : Ty) (m : Mem) (s : State) : Host.Outcome State Fault Refusal :=
  let a := opTok s.cur.a
  let b := opTok s.cur.b
  memFire s h (.st h ty m) m ty (storeOps [a] b) (.store (storeBytes ty b)) (eaOf a.value m)

/-- STX (R179): the index at b and the data at p. -/
def execStx (h : Hdr) (ty : Ty) (m : Mem) (s : State) : Host.Outcome State Fault Refusal :=
  let a := opTok s.cur.a
  let b := opTok s.cur.b
  let p := opTok s.cur.p
  memFire s h (.stx h ty m) m ty (storeOps [a, b] p) (.store (storeBytes ty p)) (eaIndexed a.value b.value m (accSize ty))

/-- STL (R166, R179). -/
def execStl (h : Hdr) (ty : Ty) (m : Mem) (s : State) : Host.Outcome State Fault Refusal :=
  let a := opTok s.cur.a
  let b := opTok s.cur.b
  memFire s h (.stl h ty m) m ty (storeOps [a] b) (.store (storeBytes ty b)) (eaOf a.value m)

/-- KVST (R389). -/
def execKvst (h : Hdr) (ty : Ty) (m : Mem) (s : State) : Host.Outcome State Fault Refusal :=
  let a := opTok s.cur.a
  let b := opTok s.cur.b
  memFire s h (.kvst h ty m) m ty (storeOps [a] b) (.store (storeBytes ty b)) a.value

/-- PREF (R182). -/
def execPref (h : Hdr) (m : Mem) (s : State) : Host.Outcome State Fault Refusal :=
  let a := opTok s.cur.a
  memFire s h (.pref h m) m .z8x8 [a] (.prefetch m.scope.val)
    (BitVec.ofNat 64 ((eaOf a.value m).toNat / 8 * 8))

/-! ## Atomics (R183, R186) -/

/-- An atomic with operands b and p (R183): an ordered one whose a is DATA and whose b or p is NULL or ERROR sends a
skip (R186). -/
def amoFire (s : State) (h : Hdr) (i : Instr) (m : Mem) (ty : Ty) (op : Nat) (b : Tok) (ops : List Tok) (p : Tok) :
    Host.Outcome State Fault Refusal :=
  let a := opTok s.cur.a
  match kindRule (b :: ops) with
  | some (k, v) =>
    if m.ord && decide (a.kind = .data) && !isStop k then memFire s h i m ty [a] (.skip k v) (eaOf a.value m)
    else memFire s h i m ty (a :: b :: ops) (.atomic op b.value p.value) (eaOf a.value m)
  | none => memFire s h i m ty [a] (.atomic op b.value p.value) (eaOf a.value m)

def execAmoadd (h : Hdr) (ty : Ty) (m : Mem) (s : State) : Host.Outcome State Fault Refusal :=
  amoFire s h (.amoadd h ty m) m ty 0 (opTok s.cur.b) [] nullTok
def execAmoand (h : Hdr) (ty : Ty) (m : Mem) (s : State) : Host.Outcome State Fault Refusal :=
  amoFire s h (.amoand h ty m) m ty 1 (opTok s.cur.b) [] nullTok
def execAmoor (h : Hdr) (ty : Ty) (m : Mem) (s : State) : Host.Outcome State Fault Refusal :=
  amoFire s h (.amoor h ty m) m ty 2 (opTok s.cur.b) [] nullTok
def execAmoxor (h : Hdr) (ty : Ty) (m : Mem) (s : State) : Host.Outcome State Fault Refusal :=
  amoFire s h (.amoxor h ty m) m ty 3 (opTok s.cur.b) [] nullTok
def execAmomin (h : Hdr) (ty : Ty) (m : Mem) (s : State) : Host.Outcome State Fault Refusal :=
  amoFire s h (.amomin h ty m) m ty 4 (opTok s.cur.b) [] nullTok
def execAmomax (h : Hdr) (ty : Ty) (m : Mem) (s : State) : Host.Outcome State Fault Refusal :=
  amoFire s h (.amomax h ty m) m ty 5 (opTok s.cur.b) [] nullTok
def execAmoswp (h : Hdr) (ty : Ty) (m : Mem) (s : State) : Host.Outcome State Fault Refusal :=
  amoFire s h (.amoswp h ty m) m ty 6 (opTok s.cur.b) [] nullTok
/-- AMOCAS (R183): the expected value at b, the new one at p. -/
def execAmocas (h : Hdr) (ty : Ty) (m : Mem) (s : State) : Host.Outcome State Fault Refusal :=
  amoFire s h (.amocas h ty m) m ty 7 (opTok s.cur.b) [opTok s.cur.p] (opTok s.cur.p)
/-- AMOFADD (R183): a DATA b with a NaN code in a lane is taken as ERROR. -/
def execAmofadd (h : Hdr) (ty : Ty) (m : Mem) (s : State) : Host.Outcome State Fault Refusal :=
  amoFire s h (.amofadd h ty m) m ty 8 (nanTok (anyNaN ty) (opTok s.cur.b)) [] nullTok

/-! ## FENCE, WAITA, WAKE -/

/-- The variant of a fence (R190): it orders as a release, as an acquire, or as both. -/
def fenceOp (m : Mem) : AccOp := .fence (decide (m.order ≠ Order.acq)) (decide (m.order ≠ Order.rel))

/-- FENCE (R189): the trigger is of any kind; NULL orders nothing; at scope 0 it emits at once. The kind of its token is
R46's. -/
def execFence (h : Hdr) (m : Mem) (s : State) : Host.Outcome State Fault Refusal :=
  let f := s.cur
  let a := opTok f.a
  let i : Instr := .fence h m
  let own := ownOf s f
  let r := liftCarry (R.start s) f
  let kv := (kindRule [a]).getD (.data, 0)
  let r1 := match predRule h.pm (opTok f.p) with
    | .silent => skipReport (dropLsid r f m.lsid.val) f i own
    | .emit k v => noAccess r f h i m k v
    | _ =>
      if kv.1 = Kind.null then noAccess r f h i m .null 0
      else if m.scope = 0 then
        skipReport (fireLsid (reply r f h kv.1 kv.2 false) f m.lsid.val) f i own
      else
        let q : Req := { Req.new r.s.nextId i (firingOf s) (reqSrcOf f) (fenceOp m) with
          scope := m.scope.val, acq := decide (m.order ≠ Order.rel), rel := decide (m.order ≠ Order.acq), lsid := m.lsid.val,
          own := own, translated := true, rk := kv.1, rv := kv.2 }
        addReq (fireLsid r f m.lsid.val) fun _ => q
  (r1.when (peFails s f) fun q => markFailed q f.core f.x f.y).done

/-- WAITA (R194): the expected value at b. -/
def execWaita (h : Hdr) (ty : Ty) (m : Mem) (s : State) : Host.Outcome State Fault Refusal :=
  let a := opTok s.cur.a
  let b := opTok s.cur.b
  memFire s h (.waita h ty m) m ty [a, b] (.waita b.value) (eaOf a.value m)

/-- WAKE (R194). -/
def execWake (h : Hdr) (m : Mem) (s : State) : Host.Outcome State Fault Refusal :=
  let a := opTok s.cur.a
  memFire s h (.wake h m) m .z64 [a] .wake (eaOf a.value m)

end Sys2Proof.Machine
end

