-- ==== Sys2Proof/Machine/Perform.lean ====
section
/-!
DEFINITION. What a request does at its home or its tile (R166, R172, R177 to R198, R315 to R317, R330, R363): the one operation
`performOp`, the events HOME_ACCESS, ACCESS_COMPLETION, WAITA_POLL, ORDERED_ATOMIC_ARRIVAL and ORDERED_ATOMIC_RETRY.
-/

set_option linter.unusedVariables false

namespace Sys2Proof.Machine

open Sys2Proof

variable {s0 : State}

/-! ## Atomics as functions of bytes (R183) -/

/-- Lane sums of AMOFADD with their flags; an undefined lane receives the canonical NaN. -/
def faddLanes (ty : Ty) (o b : Nat) : Nat × FFlags :=
  let l := List.zipWith (fun x y => roundTo (tyFmt ty) .rne false (addVal (decodeLane ty x) (decodeLane ty y)))
    (lanesOf ty (BitVec.ofNat 64 o)) (lanesOf ty (BitVec.ofNat 64 b))
  (packN (tyWidth ty) (l.map fun x => x.code.getD (canonNaN (tyFmt ty))), orFlags (l.map LaneRes.fl))

/-- The new value of an atomic and its flags: operations 0 to 8 in opcode order. -/
def atomicNew (op : Nat) (ty : Ty) (o : Nat) (b p : Word) : Nat × FFlags :=
  let w := 8 * accSize ty
  let x := b.toNat % 2 ^ w
  let lt (u v : Nat) : Bool := if tySigned ty then decide (sInt w u < sInt w v) else decide (u < v)
  match op with
  | 0 => ((o + x) % 2 ^ w, fNone)
  | 1 => (o &&& x, fNone)
  | 2 => (o ||| x, fNone)
  | 3 => (o ^^^ x, fNone)
  | 4 => (if lt x o then x else o, fNone)
  | 5 => (if lt o x then x else o, fNone)
  | 6 => (x, fNone)
  | 7 => (if o = x then p.toNat % 2 ^ w else o, fNone)
  | _ => if anyNaN ty (BitVec.ofNat 64 o) then (o, fNone) else faddLanes ty o x

/-! ## Held stores seen by later loads of their block (R170, R185) -/

/-- Memory as it reads behind some held accesses, in LSID order. -/
def heldView (l : List Req) (f : Nat → Byte) : Nat → Byte :=
  l.foldl (fun f h =>
    let new := match h.op with
      | .store b => b
      | .atomic op b p => bytesLE h.size (atomicNew op h.ty (ofBytesLE ((List.range h.size).map fun j => f (h.pa + j))) b p).1
      | _ => []
    fun a => if h.pa ≤ a ∧ a < h.pa + new.length then new.getD (a - h.pa) 0 else f a) f

/-- Insertion by LSID, for the order of held accesses. -/
def insertLsid (x : Req) : List Req → List Req
  | [] => [x]
  | y :: l => if x.lsid < y.lsid then x :: y :: l else y :: insertLsid x l

def sortLsid (l : List Req) : List Req := l.foldr insertLsid []

/-- Held accesses of the instance that a load sees. -/
def heldBelow (s : State) (q : Req) : List Req :=
  match q.firing.trestle with
  | none => []
  | some t => match instOf s q.firing.core t with
    | none => []
    | some i => sortLsid (i.held.filter fun h => decide (h.lsid < q.lsid) && decide (isLocal h.instr = isLocal q.instr))

/-- A load's bytes with the held stores of lower LSID over them. -/
def overHeld (s : State) (q : Req) (l : List Byte) : List Byte :=
  match heldBelow s q with
  | [] => l
  | hs =>
    let g := heldView hs fun a =>
      if q.pa ≤ a ∧ a < q.pa + l.length then l.getD (a - q.pa) 0
      else if isLocal q.instr then tabGet 0 (a % 2 ^ 16) ((s.core q.firing.core).tile (a / 2 ^ 16)).bytes else s.byte a
    (List.range l.length).map fun j => g (q.pa + j)

/-! ## Local tiles (R166) -/

def tileBytes (s : State) (core a n : Nat) : List Byte :=
  (List.range n).map fun j => tabGet 0 (a % 2 ^ 16 + j) ((s.core core).tile (a / 2 ^ 16)).bytes

def putTile (r : R s0) (core a : Nat) (l : List Byte) : R s0 :=
  updTile r core (a / 2 ^ 16) fun t =>
    { t with bytes := ((List.range l.length).zip l).foldl (fun m e => tabSet 0 (a % 2 ^ 16 + e.1) e.2 m) t.bytes }

/-! ## TRACK_MISMATCH (R363) -/

/-- A frame is registered with a region of its die. -/
def isRegistered (s : State) (pa : Nat) : Bool :=
  (s.die (homeDie pa)).regions.any fun g => decide (g.2.st ≠ .free) && g.2.frames.any fun x => x.2 = pa / 2 ^ 16

/-- A store through a leaf with T = 0 that lands in a registered frame. -/
def trackMismatch (r : R s0) (f : Firing) (leaf : Word) (va pa : Nat) : R s0 :=
  if leafT leaf || !isRegistered r.s pa then r
  else
    let r1 := updCtx r f.ctx fun c => { c with tm := true }
    if (r.s.ctx f.ctx).tmen then
      let r2 := reportFiring r1 f (recOf f .trackMismatch false (firingSrc f) 0 [va, pa])
      match f.trestle with
      | some t => updInst r2 f.core t fun i => { i with trapAfter := true }
      | none => r2
    else r1

/-! ## Performing -/

/-- The end of a performance. -/
inductive PRes where
  | done (k : Kind) (v v2 : Word) (carry poison : Bool)
  | sleep
deriving DecidableEq, Repr

/-- Level at which a load reads (R401, R407). -/
def reqLevel (s : State) (q : Req) : Level :=
  if (s.ctx q.firing.ctx).det then .home else levelOfAcq q.acq q.scope

/-- A sleeper that completes with a value of its word. -/
def waitaNow (s : State) (q : Req) : Kind × Word := readValue q.ty (s.bytes q.pa q.size)

/-- A barrier operation at its home (R316, R329): ERROR for a reserved bit. -/
def barrierOp (r : R s0) (q : Req) (op : Nat) (n : Int) : R s0 × PRes :=
  let b := barOf (r.s.bytes q.pa 16)
  if b.resv ≠ 0 ∨ (op ≠ 1 ∧ n < 0) then (r, .done .error (opTok q.firing.a).value (opTok q.firing.a).value false false)
  else
    let (b1, refused) := match op with
      | 0 => b.init n
      | 1 => b.add n
      | _ => (b.arrive n, false)
    let r1 := trackMismatch (homeWrite r (.core q.firing.core) q.leaf true q.pa b1.bytes) q.firing q.leaf q.va q.pa
    (r1, .done .data (b1.status refused) (b1.status refused) false false)

/-- A waiter wakes everything on its granule (R194): the registered ones now, the polling ones at their next read. -/
def wakeAll (r : R s0) (pa : Nat) : R s0 × Nat :=
  let isWaita (q : Req) : Bool := match q.op with | .waita _ => true | _ => false
  let ws := (r.s.homeSlice pa).waiters.filter fun w =>
    decide (w.pa / 8 = pa / 8) && (match getReq r.s w.id with | some q => isWaita q | none => false)
  let r1 := r.each ws fun z w => match getReq z.s w.id with
    | some q => wakeReq z q (waitaNow z.s q).2 q.acq
    | none => z
  (updReqs r1 fun l => l.map fun q =>
    if q.stage = .polling ∧ q.pa / 8 = pa / 8 ∧ isWaita q then { q with aux := 1 } else q, ws.length)

/-- What a request does at its home or tile. -/
def performOp (r : R s0) (q : Req) : R s0 × PRes :=
  let c := q.firing.core
  let bad := badBytes r.s q.pa q.size && !isLocal q.instr
  let lease := (r.s.ctx q.firing.ctx).lease.toNat
  match q.op with
  | .load | .loadTracked =>
    if isLocal q.instr then
      let (k, v) := readValue q.ty (overHeld r.s q (tileBytes r.s c q.pa q.size))
      (r, .done k v v false false)
    else
      let (r1, l) := coreLoad r c q.firing.ctx (reqLevel r.s q) q.acq q.pa q.size q.leaf
      let (k, v) := readValue q.ty (overHeld r1.s q l)
      (r1, .done k v v false bad)
  | .store l =>
    let r1 := if isLocal q.instr then putTile r c q.pa l
      else trackMismatch (homeWrite r (.core c) q.leaf true q.pa l) q.firing q.leaf q.va q.pa
    let v := BitVec.ofNat 64 q.va
    (r1, .done .data v v true false)
  | .prefetch scope =>
    let lv : Level := if (r.s.ctx q.firing.ctx).det then .home else if scope = 5 then .die else .any
    ((coreRead r c lv 0 lease q.pa (2 ^ 16 - 1) q.leaf).1, .done .data 0 0 false false)
  | .atomic op b p =>
    let old := r.s.bytes q.pa q.size
    let (new, fl) := atomicNew op q.ty (ofBytesLE old) b p
    let r1 := homeWrite r (.core c) q.leaf (!q.ordd) q.pa (bytesLE q.size new)
    let r2 := orFlagsOf (trackMismatch r1 q.firing q.leaf q.va q.pa) q.firing fl
    let (k, v) := readValue q.ty old
    (r2, .done k v v true bad)
  | .skip k v => (r, .done k v v false false)
  | .waita b =>
    let r1 := homeFill r q.pa
    let (k, v) := waitaNow r1.s q
    if ofBytesLE (r1.s.bytes q.pa q.size) = b.toNat % 2 ^ (8 * q.size) then
      (r1.when q.acq fun z => raiseOwner z (.core c) (z.s.line (q.pa / 128)).wts, .done k v v false bad)
    else (r1, .sleep)
  | .wake =>
    let (r1, n) := wakeAll r q.pa
    (r1, .done .data (BitVec.ofNat 64 n) (BitVec.ofNat 64 n) false false)
  | .barrier op n => barrierOp r q op n
  | .barwt p =>
    let b := barOf (r.s.bytes q.pa 16)
    if b.resv ≠ 0 then (r, .done .error (opTok q.firing.a).value (opTok q.firing.a).value false false)
    else match b.wait p with
      | some (v, a) => (r.when a fun z => acquireM z c, .done .data v v false false)
      | none => (r, .sleep)
  | .bartst =>
    let b := barOf (r.s.bytes q.pa 16)
    if b.resv ≠ 0 then (r, .done .error (opTok q.firing.a).value (opTok q.firing.a).value false false)
    else if (r.s.ctx q.firing.ctx).det && decide (b.state < 2) then (r, .sleep)
    else (r, .done .data (b.status false) (BitVec.ofInt 64 b.pending) false false)
  | _ => (r, .done .data 0 0 false false)

/-- Registers a sleeper with its slice's table, or sets it to poll (R194). -/
def sleepReq (r : R s0) (q : Req) : R s0 :=
  -- in deterministic mode BARTST waits as BARWT of the phase current at the home (R330)
  let op : AccOp := match q.op with | .bartst => .barwt (barOf (r.s.bytes q.pa 16)).phase | o => o
  if (r.s.homeSlice q.pa).waiters.length < 64 then
    updReq (updHome r q.pa fun h => { h with waiters := h.waiters ++ [⟨q.id, q.pa⟩] }) q.id fun x =>
      { x with stage := .sleeping, op := op }
  else updReq r q.id fun x => { x with stage := .polling, op := op, since := r.s.clk, aux := 0 }

/-- Performs a request and notes its result; an early atomic is counted now (R206). -/
def performReq (r : R s0) (q : Req) : R s0 :=
  match performOp r q with
  | (r1, .done k v v2 carry poison) =>
    let r2 := if isAtomic q.instr && !isHeldKind q.instr then countLsid r1 q.firing q.lsid else r1
    let r3 := if (isAtomic q.instr || poison) && q.firing.trestle.isNone then noteRetag r2 q.firing else r2
    updReq r3 q.id fun x =>
      { x with stage := .performed, rk := k, rv := v, rv2 := v2, carry := carry,
               firing := if poison then x.firing.poisoned else x.firing }
  | (r1, .sleep) => sleepReq r1 q

/-! ## Whether a home can perform it now -/

inductive HomeGate where
  | go | wait | recall | remote
  /-- the address lies in the management space (R509): PORT_ACCESS_ISSUE performs it -/
  | mgmt
deriving DecidableEq, Repr

/-- rts of a line as its home would take it (R403). -/
def homeRts (s : State) (pa : Nat) : Nat :=
  let l := s.line (pa / 128)
  if l.inL2 then l.rts else max (s.homeSlice pa).mts s.mgmt.tf

/-- The request changes memory. -/
def writesMem (q : Req) : Bool :=
  match q.op with
  | .store _ | .atomic .. | .barrier .. => true
  | _ => false

/-- A load that a copy of its core or die can serve (R399, R406). -/
def copyServes (s : State) (q : Req) : Bool :=
  match q.op with
  | .load | .loadTracked =>
    let p := ownerTick s (.core q.firing.core)
    let ok (l : List LineCopy) : Bool :=
      (findCopy l (q.pa / 128)).any fun c => readable s.mgmt.tf p (spanOf q.pa q.size) c
    leafCached q.leaf && decide (leafPolicy q.leaf ≠ 3) && decide (reqLevel s q = .any) && ok (s.core q.firing.core).l1
  | _ => false

/-- The tick that a request would be assigned at its home (R399, R400). -/
def reqTick (s : State) (q : Req) : Nat :=
  let p := ownerTick s (.core q.firing.core)
  if writesMem q then max p (homeRts s q.pa + 1) else max (homeRts s q.pa) (p + (s.ctx q.firing.ctx).lease.toNat)

/-- Slice that keeps a result (R432). -/
def resultSlice (g : Region) (j : Nat) : Nat :=
  (homeSlice (basePa g.frames (drecOf g.record).base / 128 * 128) + j) % 384

/-- A keystone unit holds 64 unapplied deltas of a home, which stalls stores to its registered lines (R438). -/
def derivedStall (s : State) (pa : Nat) : Bool :=
  let d := s.die (homeDie pa)
  let l := (d.deltas.filter fun x => x.home = homeSlice pa).map fun x => resultSlice (d.region x.region) x.res
  decide (64 ≤ l.length) && isRegistered s pa && l.any fun k => decide (64 ≤ l.count k)

/-- The management space (R509). -/
def mgmtBase : Nat := 0xFF00000000
def inMgmt (pa : Nat) : Bool := decide (mgmtBase ≤ pa ∧ pa < mgmtBase + 2 ^ 26)

/-- What stands between a request and its performance at the home (R354, R365, R404, R412, R490). -/
def homeGate (s : State) (q : Req) : HomeGate :=
  if isLocal q.instr || copyServes s q then .go
  else if isRemote s q.pa then .remote
  else if inMgmt q.pa then .mgmt
  else if frameWaits s q.pa then .wait
  else if writesMem q && derivedStall s q.pa then .wait
  else if hostOwned s q.pa q.size then .recall
  else if (s.ctx q.firing.ctx).det && accessMayPrecede s q.firing.ctx (firingStep s q.firing) q.firing.tag.unit.toNat then .wait
  else if tickRoom s (reqTick s q) then .go else .wait

/-- The port to a node (log 18): the lowest trained Muvin port whose peer it is, else the issuing die's lowest port. -/
def portTo (s : State) (core node : Nat) : Nat :=
  ((List.range 18).find? fun p =>
    let l := s.link p
    l.up && decide (l.cxlen = false ∧ l.peer.toNat = node)).getD (dieOfCore core)

/-- A request for which a host answers, or another module (R412, R490). -/
def sendAway (r : R s0) (q : Req) (g : HomeGate) : R s0 :=
  match g with
  | .recall =>
    updReq (recallHalves r q.pa q.size (writesMem q)) q.id fun x => { x with stage := .recalling, since := r.s.clk }
  | .remote =>
    let p := portTo r.s q.firing.core (q.pa / 2 ^ 40 % 2 ^ 11)
    updReq (sendFlit r p) q.id fun x => { x with stage := .remote p, since := r.s.clk }
  | _ => r

/-- An atomic, ordered or not, or a wait meets a frame that has come into host bias since its checks (R364, R365 step 2). -/
def biasRefused (s : State) (q : Req) : Bool :=
  (accKind q).2 && !isLocal q.instr && !isRemote s q.pa && (s.frame (q.pa / 2 ^ 16)).hostBias

/-- Its final fault. -/
def biasFault (r : R s0) (q : Req) : R s0 :=
  let ws := match walk r.s q.firing.ctx q.va with
    | .ok _ _ level entry => accWords q.va level (accKind q).1 entry
    | .fault .. => accWords q.va 7 (accKind q).1 0
  faultReq r q (hdrOfInstr q.instr) ⟨.biasConflict, true, ws⟩

/-- Performs a request if its home can; shared host spans end before a write (R412). -/
def atHome (r : R s0) (q : Req) : R s0 :=
  match homeGate r.s q with
  | .go => if biasRefused r.s q then biasFault r q else performReq (if writesMem q && !isLocal q.instr then recallHalves r q.pa q.size true else r) q
  | g => sendAway r q g

/-- Ordered atomics and their skips take their lane (R186). -/
def inLane (q : Req) : Bool :=
  match q.op with
  | .skip .. => true
  | .atomic .. => q.ordd
  | _ => false

/-- HOME_ACCESS (R198): an issued request, or one whose recall has ended, is performed at its home. -/
def execHomeAccess (id : Nat) (s : State) : Host.Outcome State Fault Refusal :=
  let r := R.start s
  (match getReq s id with
   | none => r
   | some q =>
     if inLane q then r
     else match q.stage with
       | .issued => atHome r q
       | .recalling => if hostOwned s q.pa q.size then r else atHome r q
       | _ => r).done

/-- ACCESS_COMPLETION (R175, R180, R184, R400): a performed request emits its tokens and ends. -/
def execAccessCompletion (id : Nat) (s : State) : Host.Outcome State Fault Refusal :=
  let r := R.start s
  (match getReq s id with
   | none => r
   | some q =>
     if q.stage = Stage.performed then
       reply2 (dropReq r id) q.firing (hdrOfInstr q.instr) q.rk q.rv q.rk q.rv2 q.carry
     else r).done

/-- WAITA_POLL (R194): a waiter without an entry reads its word again after 512 clk. -/
def execWaitaPoll (id : Nat) (s : State) : Host.Outcome State Fault Refusal :=
  let r := R.start s
  (match getReq s id with
   | none => r
   | some q =>
     if q.stage = Stage.polling ∧ q.since + 512 ≤ s.clk then
       if q.aux = 1 then wakeReq r q (waitaNow s q).2 q.acq
       else match waiterValue s q with
         | some (v, a) => wakeReq r q v a
         | none => updReq r id fun x => { x with since := s.clk }
     else r).done

/-! ## Ordering lanes (R186, R187) -/

def findLane (l : List Lane) (c g : Nat) : Lane := (l.find? fun x => decide (x.ctx = c ∧ x.granule = g)).getD ⟨c, g, 0, []⟩

/-- A lane with N = 0 and nothing buffered is not listed. -/
def setLane (l : List Lane) (x : Lane) : List Lane :=
  let rest := l.filter fun y => ¬(y.ctx = x.ctx ∧ y.granule = x.granule)
  if x.n = 0 ∧ x.buf = [] then rest else x :: rest

/-- Performs the buffered entries of a lane that have become due. -/
def drainLane (r : R s0) (pa c : Nat) : Nat → R s0
  | 0 => r
  | fuel + 1 =>
    let l := findLane (r.s.homeSlice pa).lanes c (pa / 8)
    match l.buf.find? fun e => e.1 = l.n with
    | none => r
    | some e =>
      let r1 := updHome r pa fun h => { h with lanes := setLane h.lanes { l with n := l.n + 1, buf := l.buf.filter (·.1 ≠ l.n) } }
      match getReq r1.s e.2 with
      | some q => drainLane (performReq r1 q) pa c fuel
      | none => drainLane r1 pa c fuel

/-- A number k is ahead of N. -/
def aheadOf (n k : BitVec 16) : Bool := let d := (k - n).toNat; decide (1 ≤ d ∧ d ≤ 32767)

/-- Whether an arrival may take a buffer entry of its slice (R187). -/
def mayBuffer (h : Slice) (l : Lane) (k : BitVec 16) : Bool :=
  let used := (h.lanes.map fun x => x.buf.length).foldl (· + ·) 0
  let others := (h.lanes.filter fun x => decide (x.buf ≠ []) && !decide (x.ctx = l.ctx ∧ x.granule = l.granule)).length
  if l.buf.isEmpty then decide (used + others + 2 ≤ 32)
  else if l.buf.all fun e => iterBefore k e.1 then decide (used + others + 1 ≤ 32)
  else decide (used + others + 2 ≤ 32)

/-- An ordered atomic or skip at its home. -/
def arriveLane (r : R s0) (q : Req) : R s0 :=
  let h := r.s.homeSlice q.pa
  let c := q.firing.ctx
  let l := findLane h.lanes c (q.pa / 8)
  let k := q.firing.tag.iter
  if k = l.n then
    let r1 := updHome r q.pa fun h => { h with lanes := setLane h.lanes { l with n := l.n + 1 } }
    drainLane (performReq r1 q) q.pa c 33
  else if aheadOf l.n k then
    if mayBuffer h l k then
      updReq (updHome r q.pa fun h => { h with lanes := setLane h.lanes { l with buf := l.buf ++ [(k, q.id)] } }) q.id fun x =>
        { x with stage := .laneWait }
    else updReq r q.id fun x =>
      { x with stage := .laneRefused, since := r.s.clk, aux := if x.aux = 0 then 16 else min 1024 (2 * x.aux) }
  else
    let r1 := updReq r q.id fun x => { x with stage := .laneRefused, since := r.s.clk, aux := 16, marks := [1] }
    if q.marks.isEmpty then
      reportFiring r1 q.firing (recOf q.firing .tagAlias false (recSrc q) 0
        [q.firing.x * 16 + q.firing.y, tagNat q.firing.tag, 0])
    else r1

/-- The lane is reached once nothing else makes the request wait. -/
def toLane (r : R s0) (q : Req) : R s0 :=
  match homeGate r.s q with
  | .go => if biasRefused r.s q then biasFault r q else arriveLane r q
  | g => sendAway r q g

/-- ORDERED_ATOMIC_ARRIVAL (R186). -/
def execOrderedAtomicArrival (id : Nat) (s : State) : Host.Outcome State Fault Refusal :=
  let r := R.start s
  (match getReq s id with
   | none => r
   | some q =>
     if inLane q = false then r
     else match q.stage with
       | .issued => toLane r q
       | .recalling => if hostOwned s q.pa q.size then r else toLane r q
       | _ => r).done

/-- ORDERED_ATOMIC_RETRY (R187): a refused ordered atomic tries again after its backoff. -/
def execOrderedAtomicRetry (id : Nat) (s : State) : Host.Outcome State Fault Refusal :=
  let r := R.start s
  (match getReq s id with
   | none => r
   | some q => if q.stage = Stage.laneRefused ∧ q.since + q.aux ≤ s.clk then toLane r q else r).done

end Sys2Proof.Machine
end

