-- ==== Sys2Proof/Machine/Order.lean ====
section
/-!
DEFINITION. The order in which a port, a front end or a walker tile lets accesses go: the chains of a configuration's unit
(R171, R286, R384), the LSIDs of a block (R170, R185, R190, R192), and PORT_REPORT.
-/

set_option linter.unusedVariables false

namespace Sys2Proof.Machine

open Sys2Proof

variable {s0 : State}

/-! ## Kinds of accesses in the order rules -/

/-- A PREF has no ordering effect (R182). -/
def isPref (q : Req) : Bool := match q.op with | .prefetch _ => true | _ => false
def isFence (q : Req) : Bool := match q.op with | .fence .. => true | _ => false
/-- Loads and atomics, which an acquire fence waits for (R190). -/
def isLoadLike (q : Req) : Bool := match q.op with | .store _ | .prefetch _ | .fence .. => false | _ => true
/-- Stores and atomics, which a release fence holds back (R190). -/
def isStoreLike (q : Req) : Bool := match q.op with | .store _ | .atomic .. | .barrier .. | .skip .. => true | _ => false

/-- An instruction that is examined anew each time its turn comes; only one on pages stands before a release (R374). -/
def isCtlOp (q : Req) : Bool := match q.op with | .ctl => true | _ => false

/-- Two accesses touch a common 8-byte granule. -/
def sameGranule (x y : Req) : Bool :=
  let meet (a b n m : Nat) : Bool := decide (a / 8 ≤ (b + m - 1) / 8 ∧ b / 8 ≤ (a + n - 1) / 8)
  !isFence x && !isFence y && !isCtlOp x && !isCtlOp y && decide (isLocal x.instr = isLocal y.instr) &&
    (meet x.va y.va x.size y.size || (x.translated && y.translated && meet x.pa y.pa x.size y.size))

/-- An earlier access `x` that is not performed holds back `y` (R286, R190, R192). -/
def holdsBack (x y : Req) : Bool :=
  if isPref x || isPref y || (isCtlOp x && !isPageOp x.instr) then false
  else
    sameGranule x y ||
    -- x is an acquire, or a fence that orders what follows it
    (if isFence x then (x.acq || (x.rel && isStoreLike y)) else x.acq) ||
    -- y is a release, or a fence that orders what stands before it
    (if isFence y then (y.rel || (y.acq && isLoadLike x)) else y.rel)

/-! ## Chains of a configuration's unit (R286) -/

/-- Whether a request and another belong to one unit on one core. -/
def sameUnit (x y : Req) : Bool :=
  decide (x.firing.core = y.firing.core ∧ x.firing.ctx = y.firing.ctx ∧ x.firing.tag.unit = y.firing.tag.unit)

/-- Program order of two numbered requests (R285): iteration, then own number. -/
def progBefore (x y : Req) : Bool :=
  iterBefore x.firing.tag.iter y.firing.tag.iter || decide (x.firing.tag.iter = y.firing.tag.iter ∧ x.own < y.own)

/-- A numbered request of a configuration may go. -/
def chainOk (s : State) (q : Req) : Bool :=
  q.reported && reportsDone s q &&
    !(s.reqs.any fun x => sameUnit x q && decide (x.own ≠ 0 ∧ x.stage ≠ .performed) && progBefore x q && holdsBack x q) &&
    !(s.reqs.any fun x => sameUnit x q && isPageOp x.instr && decide (x.id < q.id) && holdsBack x q)

/-- A request without a number, of a configuration or made at a commit: it keeps its order by arrival. -/
def plainOk (s : State) (q : Req) : Bool :=
  !(s.reqs.any fun x => sameUnit x q && decide (x.id < q.id ∧ x.stage ≠ .performed) && holdsBack x q)

/-! ## LSIDs of a block -/

def lsidState (i : Inst) (k : Nat) : LState := tabGet LState.init k i.lsids
/-- Store-mask bit k of a header (R107). -/
def storeMaskBit (i : Inst) (k : Nat) : Bool := i.h0.testBit (16 + k)

/-- LSIDs below k that instructions with a property carry. -/
def lsidsBelow (i : Inst) (k : Nat) (p : Instr → Bool) : List Nat :=
  ((instrsAt false 0 i.words).filterMap fun x => match memOfInstr x.2 with
    | some m => if p x.2 && decide (m.lsid.val < k) then some m.lsid.val else none
    | none => none).eraseDups

/-- An acquire that a block instruction would be (R192). -/
def acquires (i : Instr) : Bool :=
  match i with
  | .fence _ m => decide (m.scope ≠ 0 ∧ m.order ≠ .rel)
  | _ => match memOfInstr i with
    | some m => decide (m.order = .acq) && !isHeldKind i
    | none => false

/-- The instance waits for nothing but the requests that its front end holds back. -/
def instWaits (s : State) (core t : Nat) (i : Inst) : Bool :=
  let k := s.core core
  !(k.flights.any fun f => isBlockTok i.ctx i.unit f.ctx f.tok.tag) &&
    (k.pes.all fun p => !(p.2.ready.any fun f => f.trestle = some t) &&
      !(p.2.bufs.any fun b => isBlockTok i.ctx i.unit b.ctx b.tok.tag && !b.reported)) &&
    !(s.reqs.any fun q => decide (q.firing.core = core ∧ q.firing.trestle = some t) &&
        !(decide (q.stage = .blocked) && q.translated))

/-- Requests of one instance. -/
def ofInst (core t : Nat) (q : Req) : Bool := decide (q.firing.core = core ∧ q.firing.trestle = some t)

/-- A load of LSID k may fire (R170, R185, R190, R192): where R170 would let it go and a lower acquire may still fire, it
waits for that until nothing else of the instance moves. -/
def loadOk (s : State) (core t : Nat) (i : Inst) (q : Req) : Bool :=
  ((List.range q.lsid).all fun j => !storeMaskBit i j || (let l := lsidState i j; l.fired || l.nulled)) &&
    !(s.reqs.any fun x => ofInst core t x && decide (x.lsid < q.lsid ∧ x.stage ≠ .performed) &&
      (isAtomic x.instr || x.acq)) &&
    (((lsidsBelow i q.lsid acquires).all fun j =>
        let l := lsidState i j
        l.fired || l.nulled || !l.dropped.isEmpty) || instWaits s core t i)

/-- An early atomic or a fence may go (R185, R190), held accesses of lower LSID aside. -/
def earlyOk (s : State) (core t : Nat) (i : Inst) (q : Req) : Bool :=
  let need (j : Instr) : Bool :=
    if isFence q && !q.rel then isAtomic j || !isStore j else true
  ((lsidsBelow i q.lsid need).all fun j =>
      let l := lsidState i j
      l.fired || l.nulled || (isFence q && !l.dropped.isEmpty)) &&
    !(s.reqs.any fun x => ofInst core t x && decide (x.lsid < q.lsid ∧ x.stage ≠ .performed) && holdsBack x q) &&
    !(s.reqs.any fun x => sameUnit x q && decide (x.firing.trestle = none ∧ x.id < q.id ∧ x.stage ≠ .performed) && holdsBack x q)

/-- Held accesses that an early atomic or a fence releases (R185, R190), in LSID order. -/
def releasedBy (i : Inst) (q : Req) : List Req :=
  sortLsid (i.held.filter fun h => decide (h.lsid < q.lsid) && (!(isFence q && !q.rel) || isAtomic h.instr))

/-- Every held access of a list can be performed now, or its recall has been asked for. -/
def readyHeld (s : State) (l : List Req) : Bool :=
  l.all fun h => match homeGate s h with | .go | .remote | .mgmt => true | _ => false

/-- Asks for the host halves that held accesses need. -/
def recallHeld (r : R s0) (l : List Req) : R s0 :=
  r.each l fun z h => match homeGate z.s h with
    | .recall => recallHalves z h.pa h.size true
    | _ => z

/-- Performs a held access (R170, R208): with the translation it drew when it fired; at a remote home it becomes an
outstanding request. -/
def performHeld (r : R s0) (h : Req) : R s0 :=
  match homeGate r.s h with
  | .remote =>
    let f := { h.firing with trestle := none }
    let id := r.s.nextId
    let p := portTo r.s f.core (h.pa / 2 ^ 40 % 2 ^ 11)
    addReq (sendFlit r p) fun _ => { h with id := id, firing := f, stage := .remote p, since := r.s.clk }
  | .mgmt => addReq r fun id => { h with id := id, firing := { h.firing with trestle := none }, stage := .issued }
  | _ => (performOp (if isLocal h.instr then r else recallHalves r h.pa h.size true) h).1

/-- Performs the held accesses that an early access releases. -/
def releaseHeld (r : R s0) (core t : Nat) (l : List Req) : R s0 :=
  if l.isEmpty then r
  else
    let r1 := r.each l performHeld
    updInst r1 core t fun i => { i with held := i.held.filter (fun h => !l.contains h), early := true }

/-! ## Letting a request go -/

/-- A fence is performed where it stands (R189, R401). -/
def performFence (r : R s0) (q : Req) : R s0 :=
  let k := r.s.core q.firing.core
  let r1 := r.when (q.acq && decide (4 ≤ q.scope)) fun z => raiseOwner z (.core q.firing.core) k.rmax
  updReq r1 q.id fun x => { x with stage := .performed, rv2 := x.rv }

def goReq (r : R s0) (q : Req) : R s0 :=
  match q.op with
  | .fence .. => performFence r q
  | _ => updReq r q.id fun x => { x with stage := .issued }

/-- Lets a request go whose checks are done, if its order allows. -/
def orderReq (r : R s0) (q : Req) : R s0 :=
  match q.firing.trestle with
  | none => if (if q.own = 0 then plainOk r.s q else chainOk r.s q) then goReq r q else r
  | some t => match instOf r.s q.firing.core t with
    | none => r
    | some i =>
      if isFence q || isAtomic q.instr then
        if earlyOk r.s q.firing.core t i q then
          let l := releasedBy i q
          if readyHeld r.s l then goReq (releaseHeld r q.firing.core t l) q else recallHeld r l
        else r
      else if loadOk r.s q.firing.core t i q then goReq r q else r

/-! ## Reports (R286) -/

/-- The chain's oldest unresolved iteration moves past those whose reports have all arrived. -/
def advanceChain (n : Nat) : Nat → Chain → Chain
  | 0, k => k
  | fuel + 1, k =>
    if (List.range n).all fun j => k.reps.contains (k.oldest.toNat, j + 1) then
      advanceChain n fuel { k with oldest := k.oldest + 1, wraps := if k.oldest = 65535#16 then k.wraps + 1 else k.wraps,
                                   reps := k.reps.filter fun x => x.1 ≠ k.oldest.toNat }
    else k

/-- Numbered instructions of a unit's configuration. -/
def chainLength (k : Core) (c : Chain) : Nat :=
  match k.bindings.find? fun b => decide (b.cfg.ctx = c.ctx ∧ b.cfg.cfgid = c.cfgid) with
  | some b => ownCount b.cfg
  | none => 0

/-- A report of (iteration, own) enters the chain of its unit. -/
def addReport (r : R s0) (q : Req) : R s0 :=
  updCore r q.firing.core fun k =>
    { k with chains := k.chains.map fun c =>
        if c.ctx = q.firing.ctx ∧ c.unit = q.firing.tag.unit then
          advanceChain (chainLength k c) 65 { c with reps := (q.firing.tag.iter.toNat, q.own) :: c.reps }
        else c }

/-- PORT_REPORT (R286, R384): a numbered instruction's access or skip reports to the chains. A report of an iteration
that precedes the oldest raises TAG_ALIAS and is held; one 64 or more ahead waits. -/
def execPortReport (id : Nat) (s : State) : Host.Outcome State Fault Refusal :=
  let r := R.start s
  (match getReq s id with
   | none => r
   | some q =>
     if q.own = 0 ∨ q.reported = true ∨ ctxMoves s q.firing.ctx = false then r
     else match chainOf (s.core q.firing.core) q.firing.ctx q.firing.tag.unit with
       | none => updReq r id fun x => { x with reported := true }
       | some c =>
         let d := (q.firing.tag.iter - c.oldest).toNat
         if 2 ^ 15 ≤ d ∨ c.reps.contains (q.firing.tag.iter.toNat, q.own) then
           if q.marks.isEmpty then
             reportFiring (updReq r id fun x => { x with marks := [1] }) q.firing
               (recOf q.firing .tagAlias false (recSrc q) 0 [q.firing.x * 16 + q.firing.y, tagNat q.firing.tag, 0])
           else r
         else if 64 ≤ d then r
         else
           let r1 := addReport r q
           match q.op with
           | .report => dropReq r1 id
           | _ => updReq r1 id fun x => { x with reported := true }).done

end Sys2Proof.Machine
end

