-- ==== Sys2Proof/Machine/Block.lean ====
section
/-!
DEFINITION. Blocks and strands (R199 to R221): the checks of a block image (R106 to R108), the registers READ and WRITE, the five
exits at their firing, and the events TRESTLE_GRANT, BLOCK_MAP and WATCHDOG. Commit stands in Commit.lean.
-/

set_option linter.unusedVariables false

namespace Sys2Proof.Machine

open Sys2Proof

variable {s0 : State}

/-! ## Checks of a block image (R106, R107, R108) -/

/-- Every target of an instruction. -/
def allTargets (i : Instr) : List Target :=
  match i with
  | .fan3 h t2 => [h.t0, h.t1, t2]
  | .fan4 h t2 t3 => [h.t0, h.t1, t2, t3]
  | i => tgts2 (hdrOfInstr i)

/-- A failed check: cause, index (0xFFFF for the header) and the failing word. -/
structure BadWord where
  cause : Cause
  index : Nat
  word : Nat
deriving DecidableEq, Repr

/-- Step 1 (R107). -/
def headerBad (h0 h1 : Nat) : Option BadWord :=
  if h0 % 2 ^ 16 ≠ 0 ∨ field h0 53 49 ≠ 0 ∨ h1 % 2 = 1 then some ⟨.reservedField, 0xFFFF, h0⟩ else none

/-- Step 2: the words in index order, extension words excepted; with the instructions decoded. -/
def wordsBad (lvl : Nat) : Nat → List Nat → List (Nat × Instr) → Except BadWord (List (Nat × Instr))
  | _, [], acc => .ok acc.reverse
  | n, w :: l, acc =>
    match decode false lvl w (l.headD 0) with
    | .error c => .error ⟨c, n, w⟩
    | .ok i =>
      if isExtended (w / 2 ^ 56 % 2 ^ 8) then
        match l with
        | [] => .ok (((n, i) :: acc).reverse)
        | _ :: l2 => wordsBad lvl (n + 2) l2 ((n, i) :: acc)
      else wordsBad lvl (n + 1) l ((n, i) :: acc)

/-- Step 3: extension positions, targets and p targets, in index order. -/
def structureBad (words : List Nat) (l : List (Nat × Instr)) : Option BadWord :=
  (l.find? fun x =>
    let ext := isExtended (words.getD x.1 0 / 2 ^ 56 % 2 ^ 8)
    (ext && decide (words.length ≤ x.1 + 1)) ||
      (allTargets x.2).any fun t => match t with
        | none => false
        | some t => match l.find? fun y => y.1 = t.idx.val with
          | none => true
          | some y => decide (t.slot = .p) && !takesP y.2).map
    fun x => ⟨.blockFormat, x.1, words.getD x.1 0⟩

def storeLsid (i : Instr) : Option Nat :=
  if isStore i || isAtomic i then (memOfInstr i).map fun m => m.lsid.val else none

def writeReg (i : Instr) : Option Nat := match i with | .write _ g => some g.val | _ => none

/-- One mask bit against the body (R108): a word that carries `k` with the bit clear, or the bit set and no such word. -/
def maskBad (words : List Nat) (h : Nat) (l : List (Nat × Instr)) (f : Instr → Option Nat) (bit : Bool) (k : Nat) :
    Option BadWord :=
  match l.find? fun x => f x.2 = some k with
  | some x => if bit then none else some ⟨.blockFormat, x.1, words.getD x.1 0⟩
  | none => if bit then some ⟨.blockFormat, 0xFFFF, h⟩ else none

/-- Step 4: exits, store mask, write mask. -/
def masksBad (h0 h1 : Nat) (words : List Nat) (l : List (Nat × Instr)) : Option BadWord :=
  let n := l.countP fun x => isExit x.2
  if field h0 56 54 = 0 ∨ n ≠ field h0 56 54 then some ⟨.blockFormat, 0xFFFF, h0⟩
  else match (List.range 32).findSome? fun k => maskBad words h0 l storeLsid (h0.testBit (16 + k)) k with
    | some b => some b
    | none => (List.range 63).findSome? fun k => maskBad words h1 l writeReg (h1.testBit (k + 1)) (k + 1)

/-- The checks of a whole image at a privilege level. -/
def checkBlock (lvl h0 h1 : Nat) (words : List Nat) : Except BadWord (List (Nat × Instr)) :=
  match headerBad h0 h1 with
  | some b => .error b
  | none => match wordsBad lvl 0 words [] with
    | .error b => .error b
    | .ok l => match structureBad words l with
      | some b => .error b
      | none => match masksBad h0 h1 words l with
        | some b => .error b
        | none => .ok l

/-! ## READ and WRITE (R216, R217) -/

/-- The strand whose block a firing belongs to. -/
def strandOfFiring (s : State) (f : Firing) : Strand :=
  (strandOf (s.core f.core) f.ctx f.tag.unit).getD ⟨f.ctx, f.tag.unit, 0, 0, .running, Frame.init, none, 0, none, 0⟩

/-- READ (R216): the register as it stood when the block was mapped. -/
def readReg (s : State) (f : Firing) (g : Nat) : Kind × Word :=
  let fr := (strandOfFiring s f).frame
  if g = 0 then (.data, 0)
  else if fr.pres.getLsbD g = false then (.error, 0)
  else if fr.err.getLsbD g then (.error, tabGet 0 g fr.regs)
  else (.data, tabGet 0 g fr.regs)

def execRead (h : Hdr) (g : Fin 64) (s : State) : Host.Outcome State Fault Refusal :=
  let f := s.cur
  let (k, v) := readReg s f g.val
  fireRes s (ruled h (tgts2 h) f [] (resAll (tgts2 h) k v f.tag))

def updWreg (r : R s0) (f : Firing) (j : Nat) (g : WState → WState) : R s0 :=
  match f.trestle with
  | some t => updInst r f.core t fun i => { i with wregs := tabSet WState.init j (g (tabGet WState.init j i.wregs)) i.wregs }
  | none => r

/-- What a WRITE of a firing does (R206, R216): it is counted with a kind and value, nulls its register, or nothing. Under an ERROR
at p a NULL or a stop at a stands (R45). -/
def writeOf (h : Hdr) (f : Firing) : Option (Option (Kind × Word)) :=
  match predRule h.pm (opTok f.p) with
  | .silent => none
  | .emit .null _ => some none
  | .emit _ v => some (some (.data, v))
  | .fireErr v =>
    let a := opTok f.a
    if a.kind = .null then some none
    else some (some (if isStop a.kind then (.data, a.value) else (.error, v)))
  | .fire =>
    let a := opTok f.a
    if a.kind = .null then some none
    else some (some (if a.kind = .error then .error else .data, a.value))

/-- WRITE (R216): counted or nulled; a poisoned token is refused (R209). -/
def execWrite (h : Hdr) (g : Fin 64) (s : State) : Host.Outcome State Fault Refusal :=
  let f := firingOf s
  let r := liftCarry (R.start s) f
  let r1 := match writeOf h f with
    | none => r
    | some x =>
      if f.poison then refusePoison r f 1 0
      else match x with
        | none => updWreg r f g.val fun w => { w with nulled := true }
        | some (k, v) => updWreg r f g.val fun w => { w with counted := w.counted ++ [(f.idx, k, v)] }
  (r1.when (peFails s s.cur) fun q => markFailed q f.core f.x f.y).done

/-! ## Exits at their firing (R206, R218) -/

/-- A check of an operand at an exit's firing (R218). -/
def exitCheck (a align : Nat) : Option AccFault :=
  if 2 ^ 48 ≤ a then some ⟨.translation, true, accWords a 7 .rd 0⟩
  else if a % align ≠ 0 then some ⟨.alignment, true, accWords a 7 .rd 0⟩
  else none

/-- An exit at its firing: taken, nulled or void; its check first, and a poisoned token refused. -/
def exitFire (s : State) (h : Hdr) (ops : List Tok) (k : ExitKind) (chk : Option AccFault) :
    Host.Outcome State Fault Refusal :=
  let f := firingOf s
  let r := liftCarry (R.start s) f
  let upd (r : R s) (g : Inst → Inst) : R s := match f.trestle with | some t => updInst r f.core t g | none => r
  let null (r : R s) : R s := upd r fun i => { i with nulledExits := i.nulledExits + 1 }
  let void (r : R s) : R s := upd r fun i => { i with voidExits := i.voidExits + 1 }
  let r1 := match predRule h.pm (opTok f.p) with
    | .silent => r
    | .emit .null _ => null r
    | .emit _ _ => void r
    | .fireErr _ => void r
    | .fire => match kindRule ops with
      | some (.null, _) => null r
      | some _ => void r
      | none => match chk with
        | some e => takeFault r f (recOf f e.cause false 1 0 e.words) id
        | none =>
          if f.poison then refusePoison r f 1 0
          else upd r fun i => { i with exits := i.exits ++ [(f.idx, k)] }
  (r1.when (peFails s s.cur) fun q => markFailed q f.core f.x f.y).done

/-- BRO (R218). -/
def execBro (h : Hdr) (off : BitVec 28) (s : State) : Host.Outcome State Fault Refusal := exitFire s h [] (.bro off) none

/-- BRI (R218): the header address at a. -/
def execBri (h : Hdr) (s : State) : Host.Outcome State Fault Refusal :=
  let a := opTok s.cur.a
  exitFire s h [a] (.bri a.value) (exitCheck a.value.toNat 16)

/-- CALL (R218): the new frame's address at a. -/
def execCall (h : Hdr) (off : BitVec 28) (s : State) : Host.Outcome State Fault Refusal :=
  let a := opTok s.cur.a
  exitFire s h [a] (.call off a.value) (exitCheck a.value.toNat 64)

/-- RET (R218): the copy-back mask at a. -/
def execRet (h : Hdr) (s : State) : Host.Outcome State Fault Refusal :=
  let a := opTok s.cur.a
  exitFire s h [a] (.ret a.value) none

/-- HALT (R218). -/
def execHalt (h : Hdr) (s : State) : Host.Outcome State Fault Refusal := exitFire s h [] .halt none

/-! ## TRESTLE_GRANT (R203) -/

/-- Strands that wait for a trestle. -/
def readyStrands (s : State) (core : Nat) : List Strand :=
  (s.core core).strands.filter fun x => decide (x.st = .ready) && ctxMoves s x.ctx

/-- The strand whose turn it is: the first to become ready, or in deterministic mode the lowest unit (R203). -/
def grantTurn (s : State) (core : Nat) (x : Strand) : Bool :=
  let l := readyStrands s core
  if (s.ctx x.ctx).det then !(l.any fun y => decide (y.ctx = x.ctx ∧ y.unit.toNat < x.unit.toNat))
  else l.head? = some x

/-- TRESTLE_GRANT: a free trestle, or the one that keeps its block, goes to the strand whose turn it is. -/
def execTrestleGrant (core c unit t : Nat) (s : State) : Host.Outcome State Fault Refusal :=
  let r := R.start s
  let u := BitVec.ofNat 13 unit
  (match strandOf (s.core core) c u with
   | none => r
   | some x =>
     if t < 16 ∧ (readyStrands s core).contains x ∧ grantTurn s core x then
       match x.kept with
       | some k => if k = t then updStrand r core c u fun y => { y with st := .fetching } else r
       | none =>
         if (s.core core).trestle t = Trestle.free then
           updStrand (updTrestle r core t fun _ => .fetching c u) core c u fun y => { y with st := .fetching }
         else r
     else r).done

/-! ## BLOCK_MAP (R202, R204, R205) -/

/-- A firing that stands for a trestle's fetch or commit. -/
def frontFiring (core t c : Nat) (u : BitVec 13) : Firing := ⟨core, 0, 0, c, some t, ⟨7, u, 0⟩, 0xFFFF, [], [], []⟩

/-- A restartable fault of a front end: the request is held under its trestle (R202, R208). -/
def holdFront (r : R s0) (f : Firing) (t : Nat) (i : Instr) (e : AccFault) : R s0 :=
  let q := { Req.new r.s.nextId i f (.front t) .ctl with stage := .held }
  holdReq (addReq r fun _ => q) q e

/-- The held request of a front end for some event. -/
def frontHeld (s : State) (core t : Nat) : Bool :=
  s.reqs.any fun q => decide (q.firing.core = core ∧ q.src = .front t ∧ q.stage = .held)

/-- A fetch that fails: the strand traps with its record, and the trestle is free (R202). -/
def trapFetch (r : R s0) (core t c : Nat) (u : BitVec 13) (x : Rec) : R s0 :=
  let step := unitStep r.s core c u
  report (trapStrand (updTrestle r core t fun _ => .free) core c u) c x u.toNat step x.index

/-- Fetch access: X and the privilege (R202, R360). -/
def fetchPart (r : R s0) (core c ea : Nat) : GotR s0 (Nat × List Byte) :=
  if 2 ^ 48 ≤ ea then (r, .fault ⟨.translation, false, accWords ea 7 .fetch 0⟩)
  else
    let (r1, x) := checkAccess r core c ea 1 .fetch false
    GotR.then (r1, x.got) fun q p => (physRead q p.1 8).map fun l => (p.1, l)

/-- Reads `n` 8-byte words of an image. -/
def fetchWords (r : R s0) (core c : Nat) : Nat → Nat → GotR s0 (List (Nat × Nat))
  | 0, _ => (r, .val [])
  | n + 1, ea => (fetchPart r core c ea).then fun q p =>
      (fetchWords q core c n (ea + 8)).map fun l => (p.1, ofBytesLE p.2) :: l

/-- Takes a frame with its translation (R201): every part at its physical base. -/
def takeParts (r : R s0) (core c : Nat) : Nat → Nat → GotR s0 (List Nat)
  | 0, _ => (r, .val [])
  | n + 1, ea =>
    if 2 ^ 48 ≤ ea then (r, .fault ⟨.translation, false, accWords ea 7 .rw 0⟩)
    else
      let (r1, x) := checkAccess r core c ea 1 .rw false
      GotR.then (r1, x.got) fun q p => (physRead q p.1 64).then fun z _ =>
        (takeParts z core c n (ea + 64)).map fun l => p.1 :: l

/-- A new instance of an image. -/
def newInst (c : Nat) (u : BitVec 13) (hdr h0 h1 : Nat) (words imgPa : List Nat) (replayed : Bool) : Inst :=
  { ctx := c, unit := u, hdr := hdr, h0 := h0, h1 := h1, words := words, imgPa := imgPa, mapped := true, lsids := [],
    wregs := [], exits := [], nulledExits := 0, voidExits := 0, held := [], acts := [], flags := 0, count := 0,
    replayed := replayed, early := false, trapAfter := false }

/-- Maps an instance: the instructions without a required operand become ready (R205). -/
def mapInst (r : R s0) (core t : Nat) (i : Inst) (l : List (Nat × Instr)) : R s0 :=
  let r1 := updTrestle r core t fun _ => .busy i
  let r2 := updStrand r1 core i.ctx i.unit fun x => { x with st := .running, kept := none }
  r2.each (l.filter fun x => (required x.2).isEmpty) fun q x =>
    let (a, b) := trestlePe t (x.1 / 32)
    updPe q core a b fun p => { p with ready := p.ready ++ [⟨core, a, b, i.ctx, some t, ⟨7, i.unit, 0⟩, x.1, [], [], []⟩] }

/-- The kept copy still equals the image in memory (R109, R204). -/
def keptSame (s : State) (i : Inst) : Bool :=
  (i.imgPa.map fun pa => s.nat pa 8) = i.h0 :: i.h1 :: i.words

/-- Ends a use of a front end's fetch: fault, wait, or the value. -/
def fetchEnd {α : Type} (x : GotR s0 α) (core t : Nat) (st : Strand) (f : R s0 → α → R s0) : R s0 :=
  match x with
  | (r, .val v) => f r v
  | (r, .wait) => r
  | (r, .fault e) =>
    let fr := frontFiring core t st.ctx st.unit
    if e.final then trapFetch r core t st.ctx st.unit (recOf fr e.cause false 1 0 e.words)
    else holdFront r fr t (.blockMap core t) e

/-- Fetches, validates and maps the block at a strand's block pointer. -/
def fetchBlock (r : R s0) (core t : Nat) (x : Strand) : R s0 :=
  let c := x.ctx
  let bp := x.bp.toNat
  let bad (r : R s0) (b : BadWord) : R s0 :=
    trapFetch r core t c x.unit (recOf { frontFiring core t c x.unit with idx := b.index } b.cause false 1 0 [bp, b.word])
  if bp % 16 ≠ 0 then
    trapFetch r core t c x.unit (recOf (frontFiring core t c x.unit) .alignment false 1 0 (accWords bp 7 .fetch 0))
  else fetchEnd (fetchWords r core c 2 bp) core t x fun r1 hs =>
    let h0 := (hs.getD 0 (0, 0)).2
    let h1 := (hs.getD 1 (0, 0)).2
    fetchEnd (fetchWords r1 core c (field h0 63 57 + 1) (bp + 16)) core t x fun r2 ws =>
      let words := ws.map Prod.snd
      match checkBlock (privCode (r2.s.ctx c).priv) h0 h1 words with
      | .error b => bad r2 b
      | .ok l =>
        let i := newInst c x.unit bp h0 h1 words ((hs ++ ws).map Prod.fst) (x.rerun = 2)
        match x.frPa with
        | some _ => mapInst r2 core t i l
        | none => fetchEnd (takeParts r2 core c 9 x.fp.toNat) core t x fun r3 parts =>
            mapInst (updStrand r3 core c x.unit fun y => { y with frPa := some parts, frame := frameFrom r3.s parts }) core t i l

/-- BLOCK_MAP (R202): the block of the strand that a trestle was granted to is fetched, validated and mapped, or its kept
copy is mapped again. -/
def execBlockMap (core t : Nat) (s : State) : Host.Outcome State Fault Refusal :=
  let r := R.start s
  (if frontHeld s core t then r
   else match (s.core core).trestle t with
    | .free => r
    | .fetching c u => (match strandOf (s.core core) c u with
      | some x => if x.st = .fetching ∧ ctxMoves s c then fetchBlock r core t x else r
      | none => r)
    | .busy i =>
      if i.mapped then r
      else match strandOf (s.core core) i.ctx i.unit with
        | none => r
        | some x =>
          if x.st ≠ .fetching ∨ ctxMoves s i.ctx = false then r
          else if keptSame s i then
            mapInst r core t (newInst i.ctx i.unit i.hdr i.h0 i.h1 i.words i.imgPa false) (instrsAt false 0 i.words)
          else
            let r1 := updStrand r core i.ctx i.unit fun y => { y with kept := none }
            fetchBlock (updTrestle r1 core t fun _ => .fetching i.ctx i.unit) core t x).done

/-! ## Settlement and the watchdog (R206, R207, R210) -/

/-- A block instance is settled (R207). -/
def settled (s : State) (core t : Nat) (i : Inst) : Bool :=
  let k := s.core core
  i.mapped && !(k.flights.any fun f => isBlockTok i.ctx i.unit f.ctx f.tok.tag) &&
    (k.pes.all fun p => !(p.2.ready.any fun f => f.trestle = some t) &&
      !(p.2.bufs.any fun b => isBlockTok i.ctx i.unit b.ctx b.tok.tag) &&
      !(p.2.breaks.any fun b => b.firing.trestle = some t)) &&
    !((k.matrix.cmds ++ k.matrix.run.toList ++ k.matrix.load.toList).any fun m => m.firing.trestle = some t) &&
    !(s.reqs.any (ofInst core t))

/-- LSIDs of the store mask that are pending, and registers of the write mask that are (R206). -/
def pendingLsids (i : Inst) : List Nat :=
  (List.range 32).filter fun k => storeMaskBit i k && (let l := lsidState i k; l.counted.isEmpty && !l.nulled)
def pendingRegs (i : Inst) : List Nat :=
  (List.range 64).filter fun j => i.h1.testBit j && (let w := tabGet WState.init j i.wregs; w.counted.isEmpty && !w.nulled)

def maskOf (l : List Nat) : Nat := l.foldl (fun m k => m + 2 ^ k) 0

/-- A record of BLOCK_HANG, or of BLOCK_FORMAT at settlement (R210, R468). -/
def hangRec (core t : Nat) (i : Inst) (cause : Cause) (index : Nat) : Rec :=
  recOf { frontFiring core t i.ctx i.unit with idx := index } cause false 1 0
    [i.hdr, maskOf (pendingLsids i) + t * 2 ^ 32 + min 7 i.exits.length * 2 ^ 40 + min 7 i.nulledExits * 2 ^ 44 +
      min 7 i.voidExits * 2 ^ 48, maskOf (pendingRegs i)]

/-- The second-lowest of some indices. -/
def secondLowest (l : List Nat) : Nat :=
  ((List.range 128).flatMap fun n => List.replicate (l.count n) n).getD 1 0

/-- The first duplicate of an instance (R207): the index its record names. -/
def duplicateOf (i : Inst) : Option Nat :=
  if 1 < i.exits.length then some (secondLowest (i.exits.map Prod.fst))
  else match (List.range 32).find? fun k => decide (1 < (lsidState i k).counted.length) with
    | some k => some (secondLowest (lsidState i k).counted)
    | none => ((List.range 64).find? fun j => decide (1 < (tabGet WState.init j i.wregs).counted.length)).map fun j =>
        secondLowest ((tabGet WState.init j i.wregs).counted.map Prod.fst)

/-- The instance is ready to commit (R207). -/
def commitDue (i : Inst) : Bool :=
  (duplicateOf i).isNone && decide (i.exits.length = 1) && (pendingLsids i).isEmpty && (pendingRegs i).isEmpty

/-- WATCHDOG (R210): an instance whose count has reached its context's limit is discarded with BLOCK_HANG, unless it
settles ready to commit (R214). -/
def execWatchdog (core t : Nat) (s : State) : Host.Outcome State Fault Refusal :=
  let r := R.start s
  (match instOf s core t with
   | none => r
   | some i =>
     if i.mapped = false ∨ ctxMoves s i.ctx = false ∨ i.count < (s.ctx i.ctx).wdog.toNat ∨ (settled s core t i && commitDue i) then r
     else discard r core t (hangRec core t i .blockHang 0xFFFF)).done

end Sys2Proof.Machine
end

