-- ==== Sys2Proof/Machine/Sha.lean ====
section
/-!
DEFINITION. SHA-512, which R258 and R508 name without defining it: the function of FIPS 180-4 (log 4). Its constants are the
fractional parts of square and cube roots of primes, computed here from that definition.
-/

namespace Sys2Proof.Machine

open Sys2Proof

/-- Trial division. -/
def isPrime (n : Nat) : Bool := decide (2 ≤ n) && (List.range n).all fun d => decide (d < 2) || decide (n % d ≠ 0)

def shaPrimes : List Nat := (List.range 410).filter isPrime

/-- The greatest r below 2^(k+1) built on `acc` with r³ ≤ n. -/
def icbrtGo (n : Nat) : Nat → Nat → Nat
  | 0, acc => if (acc + 1) ^ 3 ≤ n then acc + 1 else acc
  | k + 1, acc => icbrtGo n k (if (acc + 2 ^ (k + 1)) ^ 3 ≤ n then acc + 2 ^ (k + 1) else acc)

/-- First 64 bits of the fractional part of a cube root. -/
def cbrtFrac (p : Nat) : BitVec 64 := BitVec.ofNat 64 (icbrtGo (p * 2 ^ 192) 67 0)
/-- First 64 bits of the fractional part of a square root. -/
def sqrtFrac (p : Nat) : BitVec 64 := BitVec.ofNat 64 (isqrt (p * 2 ^ 128))

def shaK : List (BitVec 64) := shaPrimes.map cbrtFrac
def shaInit : List (BitVec 64) := (shaPrimes.take 8).map sqrtFrac

/-- A big-endian number. -/
def ofBytesBE (l : List Byte) : Nat := ofBytesLE l.reverse
def bytesBE (n x : Nat) : List Byte := (bytesLE n x).reverse

/-- The message with its padding. -/
def shaPad (l : List Byte) : List Byte :=
  let z := (128 - (l.length + 17) % 128) % 128
  l ++ 0x80 :: List.replicate z 0 ++ bytesBE 16 (8 * l.length)

def rotr (x : BitVec 64) (n : Nat) : BitVec 64 := x.rotateRight n

/-- The message schedule, newest word first. -/
def shaSchedule : Nat → List (BitVec 64) → List (BitVec 64)
  | 0, w => w
  | k + 1, w =>
    let g (i : Nat) : BitVec 64 := w.getD i 0
    let s1 := rotr (g 1) 19 ^^^ rotr (g 1) 61 ^^^ (g 1 >>> 6)
    let s0 := rotr (g 14) 1 ^^^ rotr (g 14) 8 ^^^ (g 14 >>> 7)
    shaSchedule k ((s1 + g 6 + s0 + g 15) :: w)

/-- One round. -/
def shaRound (v : List (BitVec 64)) (kw : BitVec 64) : List (BitVec 64) :=
  let g (i : Nat) : BitVec 64 := v.getD i 0
  let e := g 4
  let t1 := g 7 + (rotr e 14 ^^^ rotr e 18 ^^^ rotr e 41) + ((e &&& g 5) ^^^ (~~~ e &&& g 6)) + kw
  let a := g 0
  let t2 := (rotr a 28 ^^^ rotr a 34 ^^^ rotr a 39) + ((a &&& g 1) ^^^ (a &&& g 2) ^^^ (g 1 &&& g 2))
  [t1 + t2, a, g 1, g 2, g 3 + t1, e, g 5, g 6]

/-- One block of 128 bytes. -/
def shaBlock (h : List (BitVec 64)) (l : List Byte) : List (BitVec 64) :=
  let w0 := (List.range 16).map fun i => BitVec.ofNat 64 (ofBytesBE ((l.drop (8 * i)).take 8))
  let w := (shaSchedule 64 w0.reverse).reverse
  List.zipWith (· + ·) h ((List.zipWith (· + ·) shaK w).foldl shaRound h)

def shaBlocks : Nat → List (BitVec 64) → List Byte → List (BitVec 64)
  | 0, h, _ => h
  | k + 1, h, l => shaBlocks k (shaBlock h (l.take 128)) (l.drop 128)

/-- SHA-512. -/
def sha512 (l : List Byte) : List Byte :=
  let m := shaPad l
  (shaBlocks (m.length / 128) shaInit m).flatMap fun x => bytesBE 8 x.toNat

end Sys2Proof.Machine
end

