-- ==== Sys2Proof/Machine/Streams.lean ====
section
/-!
DEFINITION. Streams, merge nodes, FIFOs and format islands (R267, R268, R283 to R302): opening a stream, its elements, output
tokens, the instructions SOPEN, SCLOSE, SPOS, MRG, MRGCFG and CRD, and the events STREAM_ELEMENT, OUTPUT_STREAM_TOKEN,
MERGE_INPUT, MERGE_NODE_DECISION, FIFO_ACCEPT, FIFO_EMIT and FORMAT_ISLAND.
-/

set_option linter.unusedVariables false

namespace Sys2Proof.Machine

open Sys2Proof

variable {s0 : State}

/-! ## The nest of a stream (R289, R290) -/

def Stream.count (t : Stream) (j : Nat) : Nat := t.counts.getD j 0

/-- Elements of a level-j run. -/
def Stream.runSize (t : Stream) (j : Nat) : Nat := (List.range (j + 1)).foldl (fun p i => p * t.count i) 1

/-- The highest level whose runs hold nothing. -/
def Stream.emptyLevel (t : Stream) : Option Nat := (List.range (t.levels + 1)).reverse.find? fun j => t.count j = 0

/-- Increments the index of level k, carrying into the levels above; gives the level at which the carry ends. -/
def Stream.bump (t : Stream) : Nat → Nat → List Nat → List Nat × Nat
  | 0, k, pos => (pos, k)
  | fuel + 1, k, pos =>
    if t.levels < k then (pos, k)
    else if pos.getD k 0 + 1 < t.count k then (pos.set k (pos.getD k 0 + 1), k)
    else t.bump fuel (k + 1) (pos.set k 0)

/-- What a stream emits next: the element at its indices, or a stop of a level. -/
inductive Item where
  | elem
  | stop (l : Nat)
deriving DecidableEq, Repr

def Stream.nextItem (t : Stream) : Item :=
  match t.owed with
  | some l => .stop l
  | none => match t.emptyLevel with
    | some z => .stop ((t.bump 5 (z + 1) t.pos).2 - 1)
    | none => .elem

/-- The stream after its next item. -/
def Stream.advance (t : Stream) : Stream :=
  match t.owed with
  | some _ => { t with owed := none, emitted := t.emitted + 1 }
  | none => match t.emptyLevel with
    | some z => { t with pos := (t.bump 5 (z + 1) t.pos).1, emitted := t.emitted + 1 }
    | none =>
      let (p, k) := t.bump 5 0 t.pos
      { t with pos := p, owed := if k = 0 then none else some (k - 1), done := t.done + 1, emitted := t.emitted + 1 }

/-- The stream as it opens. -/
def Stream.restart (t : Stream) : Stream := { t with pos := [0, 0, 0, 0], owed := none, done := 0, emitted := 0 }

/-- The stream with its m-th token next, for a replay (R478). -/
def Stream.at (t : Stream) (m : Nat) : Stream := (List.range m).foldl (fun x _ => x.advance) t.restart

/-- Linear index of the element at the indices (R289). -/
def Stream.linear (t : Stream) : Nat :=
  t.pos.getD 0 0 + t.count 0 * (t.pos.getD 1 0 + t.count 1 * (t.pos.getD 2 0 + t.count 2 * t.pos.getD 3 0))

/-- Bytes of one element: of its burst frame for E2M1 (R87). -/
def Stream.esize (t : Stream) : Nat := if t.ty = .e2m1x16 then 2 + t.burst / 2 else accSize t.ty

/-- Address of the element at the indices, and of coordinate or index number n. -/
def Stream.addr (t : Stream) : Nat :=
  wrapInt 64 (t.base + t.k * t.ustride +
    ((List.range 4).map fun j => (t.pos.getD j 0 : Int) * t.strides.getD j 0).foldl (· + ·) 0)
def Stream.gatherAddr (t : Stream) (idx : Nat) : Nat :=
  wrapInt 64 (t.base + t.k * t.ustride + (idx : Int) * t.strides.getD 0 0)
def Stream.caddr (t : Stream) (n : Nat) : Nat := wrapInt 64 (t.cbase + t.k * t.custride + 4 * n)

/-- The tag of the next token. -/
def Stream.tag (t : Stream) : Tag := ⟨BitVec.ofNat 3 t.slot, t.unit, t.ibase + BitVec.ofNat 16 t.emitted⟩

/-- A context that holds a stream. -/
def Stream.live (t : Stream) : Bool := decide (t.st = .running) || decide (t.st = .held)

/-! ## Opening (R287, R288) -/

/-- A route's slot field is zero unless the route leads to a PE (R111). -/
def routeSlotBad (re : Nat) : Bool := decide (re / 2 ^ 30 % 4 ≠ 0 ∧ re / 2 ^ 9 % 4 ≠ 0)

/-- The stream that a descriptor's bytes describe, for unit number u with linear index k. -/
def streamOf (l : List Byte) (c : Nat) (u : BitVec 13) (k : Nat) : Stream :=
  let n (i w : Nat) : Nat := fieldLE l i w
  let ctl := n 40 8
  { Stream.init with
    st := .running, ctx := c, unit := u, k := k, base := n 0 8, counts := (List.range 4).map fun j => n (8 + 4 * j) 4,
    strides := (List.range 4).map fun j => sInt 32 (n (24 + 4 * j) 4), ibase := BitVec.ofNat 16 (field ctl 63 48),
    ty := tyOf (field ctl 47 44), slot := field ctl 43 41, output := field ctl 40 40 = 1, levels := field ctl 39 38,
    mode := field ctl 37 36, window := field ctl 35 28,
    burst := (match field ctl 25 24 with | 0 => 0 | 1 => 16 | 2 => 32 | _ => 64), route := n 48 4, croute := n 52 4,
    cbase := n 56 8, ustride := sInt 64 (n 64 8), custride := sInt 64 (n 72 8), pos := [0, 0, 0, 0] }

/-- The second list of opening checks. -/
def descBad (l : List Byte) (t : Stream) : Bool :=
  let n (i w : Nat) : Nat := fieldLE l i w
  let ctl := n 40 8
  let above := (List.range 4).any fun j => decide (t.levels < j) && decide (t.count j ≠ 0 ∨ t.strides.getD j 0 ≠ 0)
  decide (field ctl 27 26 ≠ 0 ∨ field ctl 23 0 ≠ 0) || (l.drop 80).any (fun b => b ≠ 0) || above ||
    (t.output && decide (t.route ≠ 0 ∨ t.croute ≠ 0)) || (decide (t.mode ≠ 2) && decide (t.croute ≠ 0)) ||
    decide (t.slot = 7) || decide (t.mode = 3) || (decide (t.mode = 1) && t.output) ||
    decide ((t.ty = .e2m1x16) ≠ (t.burst ≠ 0)) || (t.output && decide (t.window ≠ 0)) ||
    routeSlotBad t.route || routeSlotBad t.croute

/-- Opens a stream: its descriptor is read, then checked in the order of R288. -/
def openStream (r : R s0) (core c : Nat) (u : BitVec 13) (k va : Nat) : GotR s0 Stream :=
  (vRead r core c va 128 128).then fun q l =>
    let t := streamOf l c u k
    let align := if t.ty = .e2m1x16 then 2 else accSize t.ty
    if t.base % align ≠ 0 then (q, .fault ⟨.alignment, true, accWords t.base 7 .rd 0⟩)
    else if descBad l t then (q, .fault ⟨.reservedField, true, [va, fieldLE l 40 8]⟩)
    else (q, .val { t with window := if t.output = false ∧ t.window = 0 then 32 else t.window })

/-- The linear index of a live unit (R232); 0 where the unit is unknown. -/
def unitIndex (s : State) (core c : Nat) (u : BitVec 13) : Nat :=
  ((s.works.find? fun w => decide (w.ctx = c ∧ w.num = u ∧ w.core = core ∧ w.st = .live)).map Work.k).getD 0

/-! ## Tokens of tiles -/

/-- Sends a token along a route held by a tile (R111); the place of emission tells its routes apart. -/
def sendRoute (r : R s0) (core c : Nat) (src : Dest) (re : Nat) (t : Tok) : R s0 :=
  let (d, i) := routeDest re
  updCore r core fun k =>
    { k with flights := k.flights ++ [⟨{ t with slot := routeSlot re, idx := i }, c, src, d⟩] }

/-- Place of emission of a stream's channel. -/
def streamSrc (p sc ch : Nat) : Dest := .port (16 + 8 * p + 2 * sc + ch)

def sendStream (r : R s0) (core p sc : Nat) (t : Stream) (ch : Nat) (k : Kind) (v : Word) (poison : Bool) : R s0 :=
  sendRoute r core t.ctx (streamSrc p sc ch) (if ch = 0 then t.route else t.croute) ⟨k, .consume, poison, false, .a, 0, t.tag, v⟩

/-- A stop, on both channels in coordinate mode. -/
def sendStop (r : R s0) (core p sc : Nat) (t : Stream) (l v : Nat) : R s0 :=
  let k : Kind := .stop (Fin.ofNat 4 l)
  let r1 := sendStream r core p sc t 0 k (BitVec.ofNat 64 v) false
  r1.when (t.mode = 2) fun q => sendStream q core p sc t 1 k (BitVec.ofNat 64 v) false

/-! ## Faults of streams (R294) -/

/-- The firing that a stream's records name: its tag, and 0xFFFF as index. -/
def streamFiring (core p : Nat) (t : Stream) : Firing :=
  ⟨core, 0, p, t.ctx, none, t.tag, if t.slot = 7 then 0xFFFF else 0xFFFF - t.slot * 32, [], [], []⟩

/-- A held request stands at a memory-port tile (R175). -/
def portHeld (s : State) (core p : Nat) : Bool :=
  s.reqs.any fun q => decide (q.firing.core = core ∧ q.src = .port p ∧ q.stage = .held)

/-- A restartable fault holds the stream. -/
def holdStream (r : R s0) (core p sc : Nat) (t : Stream) (e : AccFault) : R s0 :=
  let i : Instr := if t.output then .outputStreamToken core p sc else .streamElement core p sc
  let r1 := updStream r core p sc fun x => { x with st := .held }
  let q := { Req.new r1.s.nextId i (streamFiring core p t) (.port p) .ctl with stage := .held, aux := sc }
  holdReq (addReq r1 fun _ => q) q e

/-- A final fault writes its record and sets the error bit. -/
def failStream (r : R s0) (core p sc : Nat) (t : Stream) (e : AccFault) : R s0 :=
  let f := streamFiring core p t
  updStream (reportFiring r f (recOf f e.cause false 2 0 e.words)) core p sc fun x => { x with error := true }

/-- A value that the spec leaves open (log 3), and the counter past it. -/
def takeFree (r : R s0) : R s0 × Word := (r.eff .nextFree, Sys2Proof.Config.freeWord r.s.freeCtr)

/-! ## STREAM_ELEMENT (R289 to R291) -/

/-- A range cut at the boundary of a line. -/
def pieces (va n : Nat) : List (Nat × Nat) :=
  let k := 128 - va % 128
  if n ≤ k then [(va, n)] else [(va, k), (va + k, n - k)]

/-- A plain load of a stream, piece by piece, at its home; the flag says that it met uncorrectable data. -/
def streamLoad (r : R s0) (core c align : Nat) : List (Nat × Nat) → GotR s0 (List Byte × Bool)
  | [] => (r, .val ([], false))
  | (va, n) :: l =>
    let (r1, x) := checkAccess r core c va align .rd false
    GotR.then (r1, x.got) fun q p => (physRead q p.1 n).then fun z _ =>
      let bad := badBytes z.s p.1 n
      let (w, b) := coreLoad z core c .home false p.1 n p.2
      (streamLoad w core c align l).map fun m => (b ++ m.1, bad || m.2)

/-- An element: its bytes, its coordinate, poison. -/
def readElem (r : R s0) (core : Nat) (t : Stream) : GotR s0 (List Byte × Nat × Bool) :=
  let align := if t.ty = .e2m1x16 then 2 else accSize t.ty
  let c := t.ctx
  let value (q : R s0) (a : Nat) (x : Nat) (pz : Bool) : GotR s0 (List Byte × Nat × Bool) :=
    (streamLoad q core c align (pieces a t.esize)).map fun m => (m.1, x, m.2 || pz)
  if t.mode = 1 then
    (streamLoad r core c 4 [(t.caddr t.linear, 4)]).then fun q i => value q (t.gatherAddr (ofBytesLE i.1)) 0 i.2
  else if t.mode = 2 then
    (streamLoad r core c 4 [(t.caddr t.linear, 4)]).then fun q i => value q t.addr (ofBytesLE i.1) i.2
  else value r t.addr 0 false

/-- Tokens of a burst frame (R84, R86): the header, then the elements, one ERROR where R85 makes a lane ERROR. -/
def frameToks (l : List Byte) : List (Kind × Word) :=
  let scale := fieldLE l 0 1
  let special := fieldLE l 1 1
  (.data, BitVec.ofNat 64 (fieldLE l 0 2)) ::
    (List.range ((l.length - 2) / 8)).map fun i =>
      let w := BitVec.ofNat 64 (fieldLE l (2 + 8 * i) 8)
      (if (lanesOf .e2m1x16 w).any (fun c => decodeBlockElem scale special c = .nan) then .error else .data, w)

/-- Tokens of an element. -/
def elemToks (t : Stream) (l : List Byte) : List (Kind × Word) :=
  if t.ty = .e2m1x16 then frameToks l else [readValue t.ty l]

/-- Emits an element's tokens. -/
def sendElem (r : R s0) (core p sc : Nat) (t : Stream) (l : List (Kind × Word)) (x : Option Word) (poison : Bool) : R s0 :=
  let r1 := r.each l fun q v => sendStream q core p sc t 0 v.1 v.2 poison
  match x with
  | some w => sendStream r1 core p sc t 1 .data w poison
  | none => r1

/-- Element tokens sent and not yet accepted by their destination (R291), counted by tag. -/
def unaccepted (k : Core) (p sc : Nat) (t : Stream) : Nat :=
  let (d, i) := routeDest t.route
  let mine (b : BufTok) : Bool :=
    decide (b.ctx = t.ctx ∧ b.tok.idx = i ∧ b.tok.slot = routeSlot t.route ∧ b.tok.tag.unit = t.unit) && !isStop b.tok.kind
  let inNet := (k.flights.filter fun x => decide (x.src = streamSrc p sc 0) && !isStop x.tok.kind).map fun x => x.tok.tag
  let inBuf := match d with
    | .pe x y => ((k.pe x y).bufs.filter mine).map fun b => b.tok.tag
    | .port n => ((k.port n).bufs.filter mine).map fun b => b.tok.tag
    | .tile .. => []
  (inNet ++ inBuf).eraseDups.length

/-- The closing of a stream; what it owed its port is dropped. -/
def closeStream (r : R s0) (core p sc : Nat) : R s0 :=
  let r1 := dropReqs r fun q => decide (q.firing.core = core ∧ q.src = .port p ∧ q.aux = sc) &&
    (match q.instr with | .streamElement .. | .outputStreamToken .. => true | _ => false)
  updStream r1 core p sc fun x => { x with st := .closed, early := [], early1 := [] }

/-- The stop of an input stream that closes before its end (R301), and its close. -/
def closeInput (r : R s0) (core p sc : Nat) : R s0 :=
  let t := ((r.s.core core).port p).stream sc
  closeStream (sendStop r core p sc t t.levels t.done) core p sc

/-- One item of an input stream. -/
def emitItem (r : R s0) (core p sc : Nat) (t : Stream) : R s0 :=
  let next (q : R s0) : R s0 := updStream q core p sc fun x => x.advance
  match t.nextItem with
  | .stop l =>
    let r1 := next (sendStop r core p sc t l (t.runSize l))
    if l = t.levels then closeStream r1 core p sc else r1
  | .elem =>
    if t.window ≤ unaccepted (r.s.core core) p sc t then r
    else match readElem r core t with
      | (r1, .val (l, x, bad)) =>
        next (sendElem r1 core p sc t (elemToks t l) (if t.mode = 2 then some (BitVec.ofNat 64 x) else none) bad)
      | (r1, .wait) => r1
      | (r1, .fault e) =>
        if e.final then
          let (r2, v) := takeFree (failStream r1 core p sc t e)
          let r3 := sendStream r2 core p sc t 0 .error v false
          next (r3.when (t.mode = 2) fun q => sendStream q core p sc t 1 .error v false)
        else holdStream r1 core p sc t e

/-- STREAM_ELEMENT (R290): the next token of a running input stream. -/
def execStreamElement (core p sc : Nat) (s : State) : Host.Outcome State Fault Refusal :=
  let r := R.start s
  let t := ((s.core core).port p).stream sc
  (if t.st = StreamSt.running ∧ t.output = false ∧ portHeld s core p = false ∧ ctxMoves s t.ctx then emitItem r core p sc t
   else r).done

/-! ## OUTPUT_STREAM_TOKEN (R292) -/

/-- Whether an early token of this tag is complete: a whole burst under E2M1. -/
def heldToks (l : List Tok) (i : BitVec 16) : List Tok := l.filter fun t => t.tag.iter = i

/-- What becomes of the head token of a channel. -/
inductive OutHead where
  | take | discard | tagTwin | wait
deriving DecidableEq, Repr

def outHead (t : Stream) (ch : Nat) (b : BufTok) : OutHead :=
  if t.live = false then .discard
  else if t.output = false ∨ (ch = 1 ∧ t.mode ≠ 2) then .discard
  else if t.ctx ≠ b.ctx ∨ t.unit ≠ b.tok.tag.unit then .tagTwin
  else
    -- a second token of one iteration, or one that has been processed, raises TAG_ALIAS (R314)
    let have_ := (heldToks (if ch = 0 then t.early else t.early1) b.tok.tag.iter).length
    let full := if t.ty = .e2m1x16 ∧ ch = 0 then
        (match (heldToks t.early b.tok.tag.iter).head? with
         | some x => if x.kind = .data ∨ x.kind = .error then 1 + t.burst / 16 else 1
         | none => 1)
      else 1
    let d := (b.tok.tag.iter - t.ibase - BitVec.ofNat 16 t.emitted).toNat
    if 2 ^ 15 ≤ d ∨ full ≤ have_ then .tagTwin
    else if d < 64 then .take else .wait

/-- The head token of a channel enters the stream, is discarded, or is held. -/
def acceptOut (r : R s0) (core p sc ch : Nat) : R s0 :=
  let k := (r.s.core core).port p
  match k.bufs.find? fun b => b.tok.idx = 2 * sc + ch with
  | none => r
  | some b =>
    let t := k.stream sc
    let pop (q : R s0) : R s0 := updPort q core p fun y => { y with bufs := y.bufs.erase b }
    match outHead t ch b with
    | .wait => r
    | .discard => updStream (pop r) core p sc fun x => if x.st = StreamSt.free then x else { x with overrun := true }
    | .take => updStream (pop r) core p sc fun x =>
        if ch = 0 then { x with early := x.early ++ [b.tok] } else { x with early1 := x.early1 ++ [b.tok] }
    | .tagTwin =>
      if b.reported then r
      else
        let r1 := updPort r core p fun y => { y with bufs := y.bufs.map fun z => if z = b then { z with reported := true } else z }
        let x : Rec := ⟨.tagAlias, false, b.tok.poison, core, 2, 0xFFFF, tagNat b.tok.tag, 0, [p, tagNat b.tok.tag, 1]⟩
        report r1 b.ctx x b.tok.tag.unit.toNat b.tok.tag.iter.toNat 0xFFFF

/-- The bytes of a frame from a burst's tokens (R78, R86): an ERROR element token makes its elements code 0x8 under special
0xFF, and every other element that used the special value takes the nearest regular code. -/
def frameBytes (l : List Tok) : List Byte :=
  let hd := opTok l
  let el := l.drop 1
  let scale := if hd.kind = .error then 0xFF else hd.value.toNat % 256
  let sp := if hd.kind = .error then 0xFF else hd.value.toNat / 256 % 256
  let err := el.any fun t => t.kind = .error
  let code (c : Nat) : Nat := if c = 8 then (encodeElem .rne 127 regularCodes (some (decodeFmt fmtE4M3 sp))).1 else c
  let word (t : Tok) : Nat :=
    if err = false ∨ sp = 0xFF ∨ sp = 0x7F then (if t.kind = .error then packN 4 (List.replicate 16 8) else t.value.toNat)
    else if t.kind = .error then packN 4 (List.replicate 16 8)
    else packN 4 ((lanesOf .e2m1x16 t.value).map code)
  bytesLE 1 scale ++ bytesLE 1 (if err then 0xFF else sp) ++ el.flatMap fun t => bytesLE 8 (word t)

/-- Stores of a stream: every piece is checked before any is written. -/
def streamStore (r : R s0) (core c align : Nat) (l : List (Nat × List Byte)) : GotR s0 Unit :=
  let rec prep (r : R s0) : List (Nat × List Byte) → GotR s0 (List ((Nat × Nat × Word) × List Byte))
    | [] => (r, .val [])
    | x :: l => (vPrep r core c x.1 x.2.length align .wr).then fun q p =>
        (prep q l).map fun m => ((x.1, p.1, p.2), x.2) :: m
  (prep r l).then fun q ps =>
    (q.each ps fun z x =>
      let f := { Firing.init with core := core, ctx := c }
      trackMismatch (homeWrite z (.core core) x.1.2.2 true x.1.2.1 x.2) f x.1.2.2 x.1.1 x.1.2.1, .val ())

/-- A range of bytes cut at the boundary of a line. -/
def storePieces (va : Nat) (l : List Byte) : List (Nat × List Byte) :=
  (pieces va l.length).map fun x => (x.1, (l.drop (x.1 - va)).take x.2)

/-- A poisoned token is refused with its tag (R294, R477). -/
def refuseStream (r : R s0) (core p sc : Nat) (t : Stream) (toks : List Tok) : R s0 :=
  let f := { streamFiring core p t with a := toks }
  let r1 := refusePoison r f 2 (2 ^ 63 + p)
  let r2 := updCore r1 core fun k =>
    { k with refused := if k.refused.contains (t.ctx, t.tag) then k.refused else (t.ctx, t.tag) :: k.refused }
  updStream r2 core p sc fun x =>
    { x with early := x.early.filter (fun y => y.tag.iter ≠ t.tag.iter), early1 := x.early1.filter fun y => y.tag.iter ≠ t.tag.iter }

/-- The indices after a stop of level j. -/
def Stream.afterStop (t : Stream) (j : Nat) : List Nat :=
  (List.range 4).map fun i => if i ≤ j then 0 else if i = j + 1 then t.pos.getD i 0 + 1 else t.pos.getD i 0

/-- Processes the next token of an output stream in iteration order. -/
def processOut (r : R s0) (core p sc : Nat) (t : Stream) : R s0 :=
  let i := t.tag.iter
  let v := heldToks t.early i
  let x := heldToks t.early1 i
  let pass (q : R s0) (f : Stream → Stream) : R s0 := updStream q core p sc fun y =>
    f { y with emitted := y.emitted + 1, early := y.early.filter (fun z => z.tag.iter ≠ i),
               early1 := y.early1.filter fun z => z.tag.iter ≠ i }
  let hd := opTok v
  let whole := decide (t.ty = .e2m1x16) && (hd.kind = .data || hd.kind = .error)
  if v.isEmpty then r
  else if t.mode = 2 ∧ x.isEmpty then r
  else if whole && decide (v.length < 1 + t.burst / 16) then r
  else if (v ++ x).any Tok.poison then refuseStream r core p sc t (v ++ x)
  else match hd.kind with
    | .stop l =>
      let r1 := pass r fun y => { y with pos := y.afterStop l.val }
      if t.levels ≤ l.val then closeStream r1 core p sc else r1
    | .data | .error =>
      let step (y : Stream) : Stream := { y with pos := y.pos.set 0 (y.pos.getD 0 0 + 1) }
      if t.count 0 ≤ t.pos.getD 0 0 then pass r fun y => { step y with overrun := true }
      else
        let align := if t.ty = .e2m1x16 then 2 else accSize t.ty
        let l := if whole then frameBytes v else storeBytes t.ty hd
        let vals := storePieces t.addr l
        let store := if t.mode = 2 then
            (streamStore r core t.ctx align vals).then fun q _ =>
              streamStore q core t.ctx 4 [(t.caddr t.linear, storeBytes .z32 (opTok x))]
          else streamStore r core t.ctx align vals
        (match store with
         | (r1, .val _) => pass r1 fun y => { step y with done := y.done + 1 }
         | (r1, .wait) => r
         | (r1, .fault e) =>
           if e.final then pass (failStream r core p sc t e) step else holdStream r core p sc t e)
    | _ => pass r id

/-- OUTPUT_STREAM_TOKEN (R292): the heads of both channels are accepted, and the next token in iteration order is
processed. -/
def execOutputStreamToken (core p sc : Nat) (s : State) : Host.Outcome State Fault Refusal :=
  if ctxMoves s (((s.core core).port p).stream sc).ctx = false then (R.start s).done else
  let r := acceptOut (acceptOut (R.start s) core p sc 0) core p sc 1
  let t := ((r.s.core core).port p).stream sc
  (if t.st = StreamSt.running ∧ t.output = true ∧ portHeld r.s core p = false then processOut r core p sc t else r).done

/-! ## SOPEN, SCLOSE, SPOS (R300, R301) -/

def streamHandle (u : BitVec 13) (sc p : Nat) : Word := BitVec.ofNat 64 (u.toNat * 2 ^ 16 + sc * 2 ^ 4 + p)

/-- One attempt of SOPEN: it waits while the context holds a stream. -/
def trySopen (p sc : Nat) (r : R s0) (q : Req) : R s0 :=
  let f := q.firing
  if (((r.s.core f.core).port p).stream sc).live then r
  else
    let x := openStream r f.core f.ctx f.tag.unit (unitIndex r.s f.core f.ctx f.tag.unit) (opTok f.a).value.toNat
    match x with
    | (r1, .fault e) =>
      -- a descriptor that fails R288 is recorded, and SOPEN emits ERROR in either container
      if e.cause = .alignment ∨ e.cause = .reservedField then
        ctlErr (reportFiring r1 q.firing (recOf q.firing e.cause false (recSrc q) 0 e.words)) q
      else faultReq r1 q (hdrOfInstr q.instr) e
    | _ => x.run q fun r1 t => ctlDone (updStream r1 f.core p sc fun _ => t) q .data (streamHandle f.tag.unit sc p) false

/-- SOPEN (R301). -/
def execSopen (h : Hdr) (port : Fin 16) (sc : Fin 4) (s : State) : Host.Outcome State Fault Refusal :=
  startCtl s h [opTok s.cur.a] (.sopen h port sc) (.port port.val) (trySopen port.val sc.val)

/-- The port and context that a handle names for a firing, when it names a stream of its unit (R301, R302). -/
def namedStream (s : State) (f : Firing) (v : Word) : Option (Nat × Nat × Stream) :=
  let n := v.toNat
  let p := field n 3 0
  let sc := field n 5 4
  let t := ((s.core f.core).port p).stream sc
  if field n 63 29 = 0 ∧ field n 15 6 = 0 ∧ t.st ≠ .free ∧ t.ctx = f.ctx ∧ t.unit.toNat = field n 28 16 ∧ t.unit = f.tag.unit then
    some (p, sc, t)
  else none

/-- SCLOSE (R301): an input stream ends with its stop, an output stream drops what it has not processed; the token is an
acquire for an output stream (R401). -/
def execSclose (h : Hdr) (s : State) : Host.Outcome State Fault Refusal :=
  acting s h [opTok s.cur.a] fun r =>
    match namedStream s s.cur (opTok s.cur.a).value with
    | none => replyErr r s.cur h
    | some (p, sc, t) =>
      let r1 := if t.live then (if t.output then closeStream r s.cur.core p sc else closeInput r s.cur.core p sc) else r
      let r2 := r1.when t.output fun q => acquireM q s.cur.core
      reply r2 s.cur h .data (BitVec.ofNat 64 t.done) false

/-- SPOS (R300): the status of a stream. -/
def execSpos (h : Hdr) (s : State) : Host.Outcome State Fault Refusal :=
  acting s h [opTok s.cur.a] fun r =>
    match namedStream s s.cur (opTok s.cur.a).value with
    | none => replyErr r s.cur h
    | some (_, _, t) =>
      let b (x : Bool) (n : Nat) : Nat := if x then 2 ^ n else 0
      reply r s.cur h .data (BitVec.ofNat 64 (b (t.st = StreamSt.closed) 63 + b (t.st = StreamSt.held) 62 + b t.overrun 61 +
        b t.error 60 + t.done % 2 ^ 32)) false

/-! ## Merging (R298 to R302) -/

/-- Key of a merge (R299): 0 z32, 1 s32, 2 f32 of bits [63:32], 3 the whole value; `x` stands before `y`. A NaN code stands
before nothing. -/
def mergeBefore (key : Nat) (x y : Word) : Bool :=
  let hx := x.toNat / 2 ^ 32
  let hy := y.toNat / 2 ^ 32
  match key with
  | 0 => decide (hx < hy)
  | 1 => decide (sInt 32 hx < sInt 32 hy)
  | 2 => ordLt (decodeFmt fmtF32 hx) (decodeFmt fmtF32 hy)
  | _ => decide (x.toNat < y.toNat)

/-- MRG (R300, R301): the lower key to t0 and the other to t1; `.d` reverses; ERROR dominates. Type codes 0, 1 and 9 name an s32,
z32 and f32 key. -/
def execMrg (h : Hdr) (ty : Ty) (d : Bool) (s : State) : Host.Outcome State Fault Refusal :=
  let f := s.cur
  let a := opTok f.a
  let b := opTok f.b
  let key := match ty with | .s64 => 1 | .f32x2 => 2 | _ => 0
  let swap := if a.kind = .error then false
    else if b.kind = .error then true
    else if d then mergeBefore key a.value b.value else mergeBefore key b.value a.value
  let lo := if swap then b else a
  let hi := if swap then a else b
  let body : Res := match kindRule [a, b] with
    | some (.error, _) | none =>
      ⟨sendAll [h.t0] lo.kind lo.value f.tag ++ sendAll [h.t1] hi.kind hi.value f.tag, fNone⟩
    | some (k, v) => resAll (tgts2 h) k v f.tag
  fireRes s (ruledOwn h (tgts2 h) f (nullOrStop a || nullOrStop b) body)

/-- CRD (R301): a coordinate and a value packed into one token. -/
def execCrd (h : Hdr) (ty : Ty) (s : State) : Host.Outcome State Fault Refusal :=
  fireRes s (binary h s.cur fun a b => BitVec.ofNat 64 (a.toNat % 2 ^ 32 * 2 ^ 32 + b.toNat % 2 ^ 32))

/-- MRGCFG (R301): sets a merge node, unless it holds a token. -/
def execMrgcfg (h : Hdr) (s : State) : Host.Outcome State Fault Refusal :=
  acting s h [opTok s.cur.a, opTok s.cur.b] fun r =>
    let f := s.cur
    let a := (opTok f.a).value.toNat
    let b := (opTok f.b).value.toNat
    let n := a % 16
    let nd := (s.core f.core).node n
    if field a 31 4 ≠ 0 ∨ field b 28 0 ≠ 0 then replyErr r f h
    else if nd.configured ∧ (nd.ina ≠ [] ∨ nd.inb ≠ []) then reply r f h .data (BitVec.ofNat 64 (4 * 2 ^ 56)) false
    else
      let r1 := updNode r f.core n fun x =>
        { x with configured := true, ctx := f.ctx, route := field a 63 32, slot := field b 63 61, unit := BitVec.ofNat 13 (field b 60 48),
                 ibase := BitVec.ofNat 16 (field b 47 32), key := field b 31 30, desc := field b 29 29 = 1, emitted := 0 }
      reply r1 f h .data 0 false

/-- A token of another unit at a configured node (R298): a record, once. -/
def nodeAlias (r : R s0) (core n : Nat) (b : BufTok) : R s0 :=
  let x : Rec := ⟨.tagAlias, false, b.tok.poison, core, 2, 0xFFFF, tagNat b.tok.tag, 0, [n, tagNat b.tok.tag, 1]⟩
  report r b.ctx x b.tok.tag.unit.toNat b.tok.tag.iter.toNat 0xFFFF

/-- Flight n of a core may enter a tile's input. -/
def tileFlight (s : State) (core n : Nat) : Option Flight :=
  match (s.core core).flights[n]? with
  | some x => if routeFirst (s.core core) n x && decide (x.tok.kind ≠ .marker) then some x else none
  | none => none

def leaveFlight (r : R s0) (core n : Nat) (c : Nat) : R s0 :=
  updCore r core fun k => { k with flights := k.flights.eraseIdx n, quiet := k.quiet.filter (· ≠ c) }

/-- MERGE_INPUT (R298): the n-th flight enters input a or b of its node, which buffers eight tokens. -/
def execMergeInput (core n : Nat) (s : State) : Host.Outcome State Fault Refusal :=
  let r := R.start s
  (match tileFlight s core n with
   | none => r
   | some x => match x.dest with
     | .tile 2 t =>
       let m := 8 * t + x.tok.idx / 2
       let nd := (s.core core).node m
       let l := if x.tok.idx % 2 = 0 then nd.ina else nd.inb
       if t < 2 ∧ x.tok.idx < 16 ∧ l.length < 8 ∧ ctxMoves s x.ctx = true then
         let b : BufTok := ⟨x.tok, x.ctx, false⟩
         updNode (leaveFlight r core n x.ctx) core m fun y =>
           if x.tok.idx % 2 = 0 then { y with ina := y.ina ++ [b] } else { y with inb := y.inb ++ [b] }
       else r
     | _ => r).done

/-- The head of an input belongs to another unit than the node's. -/
def foreignHead (nd : MergeNode) (l : List BufTok) : Bool :=
  match l with
  | b :: _ => decide (b.ctx ≠ nd.ctx ∨ b.tok.tag.unit ≠ nd.unit)
  | [] => false

/-- Reports the heads of other units, once each. -/
def reportForeign (r : R s0) (core n : Nat) : R s0 :=
  let nd := (r.s.core core).node n
  let mark (l : List BufTok) : List BufTok := match l with
    | b :: t => if foreignHead nd l then { b with reported := true } :: t else l
    | [] => []
  let new := [nd.ina, nd.inb].filterMap fun l => match l with
    | b :: _ => if foreignHead nd l && !b.reported then some b else none
    | [] => none
  (updNode r core n fun y => { y with ina := mark y.ina, inb := mark y.inb }).each new fun q b => nodeAlias q core n b

/-- NULL heads are consumed. -/
def dropNulls : List BufTok → List BufTok
  | [] => []
  | b :: l => if b.tok.kind = .null then dropNulls l else b :: l

/-- What a node does with its two heads (R299): the token it emits, and which heads it consumes. -/
def mergeDecide (nd : MergeNode) (a b : Tok) : Tok × Bool × Bool :=
  if isStop a.kind && isStop b.kind then
    ({ a with kind := maxStop [a, b], value := a.value + b.value, poison := a.poison || b.poison, carry := a.carry || b.carry },
      true, true)
  else if isStop a.kind then (b, false, true)
  else if isStop b.kind then (a, true, false)
  else if a.kind = .error then (a, true, false)
  else if b.kind = .error then (b, false, true)
  else if (if nd.desc then mergeBefore nd.key a.value b.value else mergeBefore nd.key b.value a.value) then (b, false, true)
  else (a, true, false)

/-- MERGE_NODE_DECISION (R299): one token of a configured node whose inputs both hold a head. -/
def execMergeNodeDecision (core n : Nat) (s : State) : Host.Outcome State Fault Refusal :=
  let r0 := R.start s
  (if ((s.core core).node n).configured = false ∨ ctxMoves s ((s.core core).node n).ctx = false then r0
   else
     let r := reportForeign r0 core n
     let nd := (r.s.core core).node n
     if foreignHead nd nd.ina || foreignHead nd nd.inb then r
     else
       let r1 := updNode r core n fun y => { y with ina := dropNulls y.ina, inb := dropNulls y.inb }
       match dropNulls nd.ina, dropNulls nd.inb with
       | a :: _, b :: _ =>
         if foreignHead nd (dropNulls nd.ina) || foreignHead nd (dropNulls nd.inb) then r1
         else
           let (t, ca, cb) := mergeDecide nd a.tok b.tok
           let tag : Tag := ⟨BitVec.ofNat 3 nd.slot, nd.unit, nd.ibase + BitVec.ofNat 16 nd.emitted⟩
           let r2 := updNode r1 core n fun y =>
             { y with emitted := y.emitted + 1, ina := if ca then y.ina.drop 1 else y.ina, inb := if cb then y.inb.drop 1 else y.inb }
           sendRoute r2 core nd.ctx (.tile 18 n) nd.route { t with action := .consume, tag := tag }
       | _, _ => r1).done

/-! ## FIFOs (R268) -/

/-- The route of a FIFO tile: of the binding that set its role last. -/
def fifoRoute (k : Core) (m : Nat) : Nat :=
  match (k.tile m).owner with
  | none => 0
  | some (c, id) => ((k.bindings.find? fun b => decide (b.cfg.ctx = c ∧ b.cfg.cfgid = id)).map fun b => b.cfg.fifo.getD m 0).getD 0

/-- FIFO_ACCEPT (R268): the n-th flight enters its FIFO tile, which holds 4,096 tokens. -/
def execFifoAccept (core n : Nat) (s : State) : Host.Outcome State Fault Refusal :=
  let r := R.start s
  (match tileFlight s core n with
   | none => r
   | some x => match x.dest with
     | .tile 0 m =>
       let t := (s.core core).tile m
       if m < 32 ∧ t.role = 2 ∧ x.tok.idx = 0 ∧ t.fifo.length < 4096 ∧ ctxMoves s x.ctx = true then
         updTile (leaveFlight r core n x.ctx) core m fun y => { y with fifo := y.fifo ++ [(x.tok, x.ctx)] }
       else r
     | _ => r).done

/-- FIFO_EMIT (R268): the oldest token of a FIFO leaves unchanged along its route. -/
def execFifoEmit (core m : Nat) (s : State) : Host.Outcome State Fault Refusal :=
  let r := R.start s
  let t := (s.core core).tile m
  (match t.fifo with
   | (x, c) :: l =>
     let re := fifoRoute (s.core core) m
     if t.role = 2 ∧ re ≠ 0 ∧ ctxMoves s c = true then sendRoute (updTile r core m fun y => { y with fifo := l }) core c (.tile 16 m) re x else r
   | [] => r).done

/-! ## Format islands (R297) -/

/-- What an island makes of a token, from its table tile's bytes: the output route and the token. -/
def islandTok (tab : Nat → Byte) (t : Tok) : Nat × Tok :=
  let at_ (o n : Nat) : Nat := ofBytesLE ((List.range n).map fun j => tab (o + j))
  let re := at_ 2048 4
  if t.kind ≠ Kind.data then (re, t)
  else
    let w := BitVec.ofNat 64 (ofBytesLE ((bytesLE 8 t.value.toNat).zipIdx.map fun b => tab (256 * b.2 + b.1.toNat)))
    (re, { t with value := w, kind := if anyNaN (tyOf (at_ 2052 1 % 16)) w then .error else .data })

/-- FORMAT_ISLAND (R297): island n takes the oldest token on its way to it and sends the mapped one. -/
def execFormatIsland (core n : Nat) (s : State) : Host.Outcome State Fault Refusal :=
  let r := R.start s
  let k := s.core core
  (match k.flights.findIdx? fun (x : Flight) => decide (x.dest = Dest.tile 4 n ∧ x.tok.kind ≠ Kind.marker) with
   | none => r
   | some i => match tileFlight s core i with
     | none => r
     | some x =>
       if n < 4 ∧ (k.tile (28 + n)).role = 1 ∧ ctxMoves s x.ctx = true then
         let (re, t) := islandTok (fun a => tabGet 0 a (k.tile (28 + n)).bytes) x.tok
         sendRoute (leaveFlight r core i x.ctx) core x.ctx (.tile 20 n) re t
       else r).done

end Sys2Proof.Machine
end

