-- ==== Sys2Proof/Machine/Matrix.lean ====
section
/-!
DEFINITION. The matrix tile (R303 to R314): its planes, accumulators and command store, the instructions MWLD, MWSWAP, MSTR,
MRDO, MZERO and MCFG, and the events MATRIX_COMMAND_FIRE and PLANE_LOAD_COMPLETE. A command waits in the tile's store
until its condition holds; those beyond the sixteenth wait at their senders.
-/

set_option linter.unusedVariables false

namespace Sys2Proof.Machine

open Sys2Proof

variable {s0 : State}

/-! ## Shapes (R303) -/

/-- A pair of element types: columns, accumulator rows, s32 accumulators. -/
def matrixPair (w a : Nat) : Option (Nat × Nat × Bool) :=
  if [0xC, 0xD].contains w && [0xC, 0xD].contains a then some (256, 64, false)
  else if [0x6, 0x7].contains w && [0x6, 0x7].contains a then some (256, 64, true)
  else if [0xA, 0xB].contains w && decide (w = a) then some (128, 128, false)
  else if w = 0xE ∧ a = 0xE then some (512, 32, false)
  else none

def MTile.shape (m : MTile) : Nat × Nat × Bool := (matrixPair (tyCode m.wty) (tyCode m.aty)).getD (256, 64, false)
def MTile.cols (m : MTile) : Nat := m.shape.1
def MTile.rows (m : MTile) : Nat := m.shape.2.1
def MTile.isInt (m : MTile) : Bool := m.shape.2.2
/-- Bytes of an element of the plane and of the activations. -/
def MTile.es (m : MTile) : Nat := tyWidth m.wty / 8
def MTile.isE2m1 (m : MTile) : Bool := decide (m.wty = .e2m1x16)
def MTile.planeBytes (m : MTile) : Nat := if m.isE2m1 then 34816 else 128 * m.cols * m.es
def MTile.rowBytes (m : MTile) : Nat := if m.isE2m1 then 68 else 128 * m.es

/-- The value of an element's code under a type. -/
def elemVal (ty : Ty) (code : Nat) : FVal :=
  if tyInt ty then (let v := readInt ty code; .fin (decide (v < 0)) v.natAbs 0) else decodeFmt (tyFmt ty) code

/-- Element i of two burst frames of 64 that lie one after the other at byte `o` (R85, R87). -/
def frameElem (l : List Byte) (o i : Nat) : FVal :=
  let f := o + 34 * (i / 64)
  let j := i % 64
  decodeBlockElem (fieldLE l f 1) (fieldLE l (f + 1) 1) (fieldLE l (f + 2 + j / 2) 1 / 16 ^ (j % 2) % 16)

/-- Weight (k, c) of the active plane. -/
def MTile.weight (m : MTile) (k c : Nat) : FVal :=
  if m.isE2m1 then frameElem m.plane (68 * c) k
  else elemVal m.wty (fieldLE m.plane (m.es * (m.cols * k + c)) m.es)

/-- Element k of an activation row. -/
def MTile.act (m : MTile) (row : List Byte) (k : Nat) : FVal :=
  if m.isE2m1 then frameElem row 0 k else elemVal m.aty (fieldLE row (m.es * k) m.es)

/-! ## Dots and accumulation (R90, R91, R306) -/

/-- An exact dot of 128 terms: a number, an infinity, an ERROR term, or an undefined sum. -/
inductive Dot where
  | num (x : Dy) | inf (neg : Bool) | err | undef
deriving DecidableEq, Repr

/-- Adds one product. -/
def Dot.add (d : Dot) (x w : FVal) : Dot :=
  match d with
  | .err => .err
  | _ =>
    match x, w with
    | .nan, _ | _, .nan => .err
    | _, _ => match mulVal x w with
      | none => .undef
      | some (.inf n) => (match d with
        | .inf b => if b = n then d else .undef
        | .undef => .undef
        | _ => .inf n)
      | some v => (match d with
        | .num y => .num (y.add v.dy)
        | _ => d)

def MTile.dot (m : MTile) (row : List Byte) (c : Nat) : Dot :=
  (List.range 128).foldl (fun d k => d.add (m.act row k) (m.weight k c)) (.num .zero)

/-- acc + dot (R90, R91). -/
def accAdd (int : Bool) (a : Acc) (d : Dot) : Acc × FFlags :=
  match a with
  | .error => (.error, fNone)
  | .val c =>
    match d with
    | .err => (.error, fNone)
    | .undef => (.error, fIV)
    | .num x =>
      if x.m = 0 then (a, fNone)
      else if int then
        let v := sInt 32 c + x.floor
        let w := max (-pow2 31) (min v (pow2 31 - 1))
        (.val (wrapInt 32 w), if v = w then fNone else fOF)
      else
        let z := roundTo fmtF32 .rne false (addVal (decodeFmt fmtF32 c) x.val)
        ((match z.code with | some k => .val k | none => .error), z.fl)
    | .inf n =>
      let z := roundTo fmtF32 .rne false (addVal (decodeFmt fmtF32 c) (.inf n))
      ((match z.code with | some k => .val k | none => .error), z.fl)

def MTile.acc (m : MTile) (row c : Nat) : Acc := tabGet (.val 0) (row * m.cols + c) m.accs
def MTile.setAcc (m : MTile) (row c : Nat) (a : Acc) : MTile := { m with accs := tabSet (.val 0) (row * m.cols + c) a m.accs }

/-- Every entry of a row takes one value. -/
def MTile.setRow (m : MTile) (row : Nat) (a : Acc) : MTile := (List.range m.cols).foldl (fun x c => x.setAcc row c a) m

def MTile.markWritten (m : MTile) (row : Nat) : MTile :=
  { m with written := if m.written.contains row then m.written else row :: m.written }

/-- One activation row applied to accumulator row `row` (R306). -/
def MTile.apply (m : MTile) (bytes : List Byte) (row : Nat) : MTile × FFlags :=
  if m.written.contains row then (m.setRow row .error, fIV)
  else
    let (x, fl) := (List.range m.cols).foldl (fun p c =>
      let (a, f) := accAdd m.isInt (p.1.acc row c) (m.dot bytes c)
      (p.1.setAcc row c a, p.2 ||| f)) (m, fNone)
    (x.markWritten row, fl)

/-! ## Commands -/

/-- Control fields: of MSTR's b, and of MRDO's b and MZERO's a (R309). -/
def mstrRows (b : Nat) : Nat := field b 63 56 + 1
def mstrRow0 (b : Nat) : Nat := field b 55 48
def mrdoRows (b : Nat) : Nat := field b 41 34 + 1
def mrdoRow0 (b : Nat) : Nat := field b 33 26
/-- Bytes of a readout element, 0 for a type that is none. -/
def otySize (int : Bool) (o : Nat) : Nat :=
  if int then (if o = 2 then 4 else 0) else match o with | 0x8 => 4 | 0xA | 0xB => 2 | 0xC | 0xD => 1 | _ => 0

def MCmd.a (c : MCmd) : Nat := (opTok c.firing.a).value.toNat
def MCmd.b (c : MCmd) : Nat := (opTok c.firing.b).value.toNat

/-- The limits of R310. -/
def MTile.valid (m : MTile) (c : MCmd) : Bool :=
  match c.instr with
  | .mwswap _ => decide (c.a < 2 ^ 16)
  | .mwld .. => decide (c.a % 128 = 0)
  | .mstr _ => decide (field c.b 46 0 = 0 ∧ mstrRow0 c.b + mstrRows c.b ≤ m.rows ∧ c.a % (if m.isE2m1 then 2 else 128) = 0)
  | .mrdo _ => decide (field c.b 25 0 = 0 ∧ mrdoRow0 c.b + mrdoRows c.b ≤ m.rows ∧ c.a % 128 = 0 ∧
      otySize m.isInt (field c.b 47 44) ≠ 0)
  | .mzero _ => decide (field c.a 25 0 = 0 ∧ field c.a 47 42 = 0 ∧ mrdoRow0 c.a + mrdoRows c.a ≤ m.rows)
  | _ => true

/-- An operation or a plane load is Held. -/
def MTile.anyHeld (m : MTile) : Bool := decide (m.st = .held) || m.loadHeld

/-- The conditions of R304. -/
def MTile.ready? (m : MTile) (c : MCmd) : Bool :=
  let t := c.firing.tag.iter
  match c.instr with
  | .mcfg _ => m.anyHeld || (m.run.isNone && m.load.isNone)
  | .mwld .. => decide (m.sst = .empty) && decide (m.st ≠ .held)
  | .mwswap _ => m.run.isNone && decide (m.sst = .full ∧ field c.a 15 0 ≤ m.d)
  | .mstr _ => m.run.isNone && decide (m.gen = t ∧ m.ready = some t)
  | .mrdo _ => m.run.isNone && decide (m.gen = t ∧ field c.b 63 48 ≤ m.d)
  | .mzero _ => m.run.isNone && decide (m.gen = t ∧ field c.a 63 48 ≤ m.d)
  | _ => false

/-- Tokens of a command: none once its block is gone. -/
def mreply (r : R s0) (c : MCmd) (k : Kind) (v : Word) (carry : Bool) : R s0 :=
  let f := c.firing
  let here := match f.trestle with
    | none => true
    | some t => match instOf r.s f.core t with
      | some i => decide (i.ctx = f.ctx ∧ i.unit = f.tag.unit)
      | none => false
  if here then reply r f (hdrOfInstr c.instr) k v carry else r

def mreplyErr (r : R s0) (c : MCmd) : R s0 := mreply r c .error (opTok c.firing.a).value false

/-- A restartable fault of the tile (R307, R310): a request is held at memory-port tile 8. -/
def holdTile (r : R s0) (c : MCmd) (e : AccFault) : R s0 :=
  let f := { c.firing with trestle := none, y := 8 }
  let q := { Req.new r.s.nextId c.instr f (.port 8) .ctl with stage := .held }
  reportFiring (addReq r fun _ => q) f (recOf f e.cause true 4 (reqHandle q) e.words)

/-- A final fault of the tile: its record. -/
def tileRecord (r : R s0) (c : MCmd) (e : AccFault) : R s0 :=
  reportFiring r c.firing (recOf c.firing e.cause false 4 0 e.words)

/-- A range in parts that lie within one line each. -/
def lineParts : Nat → Nat → Nat → List (Nat × Nat)
  | 0, _, _ => []
  | fuel + 1, va, n =>
    if n = 0 then [] else
      let k := min n (128 - va % 128)
      (va, k) :: lineParts fuel (va + k) (n - k)

/-- Reads `n` bytes for the tile, from memory or a buffer tile (R166, R310). -/
def tileRead (r : R s0) (c : MCmd) (va n : Nat) (local_ : Bool) : GotR s0 (List Byte × Bool) :=
  let f := c.firing
  if local_ then
    if (List.range ((n + 63) / 64)).all fun j => localOk r.s f.core f.ctx (va + 64 * j) (min 64 (n - 64 * j)) then
      (r, .val ((List.range n).map fun j => tabGet 0 ((va + j) % 2 ^ 16) ((r.s.core f.core).tile ((va + j) / 2 ^ 16)).bytes, false))
    else (r, .fault ⟨.translation, true, accWords va 7 .rd 0⟩)
  else streamLoad r f.core f.ctx 1 (lineParts (n / 128 + 2) va n)

/-! ## Operations -/

/-- The end of the operation in progress. -/
def endRun (r : R s0) (core : Nat) (f : MTile → MTile) : R s0 :=
  updMatrix r core fun m => f { m with run := none, st := .idle }

/-- Rows of an MSTR from the first not yet done (R306, R307). -/
def runMstr (r : R s0) (core : Nat) : Nat → R s0
  | 0 => r
  | fuel + 1 =>
    let m := (r.s.core core).matrix
    match m.run with
    | none => r
    | some c =>
      let n := mstrRows c.b
      if n ≤ c.done then
        mreply (endRun r core fun x => { x with d := x.d + 1 }) c .data (BitVec.ofNat 64 n) false
      else
        let row := mstrRow0 c.b + c.done
        let next (z : R s0) (g : MTile → MTile) (bad : Bool) : R s0 := updMatrix z core fun x =>
          { g x with run := some { c with done := c.done + 1, firing := if bad then c.firing.poisoned else c.firing } }
        match tileRead r c (c.a + c.done * m.rowBytes) m.rowBytes (field c.b 47 47 = 1) with
        | (r1, .val (l, bad)) =>
          let (x, fl) := m.apply l row
          runMstr (next (orFlagsOf r1 c.firing fl) (fun y => { y with accs := x.accs, written := x.written }) bad) core fuel
        | (r1, .wait) => r1
        | (r1, .fault e) =>
          if e.final then
            runMstr (next (tileRecord r1 c e) (fun y => (y.setRow row .error).markWritten row) false) core fuel
          else holdTile (updMatrix r1 core fun x => { x with st := .held }) c e

/-- One entry read out (R78, R80, R310): its code and flags. -/
def readEntry (int : Bool) (oty : Nat) (sat : Bool) (a : Acc) : Nat × FFlags :=
  if int then (match a with | .val c => (c, fNone) | .error => (2 ^ 31, fNone))
  else
    let f := codeFmt oty
    match a with
    | .error => (canonNaN f, fNone)
    | .val c =>
      let z := roundTo f .rne sat (decodeFmt fmtF32 c).exact
      (z.code.getD (canonNaN f), z.fl)

/-- The entries that 128-byte store k of an MRDO holds. -/
def mrdoEntries (m : MTile) (c : MCmd) (k : Nat) : List (Nat × Nat) :=
  let es := otySize m.isInt (field c.b 47 44)
  (List.range (128 / es)).map fun j =>
    let e := 128 / es * k + j
    (mrdoRow0 c.b + e / m.cols, e % m.cols)

/-- Stores of an MRDO from the first not yet done (R310). -/
def runMrdo (r : R s0) (core : Nat) : Nat → R s0
  | 0 => r
  | fuel + 1 =>
    let m := (r.s.core core).matrix
    match m.run with
    | none => r
    | some c =>
      let oty := field c.b 47 44
      let es := otySize m.isInt oty
      if mrdoRows c.b * m.cols * es / 128 ≤ c.done then
        mreply (endRun r core id) c .data (opTok c.firing.a).value true
      else if (r.s.ctx c.firing.ctx).det && accessMayPrecede r.s c.firing.ctx (firingStep r.s c.firing) c.firing.tag.unit.toNat then r
      else
        let va := c.a + 128 * c.done
        let l := mrdoEntries m c c.done
        let vals := l.map fun e => readEntry m.isInt oty (field c.b 42 42 = 1) (m.acc e.1 e.2)
        match vPrep r core c.firing.ctx va 128 128 .wr with
        | (r1, .val (pa, leaf)) =>
          let r2 := trackMismatch (homeWrite r1 (.core core) leaf true pa (vals.flatMap fun x => bytesLE es x.1))
            { c.firing with trestle := none } leaf va pa
          let r3 := orFlagsOf r2 c.firing (orFlags (vals.map Prod.snd))
          runMrdo (updMatrix r3 core fun x =>
            let y := if field c.b 43 43 = 1 then l.foldl (fun z e => z.setAcc e.1 e.2 (.val 0)) x else x
            { y with run := some { c with done := c.done + 1 } }) core fuel
        | (r1, .wait) => r1
        | (r1, .fault e) =>
          if e.final then mreplyErr (endRun (tileRecord r1 c e) core id) c
          else holdTile (updMatrix r1 core fun x => { x with st := .held }) c e

/-- The operation in progress goes on. -/
def goOn (r : R s0) (core : Nat) : R s0 :=
  match (r.s.core core).matrix.run with
  | some c => match c.instr with
    | .mstr _ => runMstr r core 257
    | .mrdo _ => runMrdo r core 1025
    | _ => r
  | none => r

/-- MCFG takes effect (R310). -/
def fireMcfg (r : R s0) (core : Nat) (c : MCmd) : R s0 :=
  let m := (r.s.core core).matrix
  let w := field c.a 63 60
  let a := field c.a 59 56
  let rej := field c.a 55 0 ≠ 0 || (matrixPair w a).isNone
  if m.anyHeld then mreply r c .data (BitVec.ofNat 64 (4 * 2 ^ 56)) false
  else if rej then
    mreply (reportFiring r c.firing (recOf c.firing .reservedField false 4 0 [0, c.a])) c .data
      (BitVec.ofNat 64 (3 * 2 ^ 56 + causeCode .reservedField * 2 ^ 48)) false
  else
    let r1 := updMatrix r core fun x =>
      { x with owner := some (c.firing.ctx, c.firing.tag.unit), st := .idle, wty := tyOf w, aty := tyOf a, plane := [], pst := .empty,
               shadow := [], sst := .empty, load := none, loadHeld := false, accs := [], written := [], gen := c.firing.tag.iter,
               d := 0, ready := none, run := none }
    mreply r1 c .data 0 false

/-- A command whose condition holds. -/
def fireCmd (r : R s0) (core : Nat) (c : MCmd) : R s0 :=
  let t := c.firing.tag.iter
  let a := (opTok c.firing.a).value
  match c.instr with
  | .mcfg _ => fireMcfg r core c
  | .mwld .. => updMatrix r core fun m => { m with sst := .loading, load := some c }
  | .mwswap _ =>
    let r1 := updMatrix r core fun m =>
      { m with plane := m.shadow, pst := .full, shadow := [], sst := .empty, gen := t, d := 0, written := [], ready := some t }
    mreply r1 c .data (t.setWidth 64) false
  | .mstr _ => goOn (updMatrix r core fun m => { m with run := some { c with done := 0 }, st := .streaming }) core
  | .mrdo _ => goOn (updMatrix r core fun m => { m with run := some { c with done := 0 }, st := .reading }) core
  | .mzero _ =>
    let r1 := updMatrix r core fun m =>
      (List.range (mrdoRows c.a)).foldl (fun x i => x.setRow (mrdoRow0 c.a + i) (.val 0)) m
    mreply r1 c .data a false
  | _ => r

/-- No cut has stopped the tile's owner (R471). -/
def tileMoves (s : State) (m : MTile) : Bool := match m.owner with | some o => ctxMoves s o.1 | none => true

/-- MATRIX_COMMAND_FIRE (R304, R305): an operation that waits for a line goes on; else command n of the store fires, is turned
away, or waits. -/
def execMatrixCommandFire (core n : Nat) (s : State) : Host.Outcome State Fault Refusal :=
  let r := R.start s
  let m := (s.core core).matrix
  (if !tileMoves s m then r
   else if m.run.isSome && decide (m.st ≠ .held) then goOn r core
   else if 16 ≤ n then r
   else match m.cmds[n]? with
    | none => r
    | some c =>
      if ctxMoves s c.firing.ctx = false then r else
      let gone := updMatrix r core fun x => { x with cmds := x.cmds.eraseIdx n }
      let mine := (c.firing.ctx, c.firing.tag.unit)
      match m.owner with
      | none => (match c.instr with
        | .mcfg _ => fireMcfg gone core c
        | _ => mreplyErr gone c)
      | some o =>
        if o ≠ mine then r
        else if m.valid c = false then mreplyErr gone c
        else if m.ready? c then fireCmd gone core c
        else r).done

/-- PLANE_LOAD_COMPLETE (R308, R310): the plane image of the MWLD that loads has been read. -/
def execPlaneLoadComplete (core : Nat) (s : State) : Host.Outcome State Fault Refusal :=
  let r := R.start s
  let m := (s.core core).matrix
  (match m.load with
   | none => r
   | some c =>
     if m.loadHeld || !tileMoves s m then r
     else
       let loc := match c.instr with | .mwld _ l => l | _ => false
       match tileRead r c c.a m.planeBytes loc with
       | (r1, .val (l, bad)) =>
         mreply (updMatrix r1 core fun x => { x with shadow := l, sst := .full, load := none })
           { c with firing := if bad then c.firing.poisoned else c.firing } .data (opTok c.firing.a).value false
       | (r1, .wait) => r1
       | (r1, .fault e) =>
         if e.final then mreplyErr (updMatrix (tileRecord r1 c e) core fun x => { x with sst := .empty, load := none }) c
         else holdTile (updMatrix r1 core fun x => { x with loadHeld := true }) c e).done

/-- The tile loses its owner (R305, R308, R313). -/
def unownTile (r : R s0) (core c : Nat) (u : BitVec 13) : R s0 :=
  if (r.s.core core).matrix.owner = some (c, u) then
    updMatrix r core fun m =>
      { m with owner := none, st := .unowned, run := none, load := none, loadHeld := false,
               sst := if m.sst = .loading then .empty else m.sst,
               cmds := m.cmds.filter fun x => ¬(x.firing.ctx = c ∧ x.firing.tag.unit = u) }
  else r

/-! ## The instructions at their firing (R309) -/

/-- A command enters the tile's store. -/
def sendCmd (s : State) (h : Hdr) (ops : List Tok) (i : Instr) : Host.Outcome State Fault Refusal :=
  acting s h ops fun r => updMatrix r s.cur.core fun m => { m with cmds := m.cmds ++ [⟨i, firingOf s, 0⟩] }

/-- MWLD (R310). -/
def execMwld (h : Hdr) (l : Bool) (s : State) : Host.Outcome State Fault Refusal := sendCmd s h [opTok s.cur.a] (.mwld h l)
/-- MWSWAP (R310). -/
def execMwswap (h : Hdr) (s : State) : Host.Outcome State Fault Refusal := sendCmd s h [opTok s.cur.a] (.mwswap h)
/-- MSTR (R306, R310). -/
def execMstr (h : Hdr) (s : State) : Host.Outcome State Fault Refusal :=
  sendCmd s h [opTok s.cur.a, opTok s.cur.b] (.mstr h)
/-- MZERO (R310). -/
def execMzero (h : Hdr) (s : State) : Host.Outcome State Fault Refusal := sendCmd s h [opTok s.cur.a] (.mzero h)
/-- MCFG (R310). -/
def execMcfg (h : Hdr) (s : State) : Host.Outcome State Fault Refusal := sendCmd s h [opTok s.cur.a] (.mcfg h)

/-- Notes a tag that a sink refused, for its replay (R477, R478). -/
def noteRefused (r : R s0) (f : Firing) : R s0 :=
  r.when f.trestle.isNone fun z => updCore z f.core fun k =>
    { k with refused := if k.refused.contains (f.ctx, f.tag) then k.refused else (f.ctx, f.tag) :: k.refused }

/-- MRDO (R310): a sink, which refuses a poisoned tag (R477). -/
def execMrdo (h : Hdr) (s : State) : Host.Outcome State Fault Refusal :=
  acting s h [opTok s.cur.a, opTok s.cur.b] fun r =>
    let f := firingOf s
    if f.poison then noteRefused (refusePoison r f 4 0) f
    else updMatrix r f.core fun m => { m with cmds := m.cmds ++ [⟨.mrdo h, f, 0⟩] }

end Sys2Proof.Machine
end

