-- ==== Sys2Proof/Machine/Units.lean ====
section
/-!
DEFINITION. Units, launches and groups in time (R229 to R231, R244, R246, R248), and the end of engine jobs (R321, R324, R325): the
counters, the completion of a unit, the cancellation of an item, and the event UNIT_COMPLETION.
-/

set_option linter.unusedVariables false

namespace Sys2Proof.Machine

open Sys2Proof

variable {s0 : State}

/-! ## Writes of the module itself -/

/-- A write by a scheduler or an engine at a virtual address of a context, when it translates; a fault leaves a record of
the scheduler. -/
def moduleWrite (r : R s0) (c va : Nat) (l : List Byte) : R s0 :=
  match checkWalk r.s c va l.length .wr false with
  | .ok pa leaf => homeWrite (recallHalves r pa l.length true) .dev leaf true pa l
  | .fault e => reportPlain r c ⟨e.cause, false, false, 0xFF, 6, 0xFFFF, 0, 0, e.words⟩

/-! ## Engine jobs: their end (R321, R324, R325, R328) -/

def jobHandle (d e : Nat) (j : Job) : Nat := j.ctx * 2 ^ 24 + d * 2 ^ 22 + e * 2 ^ 14 + j.gen * 2 ^ 8

def jobCode (x : JobSt) : Nat :=
  match x with
  | .posted => 0 | .waiting => 1 | .running => 2 | .complete => 3 | .failed => 4 | .cancelled => 5 | .saved => 6

/-- Job status (R328). -/
def jobStatus (j : Job) : Nat := jobCode j.st * 2 ^ 56 + j.cause * 2 ^ 48 + j.landed % 2 ^ 48

/-- An unended job. -/
def Job.open? (j : Job) : Bool :=
  j.used && (match j.st with | .posted | .waiting | .running => true | _ => false)

/-- The status record (R321) at the job's reply address: with the translation of its start, or one drawn now. -/
def writeReply (r : R s0) (d e : Nat) : R s0 :=
  let j := (r.s.die d).job e
  let va := fieldLE j.card 64 8
  let l := bytesLE 8 (jobHandle d e j) ++ bytesLE 1 (jobCode j.st) ++ bytesLE 1 j.cause ++ bytesLE 6 (j.landed % 2 ^ 48)
  if va = 0 then r
  else if j.rpPa ≠ 0 then homeWrite r (.job d e) 0 true j.rpPa l
  else match checkWalk r.s j.ctx va 16 .wr false with
    | .ok pa leaf => homeWrite r (.job d e) leaf true pa l
    | .fault _ => r

/-- A collective job (R499). -/
def Job.collective (j : Job) : Bool := decide (0x10 ≤ fieldLE j.card 0 1)

/-- Neighbours of a collective's member: next and previous node. -/
def Job.neighbours (j : Job) : List Nat := [fieldLE j.ring 4 2, fieldLE j.ring 6 2]

/-- Abort flits to both neighbours (R501). -/
def sendAborts (r : R s0) (d e : Nat) : R s0 :=
  let j := (r.s.die d).job e
  if j.collective && decide (j.st = .running) then r.each j.neighbours fun q n => sendFlit q (portTo q.s (d * 32) n) else r

/-- A job is cancelled (R325): it stops between landings, and its status record is written; a ring member aborts its
ring (R501). -/
def cancelJob (r : R s0) (d e : Nat) : R s0 :=
  if ((r.s.die d).job e).open? then
    writeReply (updJob (sendAborts r d e) d e fun j => { j with st := .cancelled, cause := 0 }) d e
  else r

/-- Cancels the jobs of a launch. -/
def cancelJobs (r : R s0) (g : Nat) : R s0 :=
  r.each (List.range 4) fun q d =>
    q.each (((q.s.die d).jobs.filter fun x => x.2.launch = some g).map Prod.fst) fun z e => cancelJob z d e

/-! ## Counters (R230) -/

/-- A queue that drains becomes Disabled once every launch taken from it has completed (R225). -/
def drainCheck (r : R s0) (q : Nat) : R s0 :=
  let x := r.s.queue q
  if x.st = .draining ∧ (x.open_.all fun e => (r.s.group e.2).level ≠ 1) then updQueue r q fun y => { y with st := .disabled }
  else r

/-- A group completes when it is closed and its counter is 0: its completion word is written, then its parent counts it. -/
def settleGroup : Nat → R s0 → Nat → R s0
  | 0, r, _ => r
  | fuel + 1, r, g =>
    let x := r.s.group g
    if x.used && x.closed && !x.done && decide (x.counter = 0) then
      let r1 := r.when (x.caddr ≠ 0) fun z => moduleWrite z x.ctx x.caddr (bytesLE 4 x.cvalue)
      let r2 := updGroup r1 g fun y => { y with done := true }
      let r3 := drainCheck (updQueue r2 x.queue fun y => { y with open_ := y.open_.filter fun e => e.2 ≠ g }) x.queue
      match x.parent with
      | none => r3
      | some p => settleGroup fuel (updGroup r3 p fun y => { y with counter := y.counter - 1 }) p
    else r

/-- A member of a group completes. -/
def countDown (r : R s0) (g : Nat) (cancelled : Bool) : R s0 :=
  settleGroup 6 (updGroup r g fun y => { y with counter := y.counter - 1, cancelled := y.cancelled || cancelled }) g

/-! ## Completion of a unit (R231) -/

def workOf (s : State) (core c : Nat) (u : BitVec 13) : Option Work :=
  s.works.find? fun w => decide (w.ctx = c ∧ w.num = u ∧ w.core = core ∧ w.st = .live ∧ w.ended = false)

/-- Another live unit runs under the binding. -/
def bindingLive (s : State) (core : Nat) (b : Config) : Bool :=
  s.works.any fun w => decide (w.core = core ∧ w.ctx = b.ctx ∧ w.st = .live ∧ w.strand = false) &&
    (match chainOf (s.core core) w.ctx w.num with | some x => decide (x.cfgid = b.cfgid) | none => false)

/-- The last live unit of a binding leaves it Bound-idle (R270). -/
def idleBindings (r : R s0) (core : Nat) : R s0 :=
  let s := r.s
  updCore r core fun k =>
    { k with bindings := k.bindings.map fun b =>
        if bindingLive s core b.cfg then b
        else match b.st with
          | .live => { b with st := .idle }
          | .draining => if b.prior = .live then { b with prior := .idle } else b
          | _ => b }

/-- Streams of a unit on a core, as (port, context). -/
def streamsOf (s : State) (core c : Nat) (u : BitVec 13) : List (Nat × Nat × Stream) :=
  (s.core core).ports.flatMap fun p => p.2.streams.filterMap fun x =>
    if x.2.live && decide (x.2.ctx = c ∧ x.2.unit = u) then some (p.1, x.1, x.2) else none

/-- What a configuration unit leaves on its core is removed (R51, R55, R231): sticky tokens and pending purges, windows, the
input streams that still run, and every stream when the unit is cancelled. -/
def clearUnit (r : R s0) (core c : Nat) (u : BitVec 13) (cancelled : Bool) : R s0 :=
  let r1 := r.each ((streamsOf r.s core c u).filter fun x => cancelled || !x.2.2.output) fun q x => closeStream q core x.1 x.2.1
  let mine (e : Entry) : Bool :=
    decide (e.ctx = c ∧ (opTok e.toks).tag.unit = u ∧ (opTok e.toks).tag.slot ≠ 7) && decide ((opTok e.toks).action ≠ .consume)
  let r2 := mapPes r1 core fun p =>
    { p with store := p.store.filter (fun e => !mine e)
             spill := p.spill.filter (fun e => !mine e)
             purges := p.purges.filter (fun (k : PKey) => ¬(k.ctx = c ∧ k.unit = u))
             wins := p.wins.filter fun (w : Win) => ¬(w.ctx = c ∧ w.unit = u) }
  let r3 := r2.each ((r2.s.core core).pes.map Prod.fst) fun q n => trimFrames q core (n % 16) (n / 16) c
  unownTile (updCore r3 core fun k =>
    { k with chains := k.chains.filter (fun x => ¬(x.ctx = c ∧ x.unit = u))
             noReplay := k.noReplay.filter (fun x => ¬(x.1 = c ∧ x.2.unit = u))
             refused := k.refused.filter fun x => ¬(x.1 = c ∧ x.2.unit = u) }) core c u

/-- The last live unit of a context leaves it Idle (R464). -/
def idleCtx (r : R s0) (c : Nat) : R s0 :=
  if (r.s.ctx c).st = .running ∧ (r.s.works.all fun w => ¬(w.ctx = c ∧ w.st = .live)) then
    updCtx r c fun x => { x with st := .idle }
  else r

/-- A live unit completes: it leaves the core and its launch counts it. A strand that goes on after UNITEND stays as an
ended unit (R244). -/
def completeUnit (r : R s0) (w : Work) (stays cancelled : Bool) : R s0 :=
  let r1 := updWorks r fun l => if stays then l.map fun x => if x = w then { x with ended := true } else x else l.erase w
  let r2 := if w.strand then r1 else clearUnit r1 w.core w.ctx w.num cancelled
  countDown (idleCtx (idleBindings r2 w.core) w.ctx) w.group cancelled

/-- Strands that have halted or been cancelled leave their core (R199). -/
def dropStrand (r : R s0) (core c : Nat) (u : BitVec 13) : R s0 :=
  updCore r core fun k => { k with strands := k.strands.filter fun x => ¬(x.ctx = c ∧ x.unit = u) }

/-- A request of a unit is outstanding on a core. -/
def unitBusy (s : State) (core c : Nat) (u : BitVec 13) : Bool :=
  s.reqs.any fun q => decide (q.firing.core = core ∧ q.firing.ctx = c ∧ q.firing.tag.unit = u)

/-- A configuration unit has nothing left to do (R231). -/
def configDone (s : State) (core c : Nat) (u : BitVec 13) : Bool :=
  let k := s.core core
  let mine (c' : Nat) (t : Tag) : Bool := decide (c' = c ∧ t.unit = u ∧ t.slot ≠ 7)
  !(k.flights.any fun x => mine x.ctx x.tok.tag && decide (x.tok.action = .consume)) &&
    (k.pes.all fun p =>
      !(p.2.ready.any fun f => mine f.ctx f.tag) && !(p.2.bufs.any fun b => mine b.ctx b.tok.tag && decide (b.tok.action = .consume)) &&
      !((p.2.store ++ p.2.spill).any fun e => mine e.ctx (opTok e.toks).tag && decide ((opTok e.toks).action = .consume)) &&
      !(p.2.wins.any fun w => decide (w.ctx = c ∧ w.unit = u) && (w.held.isSome || w.heldB.isSome)) &&
      !(p.2.breaks.any fun b => mine b.firing.ctx b.firing.tag)) &&
    (k.ports.all fun p => !(p.2.bufs.any fun b => mine b.ctx b.tok.tag)) &&
    (k.nodes.all fun n => !((n.2.ina ++ n.2.inb).any fun b => mine b.ctx b.tok.tag)) &&
    (k.tiles.all fun t => !(t.2.fifo.any fun x => mine x.2 x.1.tag)) &&
    !((k.matrix.cmds ++ k.matrix.run.toList ++ k.matrix.load.toList).any fun m => mine m.firing.ctx m.firing.tag) &&
    ((streamsOf s core c u).all fun x => !x.2.2.output) &&
    !unitBusy s core c u

/-- UNIT_COMPLETION (R231): a unit with nothing left, or whose strand has halted, completes. -/
def execUnitCompletion (core c unit : Nat) (s : State) : Host.Outcome State Fault Refusal :=
  let r := R.start s
  let u := BitVec.ofNat 13 unit
  (match s.works.find? fun (w : Work) => decide (w.ctx = c ∧ w.num = u ∧ w.core = core ∧ w.st = UnitSt.live) with
   | none => r
   | some w =>
     if ctxMoves s c = false then r
     else if w.strand then
       match strandOf (s.core core) c u with
       | some x =>
         if x.st = StrandSt.halted ∧ unitBusy s core c u = false then
           let r1 := dropStrand r core c u
           if w.ended then idleCtx (updWorks r1 fun l => l.erase w) c else completeUnit r1 w false false
         else r
       | none => r
     else if configDone s core c u then completeUnit r w false false
     else r).done

/-! ## Cancellation (R246) -/

/-- Stops a strand: its block is discarded without a record, its frame is written back (R213). -/
def stopStrand (r : R s0) (core c : Nat) (u : BitVec 13) : R s0 :=
  let r1 := writeBack r core c u
  let ts := (r1.s.core core).trestles.filterMap fun x => match x.2 with
    | .busy i => if i.ctx = c ∧ i.unit = u then some x.1 else none
    | .fetching c' u' => if c' = c ∧ u' = u then some x.1 else none
    | .free => none
  dropStrand (r1.each ts fun q t => freeTrestle q core t) core c u

/-- Stops a placed unit: nothing of it acts any further. -/
def stopUnit (r : R s0) (core c : Nat) (u : BitVec 13) : R s0 :=
  let r1 := dropReqs r fun q => decide (q.firing.core = core ∧ q.firing.ctx = c ∧ q.firing.tag.unit = u)
  dropTokens r1 core fun c' t => decide (c' = c ∧ t.unit = u)

/-- A unit is cancelled: Waiting, it is dropped without placement; Live, it is stopped. -/
def cancelWork (r : R s0) (w : Work) : R s0 :=
  match w.st with
  | .waiting =>
    let r1 := updWorks r fun l => l.erase w
    if w.ended then r1 else countDown r1 w.group true
  | .live =>
    if w.ended then r
    else
      let r1 := updWorks r fun l => l.map fun x => if x = w then { x with cancelled := true } else x
      let w1 := { w with cancelled := true }
      let r2 := stopUnit (if w.strand then stopStrand r1 w.core w.ctx w.num else r1) w.core w.ctx w.num
      completeUnit r2 w1 false true

/-- A group lies in an item: the item, or below it. -/
def inItem (s : State) (g : Nat) : Nat → Nat → Bool
  | 0, x => decide (x = g)
  | fuel + 1, x => decide (x = g) || (match (s.group x).parent with | some p => inItem s g fuel p | none => false)

/-- Cancels a launch or group with all that lies below it. -/
def cancelGroup (r : R s0) (g : Nat) : R s0 :=
  let all := (r.s.groups.filter fun x => x.2.used && inItem r.s g 5 x.1).map Prod.fst
  let gs := all.filter fun x => !(r.s.group x).done
  let r1 := r.each gs fun q x => updGroup q x fun y => { y with cancelled := true, closed := true }
  let r2 := r1.each all cancelJobs
  let r3 := r2.each (r2.s.works.filter fun w => gs.contains w.group) cancelWork
  r3.each gs (settleGroup 6)

end Sys2Proof.Machine
end

