-- ==== Sys2Proof/Machine/Configs.lean ====
section
/-!
DEFINITION. Configurations (R256 to R282, R478): the checks of a configuration, the region configuration cache, binding and
unbinding, repair onto spares and replay, the instructions CFGLD, CFGSWAP, CFGDRAIN, CFGPIN and CFGQRY, and the events
CONFIG_LOAD, DRAIN_COMPLETE, DRAIN_TIMEOUT and SPARE_REPAIR.
-/

set_option linter.unusedVariables false

namespace Sys2Proof.Machine

open Sys2Proof

variable {s0 : State}

/-! ## Descriptor and images (R257, R110) -/

/-- Fields of a descriptor's 384 bytes that the checks and the load read. -/
structure CfgDesc where
  cfgid : Nat
  slots : Nat
  spares : Nat
  flags : Nat
  images : Nat
  count : Nat
  binding : Nat
  roles : Nat
  keep : Nat
  ibase : Nat
  digest : List Byte

def cfgDesc (l : List Byte) : CfgDesc :=
  ⟨fieldLE l 0 4, fieldLE l 4 1, fieldLE l 5 1, fieldLE l 6 1, fieldLE l 8 8, fieldLE l 16 2, fieldLE l 24 8, fieldLE l 32 8,
    fieldLE l 40 4, fieldLE l 44 2, (l.drop 64).take 64⟩

def roleOf (roles m : Nat) : Nat := roles / 4 ^ m % 4

/-- Step 1 of R259: a zero field, a reserved role, count, spares, slot bit 7, or the alignment of images and binding. -/
def descStep1 (l : List Byte) : Bool :=
  let d := cfgDesc l
  let z (i n : Nat) : Bool := ((l.drop i).take n).any fun b => b ≠ 0
  z 7 1 || z 18 6 || z 46 2 || z 56 8 || z 204 52 || decide (1 < d.flags) || decide (2 ^ 7 ≤ d.slots) ||
    ((List.range 32).any fun m => decide (roleOf d.roles m = 3)) || decide (d.count = 0 ∨ 1792 < d.count) ||
    decide (8 < d.spares) || z (48 + d.spares) (8 - d.spares) || decide (d.images % 8 ≠ 0 ∨ d.binding % 16 ≠ 0)

/-- The slot-image array with bits [63:32] of every config word taken as zero (R258). -/
def plainArray : Nat → List Byte → List Byte
  | 0, _ => []
  | n + 1, l => l.take 4 ++ [0, 0, 0, 0] ++ (l.drop 8).take 768 ++ plainArray n (l.drop 776)

/-- An image with its config word (R110). -/
structure RawImage where
  cw : Nat
  img : Image
  /-- decoded instructions by index -/
  ins : List (Nat × Instr)

def rawImage (l : List Byte) : RawImage :=
  let cw := fieldLE l 0 8
  let n := field cw 31 27 + 1
  let ws := (List.range n).map fun i => fieldLE l (8 + 8 * i) 8
  let rs := (List.range (field cw 23 16)).map fun j => fieldLE l (264 + 4 * j) 4
  ⟨cw, ⟨field cw 15 12, field cw 11 8, field cw 26 24, ws, rs⟩, []⟩

/-- A verdict: cause, array index, failing word. -/
abbrev Verdict := Nat × Nat × Nat

def badField (index word : Nat) : Verdict := (causeCode .reservedField, index, word)

/-- Words of a slot image by steps 1 to 6 of R106: the first that fails, or the instructions. -/
def cfgWords (lvl : Nat) : Nat → List Nat → List (Nat × Instr) → Except (Cause × Nat) (List (Nat × Instr))
  | _, [], acc => .ok acc.reverse
  | n, w :: l, acc =>
    match decode true lvl w (l.headD 0) with
    | .error c => .error (c, w)
    | .ok i =>
      if isExtended (w / 2 ^ 56 % 2 ^ 8) then
        match l with
        | [] => .ok (((n, i) :: acc).reverse)
        | _ :: l2 => cfgWords lvl (n + 2) l2 ((n, i) :: acc)
      else cfgWords lvl (n + 1) l ((n, i) :: acc)

/-- Step 3 for one image (R106, R110). -/
def imageStep3 (lvl k : Nat) (x : RawImage) : Except Verdict RawImage :=
  if field x.cw 7 0 ≠ 0 ∨ 128 < field x.cw 23 16 ∨ field x.cw 26 24 = 7 then .error (badField k x.cw)
  else match cfgWords lvl 0 x.img.words [] with
    | .error (c, w) => .error (causeCode c, k, w)
    | .ok l => .ok { x with ins := l }

def imagesStep3 (lvl : Nat) : Nat → List RawImage → Except Verdict (List RawImage)
  | _, [] => .ok []
  | k, x :: l => match imageStep3 lvl k x with
    | .error v => .error v
    | .ok y => match imagesStep3 lvl (k + 1) l with
      | .error v => .error v
      | .ok m => .ok (y :: m)

def hasIter (x : RawImage) : Bool := x.ins.any fun i => match i.2 with | .iter .. => true | _ => false

/-- Step 4: each image against the descriptor and the images before it (R259, R55). -/
def imagesStep4 (d : CfgDesc) (spares : List (Nat × Nat)) : Nat → List RawImage → List RawImage → Option Verdict
  | _, _, [] => none
  | k, seen, x :: l =>
    let i := x.img
    if d.slots.testBit i.slot = false ∨ field x.cw 63 32 ≠ d.cfgid ∨ spares.contains (i.x, i.y) = true ∨
        (seen.any fun y => decide (y.img.x = i.x ∧ y.img.y = i.y ∧ y.img.slot = i.slot) ||
          (hasIter x && hasIter y && decide (y.img.x = i.x ∧ y.img.y = i.y))) = true then some (badField k x.cw)
    else imagesStep4 d spares (k + 1) (x :: seen) l

/-- A route entry as R111 lets it stand in a PE's table, or in a tile's where `held`. -/
def entryOk (roles re : Nat) (held : Bool) : Bool :=
  let kind := re / 2 ^ 30
  let dest := field re 29 22
  let idx := field re 21 17
  decide (field re 8 0 = 0 ∧ kind ≠ 3) && (decide (field re 10 9 = 0) || (held && decide (kind = 0))) &&
    (match kind with
     | 0 => true
     | 1 =>
       let n := dest % 32
       (match dest / 32 with
        | 0 => true
        | 1 | 3 => decide (n = 0)
        | 2 => decide (n < 2)
        | 4 => decide (n < 4) && decide (roleOf roles (28 + n) = 1)
        | _ => false)
     | _ => decide (dest < 16 ∧ idx ≤ 7))

/-- The image and instruction that a kind-00 entry reaches under a slot. -/
def reaches (imgs : List RawImage) (slot re : Nat) : Option (RawImage × Nat) :=
  let dest := field re 29 22
  (imgs.find? fun x => decide (x.img.x = dest / 16 ∧ x.img.y = dest % 16 ∧ x.img.slot = slot ∧ field re 21 17 < x.img.words.length)).map
    fun x => (x, field re 21 17)

/-- The instruction encodes E2M1 bursts (R111). -/
def emitsE2m1 (i : Instr) : Bool := match i with | .cvt _ d _ _ _ => decide (d = .e2m1x16) | _ => false

/-- One target of an instruction of an image (R96, R111, R259). -/
def targetBad (imgs : List RawImage) (x : RawImage) (i : Instr) (t : Tgt) : Option Nat :=
  let slot := match i with | .slotset _ s => s.val | _ => x.img.slot
  match x.img.routes[t.idx.val]? with
  | none => some 0
  | some re =>
    if decide (field re 12 11 = 0) = emitsE2m1 i then some re
    else if re / 2 ^ 30 = 0 then
      match reaches imgs slot re with
      | none => some re
      | some (y, n) =>
        if t.slot = .p ∧ (match y.ins.find? fun z => z.1 = n with | some z => takesP z.2 | none => false) = false then some re
        else none
    else if t.slot ≠ .a then some 0 else none

/-- Step 5 for one image, targets and routes. -/
def imageStep5 (roles : Nat) (imgs : List RawImage) (k : Nat) (x : RawImage) : Option Verdict :=
  match x.img.routes.find? fun re => entryOk roles re false = false with
  | some re => some (badField k re)
  | none =>
    let n := x.img.words.length
    let word (j : Nat) : Nat := x.img.words.getD j 0
    x.ins.findSome? fun e =>
      if isExtended (word e.1 / 2 ^ 56 % 2 ^ 8) && decide (n ≤ e.1 + 1) then some (badField k (word e.1))
      else (allTargets e.2).findSome? fun t => match t with
        | none => none
        | some t => (targetBad imgs x e.2 t).map fun re => badField k (if re = 0 then word e.1 else re)

/-- Burst codes of routes that no target names (R111). -/
def strayBurst (x : RawImage) : Option Nat :=
  ((x.img.routes.zipIdx.find? fun re =>
    decide (field re.1 12 11 ≠ 0) &&
      !(x.ins.any fun e => (allTargets e.2).any fun t => match t with | some t => decide (t.idx.val = re.2) | none => false))).map
    Prod.fst

/-- Ports whose context 0 some route names. -/
def outPorts (imgs : List RawImage) : List Nat :=
  (imgs.flatMap fun x => x.img.routes.filterMap fun re =>
    if re / 2 ^ 30 = 2 ∧ field re 21 17 < 2 then some (field re 25 22) else none).eraseDups

/-- The rest of step 5: FIFO routes, the binding table with the directions of its streams (2 where an entry is not valid),
and the subgraph sets. -/
def tablesBad (l : List Byte) (imgs : List RawImage) (table : List Byte) (dirs : List Nat) : Bool :=
  let d := cfgDesc l
  let fifo (m : Nat) : Nat := fieldLE l (256 + 4 * m) 4
  let ent (p : Nat) : Nat := fieldLE table (16 * p) 1
  ((List.range 32).any fun m =>
    if roleOf d.roles m = 2 then
      !entryOk d.roles (fifo m) true ||
        (decide (fifo m / 2 ^ 30 = 0) && (List.range 7).all fun s => (reaches imgs s (fifo m)).isNone)
    else decide (fifo m ≠ 0)) ||
  ((List.range 16).any fun p => decide (4 ≤ ent p) || ((table.drop (16 * p + 1)).take 7).any (fun b => b ≠ 0) ||
    (decide (ent p % 2 = 1) && decide (dirs.getD p 2 ≠ ent p / 2 % 2))) ||
  ((outPorts imgs).any fun p => decide (ent p % 4 ≠ 3)) ||
  ([(128, 32), (192, 4), (200, 2)].any fun x => decide (fieldLE l (x.1 + x.2) x.2 &&& fieldLE l x.1 x.2 ≠ fieldLE l (x.1 + x.2) x.2))

/-- The configuration that its descriptor, images and binding table describe. -/
def configOf (c addr : Nat) (l table : List Byte) (imgs : List RawImage) : Config :=
  let d := cfgDesc l
  { ctx := c, cfgid := d.cfgid, digest := d.digest, addr := addr, slots := d.slots, eager := d.flags % 2 = 1,
    spares := (List.range d.spares).map (fun k => let b := fieldLE l (48 + k) 1; (b / 16, b % 16)),
    roles := (List.range 32).map (roleOf d.roles), keep := d.keep, ibase := BitVec.ofNat 16 d.ibase,
    sub1 := [fieldLE l 128 32, fieldLE l 192 4, fieldLE l 200 2], sub2 := [fieldLE l 160 32, fieldLE l 196 4, fieldLE l 202 2],
    fifo := (List.range 32).map (fun m => fieldLE l (256 + 4 * m) 4),
    ports := (List.range 16).filterMap (fun p =>
      let e := fieldLE table (16 * p) 1
      if e % 2 = 1 then some (p, decide (e / 2 % 2 = 1), fieldLE table (16 * p + 8) 8) else none),
    images := imgs.map RawImage.img }

/-- A load's reads, with its checks in the order of R259: the configuration as far as it was read, and the verdict. -/
def readConfig (r : R s0) (core c addr : Nat) (l : List Byte) : GotR s0 (Config × Option Verdict) :=
  let d := cfgDesc l
  if descStep1 l then (r, .val (configOf c addr l [] [], some (badField 0xFFFF 0)))
  else (vRange r core c 8 (97 * d.count) d.images).then fun r1 arr =>
    let dg := sha512 (plainArray d.count arr)
    let raw := (List.range d.count).map fun k => rawImage ((arr.drop (776 * k)).take 776)
    let stop (r : R s0) (v : Verdict) : GotR s0 (Config × Option Verdict) := (r, .val (configOf c addr l [] raw, some v))
    let spares := (List.range d.spares).map fun k => let b := fieldLE l (48 + k) 1; (b / 16, b % 16)
    if dg ≠ d.digest ∨ fieldLE dg 0 4 ≠ d.cfgid then stop r1 (badField 0xFFFF 0)
    else match imagesStep3 (privCode (r1.s.ctx c).priv) 0 raw with
      | .error v => stop r1 v
      | .ok imgs =>
        if spares.eraseDups ≠ spares then stop r1 (badField 0xFFFF 0)
        else match imagesStep4 d spares 0 [] imgs with
          | some v => stop r1 v
          | none => match imgs.zipIdx.findSome? fun x => imageStep5 d.roles imgs x.2 x.1 with
            | some v => stop r1 v
            | none => match imgs.zipIdx.findSome? fun x => (strayBurst x.1).map (badField x.2) with
              | some v => stop r1 v
              | none => (vRange r1 core c 16 16 d.binding).then fun r2 table =>
                let rec dirs (r : R s0) : Nat → Nat → GotR s0 (List Nat)
                  | 0, _ => (r, .val [])
                  | n + 1, p =>
                    if fieldLE table (16 * p) 1 % 2 = 1 then
                      (vNat r core c (fieldLE table (16 * p + 8) 8 + 40) 8).then fun q w =>
                        (dirs q n (p + 1)).map fun m => field w 40 40 :: m
                    else (dirs r n (p + 1)).map fun m => 2 :: m
                (dirs r2 16 0).then fun r3 ds =>
                  (r3, .val (configOf c addr l table imgs, if tablesBad l imgs table ds then some (badField 0xFFFF 0) else none))

/-! ## The region configuration cache (R262, R263) -/

def cacheFind (s : State) (cl c cfgid : Nat) : Option CacheEnt :=
  (s.cluster cl).cache.find? fun e => decide (e.cfg.ctx = c ∧ e.cfg.cfgid = cfgid)

/-- A configuration is bound on a core of a cluster. -/
def boundIn (s : State) (cl c cfgid : Nat) : Bool :=
  (List.range 4).any fun k => (s.core (4 * cl + k)).bindings.any fun b => decide (b.cfg.ctx = c ∧ b.cfg.cfgid = cfgid)

/-- The number of images an entry holds. -/
def CacheEnt.size (e : CacheEnt) : Nat := e.cfg.images.length

/-- The entry to evict: least recently bound, neither pinned nor bound nor loading. -/
def evictee (s : State) (cl : Nat) : Option CacheEnt :=
  leastBy (fun a b => decide (a.used < b.used))
    ((s.cluster cl).cache.filter fun e => decide (e.st = .resident) && !boundIn s cl e.cfg.ctx e.cfg.cfgid)

/-- Evicts until a configuration of `n` images has room; false when it has none. -/
def makeRoom (r : R s0) (cl n : Nat) : Nat → R s0 × Bool
  | 0 => (r, false)
  | fuel + 1 =>
    let l := (r.s.cluster cl).cache
    if l.length < 32 ∧ (l.map CacheEnt.size).foldl (· + ·) 0 + n ≤ 2048 then (r, true)
    else match evictee r.s cl with
      | none => (r, false)
      | some e => makeRoom (updCluster r cl fun k => { k with cache := k.cache.erase e }) cl n fuel

/-- What a load of a descriptor finds in a cluster. -/
inductive LoadRes where
  | already | collision | full
  /-- the pair is being loaded -/
  | loading

/-- Begins a load (R276): the cfgid read, and what it finds. -/
def beginLoad (r : R s0) (core c cl addr by_ : Nat) : GotR s0 (Nat × LoadRes) :=
  (vRange r core c 128 3 addr).then fun r1 l =>
    let d := cfgDesc l
    match cacheFind r1.s cl c d.cfgid with
    | some e =>
      (r1, .val (d.cfgid, if e.st = .loading then .loading else if e.cfg.digest = d.digest then .already else .collision))
    | none =>
      let (r2, ok) := makeRoom r1 cl (min d.count 1792) 33
      if ok = false then (r2, .val (d.cfgid, .full))
      else (readConfig r2 core c addr l).then fun r3 x =>
        let e : CacheEnt := ⟨x.1, .loading, (r3.s.cluster cl).useClk, x.2, core, by_⟩
        (updCluster r3 cl fun k => { k with cache := e :: k.cache }, .val (d.cfgid, .loading))

/-- Pins or unpins (R262, R277): the status code. -/
def pinEnt (r : R s0) (cl : Nat) (e : CacheEnt) (pin : Bool) : R s0 × Nat :=
  let pinned := (r.s.cluster cl).cache.filter fun x => decide (x.st = .pinned)
  if decide (e.st = .pinned) = pin then (r, 1)
  else if pin && decide (24 ≤ pinned.length ∨ 1792 < (pinned.map CacheEnt.size).foldl (· + ·) 0 + e.size) then (r, 2)
  else
    (updCluster r cl fun k => { k with cache := k.cache.map fun x => if x = e then { x with st := if pin then .pinned else .resident } else x }, 0)

/-! ## Statuses (R275) -/

def cfgStatus (code cause index cfgid : Nat) : Word :=
  if code = 0 then 0 else BitVec.ofNat 64 (code * 2 ^ 56 + cause * 2 ^ 48 + index % 2 ^ 16 * 2 ^ 32 + cfgid % 2 ^ 32)

/-- A cluster's outcome of a CFGLD, kept with its request while other clusters are served. -/
def packMark (cl code cause index : Nat) : Nat := cl + 2 ^ 5 * (code + 2 ^ 8 * (cause + 2 ^ 8 * index))

def addMark (r : R s0) (id m : Nat) : R s0 := updReq r id fun x => { x with marks := m :: x.marks }

/-- Clusters of a mask in increasing order; 0 names the issuing core's. -/
def clustersOf (mask core : Nat) : List Nat := if mask = 0 then [core / 4] else (List.range 32).filter fun i => mask.testBit i

/-- The lowest-numbered cluster whose code is not DONE decides. -/
def finalStatus (marks : List Nat) (cfgid : Nat) : Word :=
  match leastBy (fun a b => decide (a % 32 < b % 32)) (marks.filter fun m => field m 12 5 ≠ 0) with
  | none => 0
  | some m => cfgStatus (field m 12 5) (field m 20 13) (m / 2 ^ 21) cfgid

/-! ## CFGLD, CFGPIN (R276, R277) -/

/-- Pins after a load where the instruction asks for it. -/
def pinAfter (r : R s0) (cl c cfgid code : Nat) (pin : Bool) : R s0 × Nat :=
  if pin then
    match cacheFind r.s cl c cfgid with
    | some e => let (r1, k) := pinEnt r cl e true; (r1, if k = 2 then 2 else code)
    | none => (r, code)
  else (r, code)

/-- One attempt of CFGLD: cluster after cluster; it waits while a pair loads. -/
def ldClusters (q : Req) (pin : Bool) : List Nat → R s0 → R s0
  | [], r =>
    match getReq r.s q.id with
    | some x => ctlDone r x .data (finalStatus x.marks x.aux) false
    | none => r
  | cl :: l, r =>
    let f := q.firing
    (beginLoad r f.core f.ctx cl (opTok f.a).value.toNat q.id).run q fun r1 x =>
      let r2 := updReq r1 q.id fun y => { y with aux := x.1 }
      match x.2 with
      | .loading => r2
      | .already =>
        let (r3, k) := pinAfter r2 cl f.ctx x.1 1 pin
        ldClusters q pin l (addMark r3 q.id (packMark cl k 0 0))
      | .collision => ldClusters q pin l (addMark r2 q.id (packMark cl 8 0 0))
      | .full => ldClusters q pin l (addMark r2 q.id (packMark cl 2 0 0))

def tryCfgld (pin : Bool) (r : R s0) (q : Req) : R s0 :=
  let f := q.firing
  let a := (opTok f.a).value.toNat
  let b := (opTok f.b).value.toNat
  if 2 ^ 32 ≤ b then ctlErr r q
  else if a % 128 ≠ 0 then faultReq r q (hdrOfInstr q.instr) ⟨.alignment, true, accWords a 7 .rd 0⟩
  else if earlierOpen r.s q false then r
  else
    let todo := (clustersOf b f.core).filter fun cl => !(q.marks.any fun m => m % 32 = cl)
    ldClusters q pin todo r

/-- CFGLD (R276). -/
def execCfgld (h : Hdr) (pin : Bool) (s : State) : Host.Outcome State Fault Refusal :=
  startCtl s h [opTok s.cur.a, opTok s.cur.b] (.cfgld h pin) (reqSrcOf s.cur) (tryCfgld pin)

def tryCfgpin (pin : Bool) (r : R s0) (q : Req) : R s0 :=
  let f := q.firing
  let a := (opTok f.a).value.toNat
  let b := (opTok f.b).value.toNat
  if 2 ^ 32 ≤ b then ctlErr r q
  else (vRead r f.core f.ctx a 128 128).run q fun r1 l =>
    let d := cfgDesc l
    let (r2, marks) := (clustersOf b f.core).foldl (fun (p : R s0 × List Nat) cl =>
      match cacheFind p.1.s cl f.ctx d.cfgid with
      | some e =>
        if e.cfg.digest = d.digest ∧ e.st ≠ .loading then
          let (z, k) := pinEnt p.1 cl e pin
          (z, packMark cl k 0 0 :: p.2)
        else (p.1, packMark cl 6 0 0 :: p.2)
      | none => (p.1, packMark cl 6 0 0 :: p.2)) (r1, [])
    ctlDone r2 q .data (finalStatus marks d.cfgid) false

/-- CFGPIN (R277). -/
def execCfgpin (h : Hdr) (pin : Bool) (s : State) : Host.Outcome State Fault Refusal :=
  startCtl s h [opTok s.cur.a, opTok s.cur.b] (.cfgpin h pin) (reqSrcOf s.cur) (tryCfgpin pin)

/-- Cause of a verdict. -/
def verdictCause (v : Verdict) : Cause :=
  match v.1 with
  | 0x01 => .illegalOp | 0x11 => .permission | 0x12 => .alignment | _ => .reservedField

/-- A rejected load leaves its record (R259). -/
def loadRecord (r : R s0) (e : CacheEnt) (v : Verdict) : R s0 :=
  report r e.cfg.ctx ⟨verdictCause v, false, false, e.core, 7, v.2.1, 0, 0, [e.cfg.addr, v.2.2]⟩ 0 0 v.2.1

/-! ## Queues stop (R225, R264) -/

/-- A queue stops with a cause. -/
def stopQueue (r : R s0) (q : Nat) (cause : Cause) : R s0 :=
  updQueue r q fun x => { x with st := .stopped, cause := BitVec.ofNat 8 (causeCode cause), since := none }

/-- Units that wait for a configuration in a cluster. -/
def waitingFor (s : State) (cl c addr : Nat) : List Work :=
  s.works.filter fun w => decide (w.ctx = c ∧ w.entry = addr ∧ w.core / 4 = cl ∧ w.strand = false ∧ w.st = .waiting)

/-- A load for a placement failed: the queue stops and the units that need it there are cancelled (R264). -/
def failPlacement (r : R s0) (cl c addr : Nat) (cause : Cause) : R s0 :=
  let ws := waitingFor r.s cl c addr
  let r1 := r.each ws fun q w => stopQueue q (q.s.group w.group).queue cause
  r1.each ws cancelWork

/-- CONFIG_LOAD (R259, R263): entry n of a cluster's cache, while Loading, becomes Resident or Absent. -/
def execConfigLoad (cluster n : Nat) (s : State) : Host.Outcome State Fault Refusal :=
  let r := R.start s
  (match (s.cluster cluster).cache[n]? with
   | none => r
   | some e =>
     if e.st ≠ CfgSt.loading then r
     else match e.bad with
       | none =>
         let r1 := updCluster r cluster fun k =>
           { k with cache := k.cache.map fun x => if x = e then { x with st := .resident, by_ := 0 } else x }
         (match getReq r1.s e.by_ with
          | some q =>
            let pin := match q.instr with | .cfgld _ p => p | _ => false
            let (r2, code) := pinAfter r1 cluster e.cfg.ctx e.cfg.cfgid 0 pin
            addMark r2 q.id (packMark cluster code 0 0)
          | none => r1)
       | some v =>
         let r1 := loadRecord (updCluster r cluster fun k => { k with cache := k.cache.erase e }) e v
         (match getReq r1.s e.by_ with
          | some q => addMark r1 q.id (packMark cluster 3 v.1 v.2.1)
          | none => failPlacement r1 cluster e.cfg.ctx e.cfg.addr (verdictCause v))).done

/-! ## Binding (R264, R265, R267, R271) -/

def roleIn (c : Config) (m : Nat) : Nat := c.roles.getD m 0

/-- PEs that hold an ITER node of a configuration (R55). -/
def iterPes (c : Config) : List (Nat × Nat) :=
  c.images.filterMap fun i => if (instrsAt true 0 i.words).any (fun x => match x.2 with | .iter .. => true | _ => false)
    then some (i.x, i.y) else none

/-- Two configurations conflict on a core (R265). -/
def conflicts (a b : Config) : Bool :=
  decide (a.slots &&& b.slots ≠ 0) ||
    ((List.range 32).any fun m =>
      let x := roleIn a m
      let y := roleIn b m
      decide (x ≠ 0 ∨ y ≠ 0) && decide (x ≠ y ∨ a.ctx ≠ b.ctx)) ||
    ((iterPes a).any fun p => (iterPes b).contains p)

def bindingOf (s : State) (core c cfgid : Nat) : Option Binding :=
  (s.core core).bindings.find? fun b => decide (b.cfg.ctx = c ∧ b.cfg.cfgid = cfgid)

def updBinding (r : R s0) (core c cfgid : Nat) (f : Binding → Binding) : R s0 :=
  updCore r core fun k => { k with bindings := k.bindings.map fun b => if b.cfg.ctx = c ∧ b.cfg.cfgid = cfgid then f b else b }

/-- A route entry that named a moved PE names its spare (R271). -/
def reroute (x y a b re : Nat) : Nat :=
  if re / 2 ^ 30 = 0 ∧ field re 29 22 = 16 * x + y then re % 2 ^ 22 + (16 * a + b) * 2 ^ 22 else re

/-- A binding's images at a PE move to a spare. -/
def moveImages (v : Binding) (x y a b : Nat) : Binding :=
  let f (i : Image) : Image :=
    let j := if i.x = x ∧ i.y = y then { i with x := a, y := b } else i
    { j with routes := j.routes.map (reroute x y a b) }
  let home := ((v.moved.find? fun m => decide (m.1 = x ∧ m.2.1 = y)).map fun m => (m.2.2.1, m.2.2.2)).getD (x, y)
  { v with
    cfg := { v.cfg with images := v.cfg.images.map f, fifo := v.cfg.fifo.map (reroute x y a b) }
    moved := (a, b, home.1, home.2) :: v.moved.filter fun m => ¬(m.1 = x ∧ m.2.1 = y) }

/-- The spare that takes a PE's images (R271): not failed, and not used by any binding in the slots moved. -/
def spareFor (k : Core) (v : Binding) (x y : Nat) : Option (Nat × Nat) :=
  let slots := (v.cfg.images.filter fun i => i.x = x ∧ i.y = y).map Image.slot
  v.cfg.spares.find? fun p => !k.failed.contains p &&
    !((v :: k.bindings).any fun b => b.cfg.images.any fun i => decide (i.x = p.1 ∧ i.y = p.2) && slots.contains i.slot)

/-- A new binding with the repairs of the PEs already failed; none without a usable spare. -/
def repaired (k : Core) (v : Binding) : List (Nat × Nat) → Option Binding
  | [] => some v
  | p :: l =>
    if v.cfg.images.any fun i => i.x = p.1 ∧ i.y = p.2 then
      match spareFor k v p.1 p.2 with
      | some q => repaired k (moveImages v p.1 p.2 q.1 q.2) l
      | none => none
    else repaired k v l

/-- Tile roles at a binding (R267); `old` is the configuration unbound in the same step, if any. -/
def setRoles (r : R s0) (core : Nat) (c : Config) (old : Option Config) : R s0 :=
  let r1 := r.each (List.range 32) fun q m =>
    let want := roleIn c m
    let k := q.s.core core
    let t := k.tile m
    let shared := decide (want ≠ 0 ∧ t.role = want) && k.bindings.any fun b => decide (b.cfg.ctx = c.ctx ∧ roleIn b.cfg m = want ∧ b.cfg.cfgid ≠ c.cfgid)
    let kept := decide (want = 1 ∧ t.role = 1) && c.keep.testBit m &&
      (match old with | some o => decide (roleIn o m = 1 ∧ o.ctx = c.ctx) | none => false)
    if want = 0 ∧ t.role = 0 then q
    else updTile q core m fun x => { x with
      role := want, owner := if want = 0 then none else some (c.ctx, c.cfgid),
      bytes := if (shared || kept) && decide (want = 1) then x.bytes else [],
      fifo := if shared && decide (want = 2) then x.fifo else [] }
  -- lines that no longer fit in the cache-role tiles leave the L1 (R166, R267)
  updCore r1 core fun k => { k with l1 := k.l1.take (l1Cap k) }

/-- Binds a Resident configuration on a core (R264); none when a failed PE finds no spare (R272). -/
def bindConfig (r : R s0) (core : Nat) (c : Config) (st : BindSt) (old : Option Config) : Option (R s0) :=
  let k := r.s.core core
  match repaired k ⟨c, st, st, []⟩ k.failed with
  | none => none
  | some b =>
    let cl := core / 4
    let r1 := setRoles r core c old
    let r2 := updCore r1 core fun k => { k with bindings := k.bindings ++ [b] }
    let r3 := updCluster r2 cl fun k =>
      { k with useClk := k.useClk + 1,
               cache := k.cache.map fun e => if e.cfg.ctx = c.ctx ∧ e.cfg.cfgid = c.cfgid then { e with used := k.useClk + 1 } else e }
    some (if c.eager then
      r3.each b.cfg.images fun q i => updPe q core i.x i.y fun p =>
        { p with resident := if p.resident.contains i.slot then p.resident else i.slot :: p.resident }
    else r3)

/-- Unbinds (R51, R279): images, sticky tokens and pending purges of its slots leave every PE. -/
def unbindConfig (r : R s0) (core : Nat) (b : Binding) : R s0 :=
  let mine (n : Nat) : Bool := b.cfg.slots.testBit n
  let r1 := mapPes r core fun p =>
    { p with resident := p.resident.filter (fun n => !mine n)
             store := p.store.filter (fun e => !mine (opTok e.toks).tag.slot.toNat)
             spill := p.spill.filter (fun e => !mine (opTok e.toks).tag.slot.toNat)
             purges := p.purges.filter (fun (k : PKey) => !mine k.slot.toNat) }
  updCore r1 core fun k => { k with bindings := k.bindings.filter fun x => ¬(x.cfg.ctx = b.cfg.ctx ∧ x.cfg.cfgid = b.cfg.cfgid) }

/-! ## Draining and swapping (R270, R278, R279) -/

/-- The core holds no token or request of a binding. -/
def bindingQuiet (s : State) (core : Nat) (b : Config) : Bool :=
  let k := s.core core
  let mine (c : Nat) (t : Tag) : Bool := decide (c = b.ctx) && b.slots.testBit t.slot.toNat
  !(k.flights.any fun x => mine x.ctx x.tok.tag) &&
    (k.pes.all fun p => !(p.2.ready.any fun f => mine f.ctx f.tag) && !(p.2.bufs.any fun x => mine x.ctx x.tok.tag) &&
      !((p.2.store ++ p.2.spill).any fun e => mine e.ctx (opTok e.toks).tag && decide ((opTok e.toks).action = .consume))) &&
    !(s.reqs.any fun q => decide (q.firing.core = core) && decide (q.firing.trestle = none) && mine q.firing.ctx q.firing.tag)

/-- A binding handle (R274): core and cfgid; none for reserved bits. -/
def bindHandle (v : Word) : Option (Nat × Nat) :=
  let n := v.toNat
  if field n 63 39 = 0 then some (field n 38 32, field n 31 0) else none

/-- The issuing unit runs under a binding. -/
def runsUnder (s : State) (f : Firing) (core : Nat) (b : Binding) : Bool :=
  decide (f.trestle = none ∧ f.core = core ∧ f.ctx = b.cfg.ctx) && b.cfg.slots.testBit f.tag.slot.toNat

/-- The drain is over: DONE, an acquire (R282, R401). -/
def drainDone (r : R s0) (q : Req) : R s0 := ctlDone (acquireM r q.firing.core) q .data 0 false

/-- Another CFGDRAIN waits for the same binding. -/
def otherDrain (s : State) (q : Req) : Bool :=
  s.reqs.any fun x => decide (x.id ≠ q.id ∧ x.aux = 1 ∧ x.firing.ctx = q.firing.ctx ∧ (opTok x.firing.a).value = (opTok q.firing.a).value) &&
    (match x.instr with | .cfgdrain _ => true | _ => false)

/-- One attempt of CFGDRAIN: it decides at once, or puts the binding into Draining and waits for its events. -/
def tryCfgdrain (r : R s0) (q : Req) : R s0 :=
  let f := q.firing
  match bindHandle (opTok f.a).value with
  | none => ctlErr r q
  | some (core, id) =>
    if q.aux = 1 then r
    else match bindingOf r.s core f.ctx id with
      | none => ctlDone r q .data (cfgStatus 6 0 0 id) false
      | some b =>
        if runsUnder r.s f core b then ctlDone r q .data (cfgStatus 7 0 0 id) false
        else match b.st with
          | .repairing => ctlDone r q .data (cfgStatus 4 0 0 id) false
          | .drained => drainDone r q
          | st =>
            let prior := if st = .draining then b.prior else st
            if !bindingLive r.s core b.cfg && bindingQuiet r.s core b.cfg then
              drainDone (updBinding r core f.ctx id fun x => { x with st := .drained, prior := prior }) q
            else if (opTok f.b).value = 0 then ctlDone r q .data (cfgStatus 5 0 0 id) false
            else updReq (updBinding r core f.ctx id fun x => { x with st := .draining, prior := prior }) q.id fun x =>
              { x with aux := 1, since := r.s.clk }

/-- CFGDRAIN (R278). -/
def execCfgdrain (h : Hdr) (s : State) : Host.Outcome State Fault Refusal :=
  startCtl s h [opTok s.cur.a, opTok s.cur.b] (.cfgdrain h) (reqSrcOf s.cur) tryCfgdrain

/-- A waiting CFGDRAIN with its handle. -/
def drainReq (s : State) (id : Nat) : Option (Req × Nat × Nat) :=
  match getReq s id with
  | none => none
  | some q => match q.instr with
    | .cfgdrain _ => if q.aux = 1 then (bindHandle (opTok q.firing.a).value).map fun h => (q, h.1, h.2) else none
    | _ => none

/-- DRAIN_COMPLETE (R270, R278): the binding is quiescent with no live unit. -/
def execDrainComplete (id : Nat) (s : State) : Host.Outcome State Fault Refusal :=
  let r := R.start s
  (match drainReq s id with
   | none => r
   | some (q, core, cfgid) => match bindingOf s core q.firing.ctx cfgid with
     | none => ctlDone r q .data (cfgStatus 6 0 0 cfgid) false
     | some b =>
       if ctxMoves s q.firing.ctx = false then r
       else if b.st = BindSt.drained then drainDone r q
       else if decide (b.st ≠ BindSt.repairing) && !bindingLive s core b.cfg && bindingQuiet s core b.cfg then
         drainDone (updBinding r core q.firing.ctx cfgid fun x => { x with st := .drained }) q
       else r).done

/-- DRAIN_TIMEOUT (R278): b clk have passed; the binding returns to its earlier state. -/
def execDrainTimeout (id : Nat) (s : State) : Host.Outcome State Fault Refusal :=
  let r := R.start s
  (match drainReq s id with
   | none => r
   | some (q, core, cfgid) =>
     if q.since + (opTok q.firing.b).value.toNat ≤ s.clk ∧ ctxMoves s q.firing.ctx = true then
       let r1 := if otherDrain s q then r
         else updBinding r core q.firing.ctx cfgid fun x => if x.st = BindSt.draining then { x with st := x.prior } else x
       ctlDone r1 q .data (cfgStatus 5 0 0 cfgid) false
     else r).done

/-- One attempt of CFGSWAP. -/
def tryCfgswap (r : R s0) (q : Req) : R s0 :=
  let f := q.firing
  match bindHandle (opTok f.a).value with
  | none => ctlErr r q
  | some (core, id) =>
    match bindingOf r.s core f.ctx id with
    | none => ctlDone r q .data (cfgStatus 6 0 0 id) false
    | some b =>
      if (b.st ≠ .idle ∧ b.st ≠ .drained) ∨ bindingQuiet r.s core b.cfg = false then ctlDone r q .data (cfgStatus 4 0 0 id) false
      else (vRead r f.core f.ctx (opTok f.b).value.toNat 128 128).run q fun r1 l =>
        let d := cfgDesc l
        match cacheFind r1.s (core / 4) f.ctx d.cfgid with
        | none => ctlDone r1 q .data (cfgStatus 6 0 0 d.cfgid) false
        | some e =>
          if e.st = .loading ∨ e.cfg.digest ≠ d.digest then ctlDone r1 q .data (cfgStatus 6 0 0 d.cfgid) false
          else if (r1.s.core core).bindings.any fun x => !decide (x.cfg.ctx = f.ctx ∧ x.cfg.cfgid = id) && conflicts x.cfg e.cfg then
            ctlDone r1 q .data (cfgStatus 9 0 0 d.cfgid) false
          else match bindConfig (unbindConfig r1 core b) core e.cfg .idle (some b.cfg) with
            | some r2 => ctlDone r2 q .data 0 false
            | none => ctlDone r1 q .data (cfgStatus 9 0 0 d.cfgid) false

/-- CFGSWAP (R279). -/
def execCfgswap (h : Hdr) (s : State) : Host.Outcome State Fault Refusal :=
  startCtl s h [opTok s.cur.a, opTok s.cur.b] (.cfgswap h) (reqSrcOf s.cur) tryCfgswap

/-! ## CFGQRY (R280) -/

/-- Positions of tiles (R261), by class and number; class 5 memory-port, 6 front end. -/
def tilePos (cls n : Nat) : Option (Nat × Nat) :=
  match cls with
  | 0 => some (n % 16, if n < 16 then 0 else 15)
  | 1 => if n = 0 then some (8, 8) else none
  | 2 => if n = 0 then some (15, 4) else if n = 1 then some (15, 11) else none
  | 3 => if n = 0 then some (15, 8) else none
  | 4 => (match n with | 0 => some (4, 4) | 1 => some (11, 4) | 2 => some (4, 11) | 3 => some (11, 11) | _ => none)
  | 5 => if n < 16 then some (0, n) else none
  | 6 => if n = 0 then some (0, 0) else none
  | _ => none

def bindCode (b : BindSt) : Nat := match b with | .live => 1 | .idle => 2 | .draining => 3 | .drained => 4 | .repairing => 5

def cfgCode (x : CfgSt) : Nat := match x with | .absent => 0 | .loading => 1 | .resident => 2 | .pinned => 3

/-- The value of a query; none for an argument out of range. -/
def cfgQuery (s : State) (f : Firing) (sel a : Nat) : Option Nat :=
  match sel with
  | 0 => if a < 2 ^ 8 then (tilePos (a / 32) (a % 32)).map fun p => p.1 * 16 + p.2 else none
  | 1 => if a < 16 then
      some (ofBytesLE ((List.range 4).map fun j => let p := trestlePe a j; BitVec.ofNat 8 (p.1 * 16 + p.2))) else none
  | 2 => if field a 63 39 ≠ 0 then none
    else
      let core := field a 38 32
      match bindingOf s core f.ctx (field a 31 0) with
      | none => some 0
      | some b =>
        let n := (s.works.filter fun w => decide (w.core = core ∧ w.ctx = f.ctx ∧ w.st = .live ∧ w.strand = false) &&
          (match chainOf (s.core core) w.ctx w.num with | some x => decide (x.cfgid = b.cfg.cfgid) | none => false)).length
        some (bindCode b.st + n % 2 ^ 24 * 2 ^ 8)
  | 3 => match (List.range 32).filter fun i => a.testBit i with
    | [cl] => some (match cacheFind s cl f.ctx (field a 63 32) with | some e => cfgCode e.st | none => 0)
    | _ => none
  | 4 => if a < 4 then
      some ((s.core f.core).failed.foldl (fun m p => let n := 16 * p.2 + p.1; if n / 64 = a then m ||| 2 ^ (n % 64) else m) 0)
    else none
  | 5 => if field a 63 48 ≠ 0 ∨ field a 39 39 ≠ 0 then none
    else
      let x := field a 47 44
      let y := field a 43 40
      match bindingOf s (field a 38 32) f.ctx (field a 31 0) with
      | some b => some (match b.moved.find? fun m => decide (m.2.2.1 = x ∧ m.2.2.2 = y) with
        | some m => m.1 * 16 + m.2.1
        | none => x * 16 + y)
      | none => some (x * 16 + y)
  | _ => none

/-- CFGQRY (R280). -/
def execCfgqry (h : Hdr) (x : Fin 6) (s : State) : Host.Outcome State Fault Refusal :=
  acting s h [opTok s.cur.a] fun r =>
    match cfgQuery s s.cur x.val (opTok s.cur.a).value.toNat with
    | some v => reply r s.cur h .data (BitVec.ofNat 64 v) false
    | none => replyErr r s.cur h

/-! ## Repair and replay (R271, R272, R478) -/

/-- Discards every token of a tag on a core with its requests and reports. -/
def dropTag (r : R s0) (core c : Nat) (t : Tag) : R s0 :=
  let r1 := dropReqs r fun q => decide (q.firing.core = core ∧ q.firing.ctx = c ∧ q.firing.trestle = none ∧ q.firing.tag = t)
  let r2 := dropTokens r1 core fun c' u => decide (c' = c ∧ u = t)
  let r3 := r2.each ((r2.s.core core).pes.map Prod.fst) fun q n => trimFrames q core (n % 16) (n / 16) c
  updCore r3 core fun k =>
    { k with
      chains := k.chains.map (fun x => if x.ctx = c ∧ x.unit = t.unit then { x with reps := x.reps.filter fun p => p.1 ≠ t.iter.toNat } else x)
      ports := k.ports.map fun p => (p.1, { p.2 with
        bufs := p.2.bufs.filter (fun b => ¬(b.ctx = c ∧ b.tok.tag = t))
        streams := p.2.streams.map fun x => (x.1, { x.2 with
          early := x.2.early.filter (fun z => ¬(x.2.ctx = c ∧ z.tag = t)), early1 := x.2.early1.filter fun z => ¬(x.2.ctx = c ∧ z.tag = t) }) }) }

/-- Input streams emit the elements of a tag again from what they retain. -/
def resend (r : R s0) (core c : Nat) (t : Tag) : R s0 :=
  let l := (r.s.core core).ports.flatMap fun p => p.2.streams.filterMap fun x =>
    if x.2.output = false ∧ x.2.st ≠ .free ∧ x.2.ctx = c ∧ x.2.unit = t.unit ∧ x.2.slot = t.slot.toNat ∧
        (t.iter - x.2.ibase).toNat < x.2.emitted then some (p.1, x.1, x.2) else none
  r.each l fun q e =>
    let (p, sc, x) := e
    let y := x.at (t.iter - x.ibase).toNat
    match y.nextItem with
    | .stop l => sendStop q core p sc y l (y.runSize l)
    | .elem => match readElem q core y with
      | (q1, .val (l, v, bad)) => sendElem q1 core p sc y (elemToks y l) (if y.mode = 2 then some (BitVec.ofNat 64 v) else none) bad
      | (q1, _) => q1

/-- A unit whose tag cannot be replayed is cancelled with an UNCORRECTABLE record whose w2 is 1. -/
def cancelTag (r : R s0) (core c : Nat) (t : Tag) (w0 : Nat) : R s0 :=
  let r1 := report r c ⟨.uncorrectable, false, true, core, 0, 0xFFFF, tagNat t, 0, [w0, tagNat t, 1]⟩ t.unit.toNat t.iter.toNat 0xFFFF
  match workOf r1.s core c t.unit with
  | some w => cancelWork r1 w
  | none => r1

/-- The refused tags of a core are replayed, or their units cancelled (R478). -/
def replayRefused (r : R s0) (core : Nat) (w0 : Nat) : R s0 :=
  let l := (r.s.core core).refused
  let r1 := updCore r core fun k => { k with refused := [] }
  r1.each l fun q e =>
    if (q.s.core core).noReplay.contains e then cancelTag q core e.1 e.2 w0
    else resend (dropTag q core e.1 e.2) core e.1 e.2

/-- Blocks discarded for POISON run again (R478). -/
def rerunBlocks (r : R s0) (core : Nat) : R s0 :=
  r.each ((r.s.core core).strands.filter fun x => decide (x.st = .trapped ∧ x.rerun = 1)) fun q x =>
    updStrand (resumeStrand q core x.ctx x.unit none) core x.ctx x.unit fun y => { y with rerun := 2 }

/-- A binding without a usable spare is stopped (R272). -/
def noSpare (r : R s0) (core : Nat) (b : Binding) (x y : Nat) : R s0 :=
  let ws := r.s.works.filter fun w => decide (w.core = core ∧ w.ctx = b.cfg.ctx ∧ w.st = .live ∧ w.strand = false) &&
    (match chainOf (r.s.core core) w.ctx w.num with | some z => decide (z.cfgid = b.cfg.cfgid) | none => false)
  let r1 := reportPlain r b.cfg.ctx ⟨.uncorrectable, false, false, core, 0, 0xFFFF, 0, 0, [2 ^ 63 + x * 16 + y, 0, 1]⟩
  let r2 := unbindConfig (r1.each ws cancelWork) core b
  updCore r2 core fun k => { k with banned := (b.cfg.ctx, b.cfg.cfgid) :: k.banned }

/-- Tags of a context's tokens resident, buffered or spilled at a PE. -/
def tagsAt (p : Pe) (c : Nat) : List Tag :=
  (p.bufs.filterMap (fun b => if b.ctx = c then some b.tok.tag else none) ++
    (p.store ++ p.spill).filterMap (fun e => if e.ctx = c then some (opTok e.toks).tag else none) ++
    p.ready.filterMap (fun f => if f.ctx = c then some f.tag else none)).eraseDups

/-- Repair of one binding at a failed PE (R271). -/
def repairBinding (r : R s0) (core x y : Nat) (b : Binding) : R s0 :=
  match spareFor (r.s.core core) b x y with
  | none => noSpare r core b x y
  | some (a, c) =>
    let mine (t : Tag) : Bool := b.cfg.slots.testBit t.slot.toNat
    let tags := (tagsAt ((r.s.core core).pe x y) b.cfg.ctx).filter mine
    let r1 := updPe r core x y fun p =>
      { p.dropTokens (fun d t => decide (d = b.cfg.ctx) && mine t) with resident := p.resident.filter fun n => !b.cfg.slots.testBit n }
    let r2 := updCore r1 core fun k =>
      { k with
        bindings := k.bindings.map (fun v => if v = b then { moveImages b x y a c with st := b.prior } else v)
        refused := k.refused ++ (tags.map fun t => (b.cfg.ctx, t)).filter (fun e => !k.refused.contains e)
        flights := k.flights.map (fun f => if f.ctx = b.cfg.ctx ∧ mine f.tok.tag ∧ f.dest = .pe x y then { f with dest := .pe a c } else f)
        ports := k.ports.map fun p => (p.1, { p.2 with streams := p.2.streams.map fun z =>
          (z.1, if z.2.ctx = b.cfg.ctx ∧ b.cfg.slots.testBit z.2.slot then
            { z.2 with route := reroute x y a c z.2.route, croute := reroute x y a c z.2.croute } else z.2) }) }
    r2

/-- SPARE_REPAIR (R271, R478): the bindings Repairing for a failed PE move its images to a spare; then the refused tags of
the core are replayed. -/
def execSpareRepair (core x y : Nat) (s : State) : Host.Outcome State Fault Refusal :=
  let r := R.start s
  let k := s.core core
  let r1 := if k.failed.contains (x, y) then
      r.each (k.bindings.filter fun b => decide (b.st = .repairing) && b.cfg.images.any (fun i => i.x = x ∧ i.y = y)) fun q b =>
        repairBinding q core x y b
    else r
  (if (r1.s.core core).bindings.any (fun b => decide (b.st = .repairing)) then r1
   else rerunBlocks (replayRefused r1 core (2 ^ 63 + x * 16 + y)) core).done

end Sys2Proof.Machine
end

