-- ==== Sys2Proof/Machine/Launch.lean ====
section
/-!
DEFINITION. Queues, launches and groups (R222 to R249): doorbells and queue states, the launch record, arbitration, placement, and the
instructions LAUNCH, UNITEND, YIELD, GRPCNT, GRPWAIT and GRPCAN; the events DOORBELL, QUEUE_ENABLE, QUEUE_DISABLE, RECORD_TAKE
and UNIT_TAKES_PLACE; and the passage of time.
-/

set_option linter.unusedVariables false

namespace Sys2Proof.Machine

open Sys2Proof

variable {s0 : State}

/-! ## Queues (R222 to R225) -/

def Queue.entries (x : Queue) : Nat := 16 * 2 ^ x.size.toNat

/-- Virtual address of the ring slot of record n. -/
def Queue.slotVa (x : Queue) (n : Nat) : Nat := x.base.toNat / 64 * 64 + 64 * (n % x.entries)

/-- A queue stops with a record to its owning context (R225). -/
def stopRecorded (r : R s0) (q : Nat) (cause : Cause) (words : List Nat) : R s0 :=
  reportPlain (stopQueue r q cause) (r.s.queue q).ctx.toNat ⟨cause, false, false, 0xFF, 6, 0xFFFF, 0, 0, words⟩

/-- A doorbell (R224): a tail behind head, or too far ahead of it, stops the queue. -/
def ringBell (r : R s0) (q : Nat) (v : Word) : R s0 :=
  let x := r.s.queue q
  let t : BitVec 32 := v.setWidth 32
  match x.st with
  | .disabled => r
  | st =>
    if x.entries < (t - x.head).toNat then
      (match st with | .draining => r | _ => stopRecorded r q .reservedField [])
    else updQueue r q fun y => { y with tail := t }

/-- DOORBELL (R224). -/
def execDoorbell (q : Nat) (v : Word) (s : State) : Host.Outcome State Fault Refusal := (ringBell (R.start s) q v).done

/-- State written 01 (R225): units that a failed load keeps unplaced may be placed again (R264). -/
def enableQueue (r : R s0) (q : Nat) : R s0 :=
  let again (r : R s0) : R s0 :=
    let s := r.s
    updWorks r fun l => l.map fun w => if (s.group w.group).queue = q then { w with stalled := false } else w
  match (r.s.queue q).st with
  | .disabled => again (updQueue r q fun x => { x with st := .enabled, cause := 0, head := 0, tail := 0, open_ := [], since := none })
  | .stopped => again (updQueue r q fun x => { x with st := .enabled, cause := 0, since := none })
  | _ => r

/-- State written 00 (R225). -/
def disableQueue (r : R s0) (q : Nat) : R s0 :=
  match (r.s.queue q).st with
  | .enabled | .stopped => drainCheck (updQueue r q fun x => { x with st := .draining, cause := 0, since := none }) q
  | _ => r

/-- QUEUE_ENABLE (R225). -/
def execQueueEnable (q : Nat) (s : State) : Host.Outcome State Fault Refusal := (enableQueue (R.start s) q).done

/-- QUEUE_DISABLE (R225). -/
def execQueueDisable (q : Nat) (s : State) : Host.Outcome State Fault Refusal := (disableQueue (R.start s) q).done

/-! ## Launch records (R226, R227) -/

/-- A launch record as its eight words. -/
structure LRec where
  w : List Nat
deriving DecidableEq, Repr

def LRec.word (x : LRec) (k : Nat) : Nat := x.w.getD k 0
def LRec.kind (x : LRec) : Nat := field (x.word 0) 63 62
def LRec.level (x : LRec) : Nat := field (x.word 0) 61 59
def LRec.config (x : LRec) : Bool := (x.word 0).testBit 58
def LRec.fuse (x : LRec) : Bool := (x.word 0).testBit 57
def LRec.waitp (x : LRec) : Bool := (x.word 0).testBit 56
def LRec.dies (x : LRec) : Nat := field (x.word 0) 55 52
def LRec.dep0 (x : LRec) : Nat := field (x.word 0) 47 32
def LRec.dep1 (x : LRec) : Nat := field (x.word 0) 31 16
def LRec.ubase (x : LRec) : Nat := field (x.word 0) 12 0
def LRec.entry (x : LRec) : Nat := x.word 1
def LRec.seed (x : LRec) : Nat := field (x.word 2) 63 48
def LRec.nx (x : LRec) : Nat := field (x.word 2) 15 0 + 1
def LRec.ny (x : LRec) : Nat := field (x.word 2) 31 16 + 1
def LRec.nz (x : LRec) : Nat := field (x.word 2) 47 32 + 1
def LRec.fbase (x : LRec) : Nat := x.word 3
def LRec.cvalue (x : LRec) : Nat := field (x.word 4) 63 32
def LRec.fstride (x : LRec) : Nat := field (x.word 4) 31 0
def LRec.anchor (x : LRec) : Nat := x.word 5
def LRec.caddr (x : LRec) : Nat := x.word 7

def lrecOf (l : List Byte) : LRec := ⟨(List.range 8).map fun i => fieldLE l (8 * i) 8⟩

/-- The current group of a level (R229). -/
def Queue.curOf (x : Queue) (level : Nat) : Option Nat :=
  match level with
  | 2 => x.cur2
  | 3 => x.cur3
  | 4 => x.cur4
  | _ => none

def Queue.setCur (x : Queue) (level : Nat) (g : Option Nat) : Queue :=
  match level with
  | 2 => { x with cur2 := g }
  | 3 => { x with cur3 := g }
  | 4 => { x with cur4 := g }
  | _ => x

/-- A record that its queue stops on (R227). -/
def LRec.bad (x : LRec) (q : Queue) : Bool :=
  let w0 := x.word 0
  decide (x.kind = 3 ∨ x.level = 0 ∨ 5 ≤ x.level ∨ field w0 51 48 ≠ 0 ∨ field w0 15 13 ≠ 0 ∨ x.caddr % 16 ≠ 0) ||
  (if x.kind = 0 then
    decide (x.level ≠ 1 ∨ x.dies = 0 ∨ 2 ^ 24 < x.nx * x.ny * x.nz ∨ field (x.word 6) 63 60 ≠ 0) ||
      (!x.config && decide (x.fbase % 64 ≠ 0 ∨ x.fstride % 64 ≠ 0 ∨ x.fstride < 576))
  else
    decide (field w0 58 57 ≠ 0 ∨ x.dies ≠ 0 ∨ x.ubase ≠ 0 ∨ x.fstride ≠ 0) ||
      ([1, 2, 3, 5, 6].any fun k => decide (x.word k ≠ 0)) ||
      (if x.kind = 1 then decide (x.level = 1) else (q.curOf x.level).isNone))

/-! ## The head of a queue (R227, R228) -/

/-- What stands at the head of a queue. -/
inductive QHead where
  | none
  | bad (cause : Cause) (words : List Nat)
  | here (x : LRec)

/-- Reads the head record; a host's half that stands in the way is asked for. -/
def readHead (r : R s0) (q : Nat) : R s0 × QHead :=
  let x := r.s.queue q
  let c := x.ctx.toNat
  if x.st ≠ .enabled ∨ x.head = x.tail ∨ ctxMoves r.s c = false then (r, .none)
  else match checkWalk r.s c (x.slotVa x.head.toNat) 64 .rd false with
    | .fault e => (r, .bad e.cause e.words)
    | .ok pa _ => match physRead r pa 64 with
      | (r1, .val l) =>
        let y := lrecOf l
        if y.bad x then (r1, .bad .reservedField []) else (r1, .here y)
      | (r1, _) => (r1, .none)

/-- Record n − d of a queue is complete (R227, R228). -/
def depDone (x : Queue) (d : Nat) : Bool :=
  let n := (x.head - BitVec.ofNat 32 d).toNat
  d = 0 || !(x.open_.any fun e => e.1 = n)

/-- The head is dispatchable (R228). -/
def dispatchable (x : Queue) (y : LRec) : Bool :=
  depDone x y.dep0 && depDone x y.dep1 && (!y.waitp || depDone x 1)

/-- Queues of a die that have a descriptor written. -/
def queuesOf (s : State) (die : Nat) : List Nat := (s.queues.map Prod.fst).filter fun q => q / 4096 = die

/-- The scheduler looks at every head of its die: a bad one stops its queue, and the time since which a head has been
dispatchable is noted (R236). Gives the dispatchable heads. -/
def lookHeads (r : R s0) : List Nat → List (Nat × LRec) → R s0 × List (Nat × LRec)
  | [], acc => (r, acc.reverse)
  | q :: l, acc =>
    match readHead r q with
    | (r1, .none) => lookHeads r1 l acc
    | (r1, .bad c ws) => lookHeads (stopRecorded r1 q c ws) l acc
    | (r1, .here y) =>
      if dispatchable (r1.s.queue q) y then
        let r2 := if (r1.s.queue q).since = none then updQueue r1 q fun x => { x with since := some r1.s.clk } else r1
        lookHeads r2 l ((q, y) :: acc)
      else lookHeads r1 l acc

/-! ## Groups (R229, R230, R240) -/

/-- A free entry of a die's group table: unused, or complete and no queue's current group. -/
def freeEntry (s : State) (die : Nat) : Nat → Nat → Option Nat
  | 0, _ => none
  | fuel + 1, i =>
    let g := die * 8192 + i
    let x := s.group g
    if !x.used || (x.done && !(s.queues.any fun q => decide (q.2.cur2 = some g ∨ q.2.cur3 = some g ∨ q.2.cur4 = some g))) then some g
    else freeEntry s die fuel (i + 1)

/-- Group handle of an entry (R240). -/
def groupHandle (g : Nat) (x : Group) : Nat :=
  x.ctx * 2 ^ 24 + x.level * 2 ^ 21 + g / 8192 * 2 ^ 19 + g % 8192 * 2 ^ 6 + x.gen

/-- The current group of the nearest level above (R229). -/
def parentOf (x : Queue) (level : Nat) : Option Nat :=
  ((List.range 5).filter fun l => level < l).findSome? x.curOf

/-- Creates a group or launch with its handle, as a member of its parent; a launch is closed as soon as it is taken. -/
def newGroup (r : R s0) (q g : Nat) (y : LRec) (count : Nat) : R s0 :=
  let x := r.s.queue q
  let old := r.s.group g
  let p := parentOf x y.level
  let e : Group :=
    { used := true, gen := if old.used then (old.gen + 1) % 64 else 0, level := y.level, ctx := x.ctx.toNat, parent := p,
      counter := count, closed := decide (y.kind = 0), cancelled := false, done := false, cvalue := y.cvalue, caddr := y.caddr,
      queue := q }
  let r1 := updGroup r g fun _ => e
  let r2 := match p with
    | some p => updGroup r1 p fun z => { z with counter := z.counter + 1 }
    | none => r1
  r2.when (y.caddr ≠ 0) fun z => moduleWrite z e.ctx (y.caddr + 8) (bytesLE 8 (groupHandle g e))

/-! ## Placement (R232, R233) -/

/-- The core of unit (x, y, z) of a record. -/
def corePlace (s : State) (c : Nat) (y : LRec) (ux uy uz : Nat) : Nat :=
  let h := (ux * 0x9E37 + uy * 0x85EB + uz * 0xC2B3 + y.seed) % 2 ^ 16
  let ds := (List.range 4).filter fun d => y.dies.testBit d
  let hashed := ds.getD (h / 32 % ds.length) 0 * 32 + h % 32
  if y.anchor = 0 then hashed
  else
    let w := y.word 6
    let a := (y.anchor + 128 * (ux * field w 19 0 + uy * field w 39 20 + uz * field w 59 40)) % 2 ^ 64
    if 2 ^ 48 ≤ a then hashed
    else match walk s c a with
      | .fault .. => hashed
      | .ok pa _ _ _ =>
        let d := homeDie (localPa s pa)
        if isRemote s pa = false ∧ ds.contains d = true then d * 32 + 4 * (homeSlice (localPa s pa) / 48) + h % 4 else hashed

/-- Unit k of a launch. -/
def unitOf (s : State) (c g cls order : Nat) (y : LRec) (k : Nat) : Work :=
  { ctx := c, num := BitVec.ofNat 13 (y.ubase + k),
    core := corePlace s c y (k % y.nx) (k / y.nx % y.ny) (k / (y.nx * y.ny)),
    st := .waiting, group := g, k := k, strand := !y.config, fuse := y.fuse, entry := y.entry,
    frame := if y.config then 0 else (y.fbase + k * y.fstride) % 2 ^ 64, cls := cls, order := order, ended := false,
    cancelled := false, steps := 0, stalled := false }

/-! ## Arbitration (R236, R237) -/

/-- Class of a head after ageing. -/
def agedClass (s : State) (q : Nat) : Nat :=
  let x := s.queue q
  let c := x.cls.toNat
  if c = 0 ∨ x.age = 0 then c
  else max 1 (c - (s.clk - x.since.getD s.clk) / (x.age.toNat * 1024))

/-- Weighted round robin among the queues of one class. -/
def roundRobin (s : State) (die c : Nat) (qs : List Nat) : Option (Nat × Nat) :=
  let p := (s.die die).rr.find? fun x => x.1 = c
  let next (last : Option Nat) : Option (Nat × Nat) :=
    ((qs.find? fun q => match last with | some l => l < q | none => true).orElse fun _ => qs.head?).map fun q => (q, 1)
  match p with
  | some (_, q, n) => if qs.contains q ∧ n < (s.queue q).weight.toNat then some (q, n + 1) else next (some q)
  | none => next none

/-- Takes a record (R228, R229, R230, R246). -/
def takeRecord (r : R s0) (q cls : Nat) (y : LRec) : R s0 :=
  let x := r.s.queue q
  let n := x.head.toNat
  let c := x.ctx.toNat
  let r1 := updQueue r q fun z => { z with head := z.head + 1, since := none }
  if y.kind = 2 then
    match x.curOf y.level with
    | none => r1
    | some g =>
      let r2 := updQueue r1 q fun z =>
        let z1 := z.setCur y.level none
        if (r.s.group g).done then z1 else { z1 with open_ := z1.open_ ++ [(n, g)] }
      settleGroup 6 (updGroup r2 g fun z => { z with closed := true }) g
  else match freeEntry r1.s (q / 4096) 8192 0 with
    | none => r
    | some g =>
      let dead := match parentOf x y.level with | some p => (r.s.group p).cancelled | none => false
      let count := if y.kind = 0 ∧ dead = false then y.nx * y.ny * y.nz else 0
      let r2 := newGroup r1 q g y count
      let r3 := updQueue r2 q fun z => { z with open_ := z.open_ ++ [(n, g)] }
      let r4 := if y.kind = 1 then updQueue r3 q fun z => z.setCur y.level (some g) else r3
      if dead then settleGroup 6 (updGroup r4 g fun z => { z with cancelled := true, closed := true }) g
      else if y.kind = 0 then
        let o := r4.s.order
        (updWorks r4 fun l => l ++ (List.range count).map (unitOf r4.s c g cls o y)).eff .nextOrder
      else r4

/-- RECORD_TAKE (R228, R236): a die's scheduler takes the record that wins. -/
def execRecordTake (die : Nat) (s : State) : Host.Outcome State Fault Refusal :=
  let (r, heads) := lookHeads (R.start s) (queuesOf s die) []
  let ok := heads.filter fun (h : Nat × LRec) => decide (h.2.kind = 2) || (freeEntry r.s die 8192 0).isSome
  (match leastBy (fun a b => decide (a < b)) (ok.map fun (h : Nat × LRec) => agedClass r.s h.1) with
   | none => r
   | some c =>
     let mine := ok.filter fun (h : Nat × LRec) => agedClass r.s h.1 = c
     match roundRobin r.s die c (mine.map Prod.fst) with
     | none => r
     | some (q, n) => match mine.find? fun (h : Nat × LRec) => h.1 = q with
       | none => r
       | some h => takeRecord (updDie r die fun d => { d with rr := (c, q, n) :: d.rr.filter fun z => z.1 ≠ c }) q c h.2).done

/-- The watchdog of each mapped instance counts, unless it is paused (R210). -/
def countInstances (r : R s0) (n : Nat) : R s0 :=
  r.each (r.s.cores.map Prod.fst) fun q c =>
    q.each ((q.s.core c).trestles.map Prod.fst) fun z t =>
      if instPaused z.s c t then z
      else updInst z c t fun i => if i.mapped && ctxMoves z.s i.ctx then { i with count := i.count + n } else i

/-- `n` clk pass: the heads that have become dispatchable begin to age (R236), the watchdogs count (R210), and copy engines
copy (R366). -/
def tickAll (r : R s0) (n : Nat) : R s0 :=
  let r1 := r.each (List.range 4) fun q d => if (queuesOf q.s d).isEmpty then q else (lookHeads q (queuesOf q.s d) []).1
  copyTick (countInstances (r1.eff (.tick n)) n) n

/-! ## Taking a place (R234, R235, R264, R265) -/

/-- Order in which units of a core take places (R234, R237). -/
def workBefore (a b : Work) : Bool :=
  decide (a.cls < b.cls) || (decide (a.cls = b.cls) && (decide (a.order < b.order) || (decide (a.order = b.order ∧ a.k < b.k))))

/-- A unit becomes Live on its core. -/
def makeLive (r : R s0) (w : Work) : R s0 :=
  let r1 := updWorks r fun l => l.map fun x => if x = w then { x with st := .live } else x
  updCtx r1 w.ctx fun x => { x with st := if x.st = .idle then .running else x.st }

/-- Fusion of a unit's cluster (R235): it changes only while no unit runs there. -/
def fuseReady (r : R s0) (w : Work) : R s0 × Bool :=
  let cl := w.core / 4
  if (r.s.cluster cl).fused = w.fuse then (r, true)
  else if r.s.works.any fun x => decide (x.core / 4 = cl ∧ x.st = .live) then (r, false)
  else (updCluster r cl fun k => { k with fused := w.fuse }, true)

/-- A strand unit takes its place. -/
def placeStrand (r : R s0) (w : Work) : R s0 :=
  if 64 ≤ (r.s.core w.core).strands.length then r
  else
    updCore (makeLive r w) w.core fun k =>
      { k with strands := k.strands ++ [⟨w.ctx, w.num, BitVec.ofNat 64 w.frame, BitVec.ofNat 64 w.entry, .ready, Frame.init, none,
                                         w.steps, none, 0⟩] }

/-- A unit whose configuration a core no longer takes goes to the next core of its die that can (R272). -/
def movePlace (r : R s0) (w : Work) (cfgid : Nat) : R s0 :=
  let d := w.core / 32
  let next := ((List.range 31).map fun k => d * 32 + (w.core % 32 + k + 1) % 32).find? fun c =>
    !(r.s.core c).banned.contains (w.ctx, cfgid)
  match next with
  | some c => updWorks r fun l => l.map fun x => if x = w then { x with core := c } else x
  | none => r

/-- Opens the streams of a binding table (R283, R288). -/
def openPorts (r : R s0) (w : Work) : List (Nat × Bool × Nat) → List (Nat × Stream) → GotR s0 (List (Nat × Stream))
  | [], acc => (r, .val acc.reverse)
  | p :: l, acc => (openStream r w.core w.ctx w.num w.k p.2.2).then fun q t => openPorts q w l ((p.1, t) :: acc)

/-- A record of a placement. -/
def placeRec (r : R s0) (w : Work) (source : Nat) (e : AccFault) : R s0 :=
  reportPlain r w.ctx ⟨e.cause, !e.final, false, w.core, source, 0xFFFF, 0, 0, e.words⟩

/-- A restartable fault of a placement: the queue stops, and the launch's units wait unplaced (R264). -/
def stallPlace (r : R s0) (w : Work) (source : Nat) (e : AccFault) : R s0 :=
  let r1 := placeRec (stopQueue r (r.s.group w.group).queue e.cause) w source e
  updWorks r1 fun l => l.map fun x => if x.group = w.group ∧ x.st = .waiting then { x with stalled := true } else x

/-- A unit takes its place under a binding that is there: its streams open, its chain begins. -/
def startUnit (r : R s0) (w : Work) (c : Config) : R s0 :=
  let busy := c.ports.any fun p => (((r.s.core w.core).port p.1).stream 0).live
  let live := r.s.works.countP fun x => decide (x.core = w.core ∧ x.ctx = w.ctx ∧ x.st = .live ∧ x.strand = false) &&
    (match chainOf (r.s.core w.core) x.ctx x.num with | some k => decide (k.cfgid = c.cfgid) | none => false)
  if busy || (!(iterPes c).isEmpty && decide (16 ≤ live)) then r
  else match openPorts r w c.ports [] with
    | (r1, .wait) => r1
    | (r1, .fault e) =>
      if e.final then
        countDown (updWorks (placeRec (stopQueue r1 (r1.s.group w.group).queue e.cause) w 2 e) fun l => l.erase w) w.group true
      else stallPlace r1 w 2 e
    | (r1, .val ts) =>
      let r2 := updBinding (makeLive r1 w) w.core w.ctx c.cfgid fun b => { b with st := .live, prior := .live }
      let r3 := updCore r2 w.core fun k =>
        { k with chains := ⟨w.ctx, w.num, c.cfgid, c.ibase, 0, []⟩ :: k.chains.filter fun x => ¬(x.ctx = w.ctx ∧ x.unit = w.num) }
      r3.each ts fun q t => updStream q w.core t.1 0 fun _ => t.2

/-- Binds a Resident configuration for a unit, where nothing live conflicts with it. -/
def bindFor (r : R s0) (w : Work) (c : Config) : R s0 :=
  match bindingOf r.s w.core w.ctx c.cfgid with
  | some b =>
    (match b.st with
     | .draining | .repairing => r
     | _ => startUnit r w b.cfg)
  | none =>
    let others := (r.s.core w.core).bindings.filter fun b => conflicts b.cfg c
    if others.any fun b => bindingLive r.s w.core b.cfg || decide (b.st = .live ∨ b.st = .draining ∨ b.st = .repairing) then r
    else
      let r1 := r.each others fun q b => unbindConfig q w.core b
      match bindConfig r1 w.core c .idle none with
      | some r2 => (match bindingOf r2.s w.core w.ctx c.cfgid with
        | some b => startUnit r2 w b.cfg
        | none => r2)
      | none =>
        movePlace (updCore r w.core fun k => { k with banned := (w.ctx, c.cfgid) :: k.banned }) w c.cfgid

/-- A configuration unit takes its place. -/
def placeConfig (r : R s0) (w : Work) : R s0 :=
  let cl := w.core / 4
  if w.entry % 128 ≠ 0 then
    failPlacement (placeRec r w 7 ⟨.alignment, true, accWords w.entry 7 .rd 0⟩) cl w.ctx w.entry .alignment
  else match beginLoad r w.core w.ctx cl w.entry 0 with
    | (r1, .wait) => r1
    | (r1, .fault e) =>
      if e.final = false then stallPlace r1 w 7 e
      else failPlacement (placeRec r1 w 7 e) cl w.ctx w.entry e.cause
    | (r1, .val (cfgid, res)) => match res with
      | .loading | .full => r1
      | .collision => failPlacement (placeRec r1 w 7 ⟨.reservedField, true, [w.entry, cfgid]⟩) cl w.ctx w.entry .reservedField
      | .already =>
        if (r1.s.core w.core).banned.contains (w.ctx, cfgid) then movePlace r1 w cfgid
        else match cacheFind r1.s cl w.ctx cfgid with
          | some e => bindFor r1 w e.cfg
          | none => r1

/-- UNIT_TAKES_PLACE (R234, R235, R264): the first unit that waits on a core becomes Live if it can. -/
def execUnitTakesPlace (core : Nat) (s : State) : Host.Outcome State Fault Refusal :=
  let r := R.start s
  (match leastBy workBefore (s.works.filter fun (w : Work) => decide (w.core = core ∧ w.st = UnitSt.waiting) && ctxMoves s w.ctx) with
   | none => r
   | some w =>
     if w.stalled || (s.works.any fun (x : Work) => decide (x.core = core ∧ x.ctx = w.ctx ∧ x.num = w.num ∧ x.st = UnitSt.live)) then r
     else
       let (r1, ok) := fuseReady r w
       if ok then (if w.strand then placeStrand r1 w else placeConfig r1 w) else r1).done

/-! ## LAUNCH, UNITEND, YIELD (R243, R244) -/

/-- One attempt of LAUNCH. -/
def tryLaunch (n : Nat) (r : R s0) (q : Req) : R s0 :=
  let f := q.firing
  let h := hdrOfInstr q.instr
  let a := (opTok f.a).value.toNat
  let x := r.s.queue n
  if a % 64 ≠ 0 then faultReq r q h ⟨.alignment, true, accWords a 7 .rd 0⟩
  else if x.ctx.toNat ≠ f.ctx ∧ (r.s.ctx f.ctx).priv = .user then faultReq r q h ⟨.permission, true, []⟩
  else if x.st ≠ .enabled then ctlErr r q
  else if ctxMoves r.s x.ctx.toNat = false ∨ (x.tail - x.head).toNat = x.entries ∨ earlierOpen r.s q true = true then r
  else (vRead r f.core f.ctx a 64 64).run q fun r1 l =>
    (vPrep r1 f.core x.ctx.toNat (x.slotVa x.tail.toNat) 64 64 .wr).run q fun r2 p =>
      let r3 := homeWrite r2 (.core f.core) p.2 true p.1 l
      ctlDone (updQueue r3 n fun y => { y with tail := y.tail + 1 }) q .data (x.tail.setWidth 64) false

/-- LAUNCH (R243). -/
def execLaunch (h : Hdr) (q : Fin 16384) (s : State) : Host.Outcome State Fault Refusal :=
  startAct s h [opTok s.cur.a] (.launch h q) (tryLaunch q.val)

/-- One attempt of UNITEND: it waits until the accesses before it are performed (R231, R244). -/
def tryUnitend (r : R s0) (q : Req) : R s0 :=
  let f := q.firing
  match workOf r.s f.core f.ctx f.tag.unit with
  | none => ctlDone r q .data 0 false
  | some w =>
    if earlierOpen r.s q true then r
    else completeUnit (ctlDone r q .data 1 false) w w.strand false

/-- UNITEND (R244). -/
def execUnitend (h : Hdr) (s : State) : Host.Outcome State Fault Refusal :=
  startAct s h [opTok s.cur.a] (.unitend h) tryUnitend

/-- YIELD at its turn: in a configuration a passes unchanged; in a block the commit moves the strand. -/
def tryYield (r : R s0) (q : Req) : R s0 := ctlDone r q .data (opTok q.firing.a).value false

/-- YIELD (R244). -/
def execYield (h : Hdr) (s : State) : Host.Outcome State Fault Refusal :=
  startAct s h [opTok s.cur.a] (.yield h) tryYield

/-- A unit waits for a resident place on a core (R234, R244). -/
def placeWanted (s : State) (core : Nat) : Bool :=
  decide (64 ≤ (s.core core).strands.length) &&
    s.works.any fun w => decide (w.core = core ∧ w.st = .waiting ∧ w.strand = true) && ctxMoves s w.ctx

/-- A strand that yields its place leaves the core with its frame written back, and waits anew (R244). -/
def leaveCore (r : R s0) (core c : Nat) (u : BitVec 13) : R s0 :=
  match strandOf (r.s.core core) c u with
  | none => r
  | some x =>
    let r1 := dropStrand (writeBack r core c u) core c u
    let o := r1.s.order
    (updWorks r1 fun l => l.map fun w =>
      if w.core = core ∧ w.ctx = c ∧ w.num = u ∧ w.st = .live ∧ w.strand = true then
        { w with st := .waiting, entry := x.bp.toNat, frame := x.fp.toNat, steps := x.steps, order := o }
      else w).eff .nextOrder

/-! ## GRPCNT, GRPWAIT, GRPCAN (R240, R241, R245, R246) -/

/-- What a group handle names. -/
inductive GItem where
  | unit (w : Work)
  | group (g : Nat)
  | gone

def itemOf (s : State) (v : Nat) : GItem :=
  let c := field v 35 24
  if field v 23 21 = 0 then
    match s.works.find? fun w => decide (w.core = field v 20 14 ∧ w.num.toNat = field v 13 1 ∧ w.ctx = c ∧ w.ended = false) with
    | some w => .unit w
    | none => .gone
  else
    let g := field v 20 19 * 8192 + field v 18 6
    let x := s.group g
    if x.used && decide (x.gen = field v 5 0 ∧ x.level = field v 23 21 ∧ x.ctx = c) then .group g else .gone

/-- Status of an item (R241): a completed one reads done and closed. -/
def itemStatus (s : State) (x : GItem) : Nat :=
  match x with
  | .unit _ => 2 ^ 61 + 1
  | .gone => 2 ^ 63 + 2 ^ 61
  | .group g =>
    let y := s.group g
    (if y.done then 2 ^ 63 else 0) + (if y.cancelled then 2 ^ 62 else 0) + (if y.closed || y.done then 2 ^ 61 else 0) +
      y.counter % 2 ^ 32

def itemDone (s : State) (x : GItem) : Bool :=
  match x with
  | .unit _ => false
  | .gone => true
  | .group g => (s.group g).done

/-- The unit that issued a firing, ended or not. -/
def issuer (s : State) (f : Firing) : Option Work :=
  s.works.find? fun w => decide (w.core = f.core ∧ w.ctx = f.ctx ∧ w.num = f.tag.unit ∧ w.st = .live)

/-- The issuing unit belongs to the item. -/
def insideItem (s : State) (f : Firing) (x : GItem) : Bool :=
  match issuer s f with
  | none => false
  | some w => match x with
    | .unit y => decide (y = w)
    | .group g => inItem s g 5 w.group
    | .gone => false

/-- A handle with reserved bits or level. -/
def handleBad (v : Nat) : Bool := decide (field v 63 36 ≠ 0 ∨ 4 < field v 23 21)

/-- A handle of another context at user level. -/
def handleDenied (s : State) (f : Firing) (v : Nat) : Bool :=
  decide (field v 35 24 ≠ f.ctx ∧ (s.ctx f.ctx).priv = .user)

/-- GRPCNT (R245). -/
def execGrpcnt (h : Hdr) (s : State) : Host.Outcome State Fault Refusal :=
  acting s h [opTok s.cur.a] fun r =>
    let v := (opTok s.cur.a).value.toNat
    if handleBad v then replyErr r s.cur h
    else if handleDenied s s.cur v then denyFault r s.cur h (firingSrc s.cur)
    else reply r s.cur h .data (BitVec.ofNat 64 (itemStatus s (itemOf s v))) false

/-- One attempt of GRPWAIT: it sleeps until the item is done; its token is an acquire at system scope. -/
def tryGrpwait (r : R s0) (q : Req) : R s0 :=
  let f := q.firing
  let v := (opTok f.a).value.toNat
  if handleBad v then ctlErr r q
  else if handleDenied r.s f v then faultReq r q (hdrOfInstr q.instr) ⟨.permission, true, []⟩
  else
    let x := itemOf r.s v
    if itemDone r.s x then ctlDone (acquireM r f.core) q .data (BitVec.ofNat 64 (itemStatus r.s x)) false
    else if insideItem r.s f x then ctlErr r q
    else r

/-- GRPWAIT (R245). -/
def execGrpwait (h : Hdr) (s : State) : Host.Outcome State Fault Refusal :=
  startCtl s h [opTok s.cur.a] (.grpwait h) (reqSrcOf s.cur) tryGrpwait

/-- Cancels an item (R246). -/
def cancelItem (r : R s0) (x : GItem) : R s0 :=
  match x with
  | .unit w => cancelWork r w
  | .group g => cancelGroup r g
  | .gone => r

/-- One attempt of GRPCAN: it waits while a cut of the item's context goes on (R476); a cancelled issuer gets no token. -/
def tryGrpcan (r : R s0) (q : Req) : R s0 :=
  let f := q.firing
  let v := (opTok f.a).value.toNat
  if handleBad v then ctlErr r q
  else if handleDenied r.s f v then faultReq r q (hdrOfInstr q.instr) ⟨.permission, true, []⟩
  else
    let x := itemOf r.s v
    let st := BitVec.ofNat 64 (itemStatus r.s x)
    if itemDone r.s x then ctlDone r q .data st false
    else if (match (r.s.ctx (field v 35 24)).st with | .cutting => true | _ => false) then r
    else if insideItem r.s f x then cancelItem (dropReq r q.id) x
    else ctlDone (cancelItem r x) q .data st false

/-- GRPCAN (R245, R246): it acts at firing in both containers. -/
def execGrpcan (h : Hdr) (s : State) : Host.Outcome State Fault Refusal :=
  startCtl s h [opTok s.cur.a] (.grpcan h) (reqSrcOf s.cur) tryGrpcan

end Sys2Proof.Machine
end

