-- ==== Sys2Proof/Machine/Engines.lean ====
section
/-!
DEFINITION. Barriers and engine jobs (R315 to R333), with the collective rings (R499 to R501): the instructions BARINIT, BARADD,
BARARR, BARWT, BARTST, ENGPOST and ENGQRY, and the events JOB_ARRIVAL, JOB_START, JOB_LANDING, RING_TIMEOUT, COLLECTIVE_FLIT and
ABORT_FLIT. The barrier object stands in Barrier.lean, what a request does to it in Perform.lean.
-/

set_option linter.unusedVariables false

namespace Sys2Proof.Machine

open Sys2Proof

variable {s0 : State}

/-! ## Barrier instructions (R327 to R330) -/

/-- What a barrier instruction of a firing does at the home, and whether it is a release and an acquire. -/
def barAccess (i : Instr) (f : Firing) : AccOp × Bool :=
  let b := (opTok f.b).value
  match i with
  | .barinit _ => (.barrier 0 b.toInt, false)
  | .baradd _ => (.barrier 1 b.toInt, false)
  | .bararr _ => (.barrier 2 b.toInt, true)
  | .barwt _ => (.barwt (b.toNat % 2 ^ 32), false)
  | _ => (.bartst, false)

/-- The request of a barrier instruction. -/
def barReq (id : Nat) (i : Instr) (f : Firing) (src : ReqSrc) : Req :=
  let x := barAccess i f
  { Req.new id i f src x.1 with va := (opTok f.a).value.toNat, size := 16, rel := x.2 }

/-- A barrier request is made, with its checks at once. -/
def startBar (r : R s0) (i : Instr) (f : Firing) (src : ReqSrc) : R s0 :=
  let q := barReq r.s.nextId i f src
  let r1 := addReq r fun _ => q
  if heldAhead r1.s q then r1 else runChecks r1 q

/-- A barrier instruction that acts at firing in both containers. -/
def barFire (s : State) (h : Hdr) (i : Instr) (ops : List Tok) : Host.Outcome State Fault Refusal :=
  acting s h ops fun r => startBar r i (firingOf s) (reqSrcOf s.cur)

/-- A barrier instruction that a block performs at its commit. -/
def barAct (s : State) (h : Hdr) (i : Instr) (ops : List Tok) : Host.Outcome State Fault Refusal :=
  match s.cur.trestle with
  | none => barFire s h i ops
  | some t => acting s h ops fun r => updInst r s.cur.core t fun x => { x with acts := x.acts ++ [⟨s.cur.idx, i, firingOf s⟩] }

/-- BARINIT (R329). -/
def execBarinit (h : Hdr) (s : State) : Host.Outcome State Fault Refusal :=
  barAct s h (.barinit h) [opTok s.cur.a, opTok s.cur.b]

/-- BARADD (R329). -/
def execBaradd (h : Hdr) (s : State) : Host.Outcome State Fault Refusal :=
  barAct s h (.baradd h) [opTok s.cur.a, opTok s.cur.b]

/-- BARARR (R329): a release. -/
def execBararr (h : Hdr) (s : State) : Host.Outcome State Fault Refusal :=
  barAct s h (.bararr h) [opTok s.cur.a, opTok s.cur.b]

/-- BARWT (R330). -/
def execBarwt (h : Hdr) (s : State) : Host.Outcome State Fault Refusal :=
  barFire s h (.barwt h) [opTok s.cur.a, opTok s.cur.b]

/-- BARTST (R330). -/
def execBartst (h : Hdr) (s : State) : Host.Outcome State Fault Refusal := barFire s h (.bartst h) [opTok s.cur.a]

/-! ## Job cards (R319, R499) -/

def cardOp (l : List Byte) : Nat := fieldLE l 0 1
def cardDie (l : List Byte) : Nat := fieldLE l 1 1 % 4
def cardLength (l : List Byte) : Nat := fieldLE l 8 8
def cardSrc (l : List Byte) : Nat := fieldLE l 16 8
def cardDst (l : List Byte) : Nat := fieldLE l 24 8
def cardIndex (l : List Byte) : Nat := fieldLE l 32 8
def cardCword (l : List Byte) : Nat := fieldLE l 40 8
def cardBarrier (l : List Byte) : Nat := fieldLE l 56 8
def cardReply (l : List Byte) : Nat := fieldLE l 64 8
def cardCollective (l : List Byte) : Bool := decide (0x10 ≤ cardOp l ∧ cardOp l ≤ 0x13)

/-- Bytes that the job lands. -/
def cardTotal (l : List Byte) : Nat :=
  if cardOp l = 3 then cardLength l * 2 ^ fieldLE l 3 1 else cardLength l

/-- Footprint entry i: base, length, access. -/
def footEntry (l : List Byte) (i : Nat) : Nat × Nat × Nat := (fieldLE l (80 + 16 * i) 8, fieldLE l (88 + 16 * i) 6, fieldLE l (94 + 16 * i) 1)

def footprint (l : List Byte) : List (Nat × Nat × Nat) := (List.range (fieldLE l 2 1)).map (footEntry l)

/-- Element size of a collective's type code. -/
def ringElem (ty : Nat) : Nat := if ty = 2 ∨ ty = 8 then 4 else 2

/-- A collective's type and ring descriptor keep to R499. -/
def ringOk (card ring : List Byte) : Bool :=
  let n := fieldLE ring 0 2
  [0x2, 0x8, 0xA, 0xB].contains (fieldLE card 3 1) && decide (2 ≤ n ∧ n ≤ 64 ∧ fieldLE ring 2 2 < n) &&
    decide (fieldLE ring 4 2 < 2 ^ 11 ∧ fieldLE ring 6 2 < 2 ^ 11) && ((ring.drop 20).all fun b => b = 0) &&
    decide (cardLength card % (n * ringElem (fieldLE card 3 1)) = 0)

/-- The card keeps to R319 and R331; `ring` is the descriptor that was read for a collective. -/
def cardOk (l ring : List Byte) : Bool :=
  let z (i n : Nat) : Bool := ((l.drop i).take n).all fun b => b = 0
  let op := cardOp l
  let e := fieldLE l 3 1
  let n := fieldLE l 2 1
  ([1, 2, 3].contains op || cardCollective l) && decide (fieldLE l 1 1 < 4 ∧ 1 ≤ n ∧ n ≤ 3) && z 4 4 && z 72 8 &&
    decide (cardLength l ≤ 2 ^ 40 ∧ cardCword l % 8 = 0 ∧ cardBarrier l % 16 = 0 ∧ cardReply l % 16 = 0) &&
    (match op with
     | 1 | 2 => decide (e = 0 ∧ cardIndex l = 0)
     | 3 => decide (2 ≤ e ∧ e ≤ 12)
     | _ => decide (cardIndex l % 64 = 0) && ringOk l ring) &&
    ((List.range 3).all fun i => if i < n then decide (fieldLE l (94 + 16 * i) 1 < 4 ∧ fieldLE l (95 + 16 * i) 1 = 0) else z (80 + 16 * i) 16)

/-! ## Posting (R318, R331) -/

/-- A free inbox entry: the lowest one that is unused or whose job has ended. -/
def freeInbox (d : Die) : Option Nat :=
  (List.range 256).find? fun e => let j := d.job e; !j.used || (match j.st with | .complete | .failed | .cancelled => true | _ => false)

/-- An active message on its way to an inbox: its entry is chosen, and it waits for JOB_ARRIVAL. -/
def postJob (r : R s0) (d e c : Nat) (card ring : List Byte) (launch : Option Nat) (unit key jts : Nat) : R s0 :=
  updJob r d e fun j =>
    { Job.init with used := true, gen := if j.used then (j.gen + 1) % 64 else 0, st := .posted, ctx := c, card := card, ring := ring,
                    launch := launch, unit := unit, key := key, jts := jts,
                    step := if cardCollective card then fieldLE ring 16 4 else 0 }

/-- A refused card: a record of RESERVED_FIELD, and ERROR. -/
def refuseCard (r : R s0) (q : Req) : R s0 :=
  ctlErr (reportFiring r q.firing (recOf q.firing .reservedField false (recSrc q) 0 [])) q

/-- One attempt of ENGPOST. -/
def tryEngpost (r : R s0) (q : Req) : R s0 :=
  let f := q.firing
  let a := (opTok f.a).value.toNat
  if a % 128 ≠ 0 then faultReq r q (hdrOfInstr q.instr) ⟨.alignment, true, accWords a 7 .rd 0⟩
  else if f.poison then refusePoison (dropReq r q.id) f (recSrc q) 0
  else if earlierOpen r.s q true then r
  else (vRead r f.core f.ctx a 128 128).run q fun r1 card =>
    let post (r : R s0) (ring : List Byte) : R s0 :=
      if cardOk card ring = false then refuseCard r q
      else
        let d := cardDie card
        match freeInbox (r.s.die d) with
        | none => r
        | some e =>
          let r2 := postJob r d e f.ctx card ring ((issuer r.s f).map Work.group) f.tag.unit.toNat
            (firingStep r.s f * 2 ^ 13 + firingIndex f) (r.s.core f.core).pts
          ctlDone r2 q .data (BitVec.ofNat 64 (jobHandle d e ((r2.s.die d).job e))) false
    if cardCollective card && decide (cardIndex card % 64 = 0) then
      (vRead r1 f.core f.ctx (cardIndex card) 64 64).run q post
    else post r1 []

/-- ENGPOST (R331). -/
def execEngpost (h : Hdr) (s : State) : Host.Outcome State Fault Refusal :=
  startAct s h [opTok s.cur.a] (.engpost h) tryEngpost

/-- One attempt of ENGQRY: in deterministic mode it waits until the job has ended. -/
def tryEngqry (r : R s0) (q : Req) : R s0 :=
  let f := q.firing
  let v := (opTok f.a).value.toNat
  let j := (r.s.die (field v 23 22)).job (field v 21 14)
  if field v 63 36 ≠ 0 ∨ field v 7 0 ≠ 0 then ctlErr r q
  else if field v 35 24 ≠ f.ctx ∧ (r.s.ctx f.ctx).priv = .user then faultReq r q (hdrOfInstr q.instr) ⟨.permission, true, []⟩
  else if j.used && decide (j.gen = field v 13 8 ∧ j.ctx = field v 35 24) then
    if (r.s.ctx f.ctx).det && j.open? then r
    else ctlDone r q .data (BitVec.ofNat 64 (jobStatus j)) false
  else ctlDone r q .data (BitVec.ofNat 64 (3 * 2 ^ 56)) false

/-- ENGQRY (R331). -/
def execEngqry (h : Hdr) (s : State) : Host.Outcome State Fault Refusal :=
  startCtl s h [opTok s.cur.a] (.engqry h) (reqSrcOf s.cur) tryEngqry

/-! ## Arrival and start (R320, R323) -/

/-- Two ranges share a byte. -/
def rangesMeet (a n b m : Nat) : Bool := decide (a < b + m ∧ b < a + n ∧ 0 < n ∧ 0 < m)

/-- A later card waits for an earlier one (R320): their footprints overlap and one of the two entries writes. -/
def footEdge (x y : List Byte) : Bool :=
  (footprint x).any fun a => (footprint y).any fun b =>
    rangesMeet a.1 a.2.1 b.1 b.2.1 && (a.2.2.testBit 1 || b.2.2.testBit 1) && decide (a.2.2 ≠ 0 ∧ b.2.2 ≠ 0)

/-- A job waits for an earlier one that has not ended. -/
def jobWaits (s : State) (d e : Nat) : Bool :=
  let j := (s.die d).job e
  (s.die d).jobs.any fun x => x.2.open? && decide (x.2.ctx = j.ctx ∧ 0 < x.2.order ∧ x.2.order < j.order) && footEdge x.2.card j.card

/-- JOB_ARRIVAL (R318, R320): the message enters its die's inbox and waits if an edge asks for it. -/
def execJobArrival (die n : Nat) (s : State) : Host.Outcome State Fault Refusal :=
  let r := R.start s
  let j := (s.die die).job n
  (if j.used && decide (j.st = JobSt.posted ∧ j.order = 0) then
    let k := (s.die die).jobSeq + 1
    let r1 := updJob (updDie r die fun d => { d with jobSeq := k }) die n fun x => { x with order := k }
    if jobWaits r1.s die n then updJob r1 die n fun x => { x with st := .waiting } else r1
  else r).done

/-- In deterministic mode another job of the context that has not started comes first (R320). -/
def jobBehind (s : State) (d e : Nat) : Bool :=
  let j := (s.die d).job e
  (s.ctx j.ctx).det &&
    (s.die d).jobs.any fun x => decide (x.1 ≠ e) && x.2.used && decide (x.2.ctx = j.ctx ∧ (x.2.st = .posted ∨ x.2.st = .waiting)) &&
      !jobWaits s d x.1 && (decide (x.2.unit < j.unit) || decide (x.2.unit = j.unit ∧ x.2.key < j.key))

/-- A job becomes Failed (R323, R501): its record, its barrier, its status record. -/
def failJob (r : R s0) (d e cause : Nat) (skipBar : Bool) : R s0 :=
  let r1 := updJob r d e fun x => { x with st := .failed, cause := cause }
  let j := (r1.s.die d).job e
  let n := fieldLE j.ring 0 2
  let (c, ws) : Cause × List Nat :=
    if cause = 0x31 then
      (.ringBroken, [jobHandle d e j, (j.step + 2 ^ 32 - 1) % 2 ^ 32 + n * 2 ^ 32, fieldLE j.ring 8 8, fieldLE j.ring 16 4])
    else (.engineError, [jobHandle d e j, jobStatus j])
  let r2 := report r1 j.ctx ⟨c, false, false, 0xFF, 5, 0xFFFF, 0, 0, ws⟩ j.unit (j.key / 2 ^ 13) (j.key % 2 ^ 13)
  let r3 := if skipBar || decide (j.barPa = 0) then r2
    else
      let b := barOf (r2.s.bytes j.barPa 16)
      let b1 := if b.state = 2 then b.next 0 b.pending 3 else { b with state := 3 }
      homeWrite (recallHalves r2 j.barPa 16 true) (.job d e) 0 true j.barPa b1.bytes
  writeReply r3 d e

/-- The code of a check's outcome. -/
def accCode (x : AccRes) : Option Nat := match x with | .ok .. => none | .fault e => some (causeCode e.cause)

/-- The three addresses of a card as its start translates them: barrier, completion word, reply. -/
def startChecks (s : State) (c : Nat) (l : List Byte) : List (Option AccRes) :=
  let go (va n : Nat) (k : Acc3) (bias : Bool) : Option AccRes := if va = 0 then none else some (checkWalk s c va n k bias)
  [go (cardBarrier l) 16 .rw true, go (cardCword l) 8 .wr false, go (cardReply l) 16 .wr false]

def resPa (x : Option AccRes) : Nat := match x with | some (.ok pa _) => pa | _ => 0
def resCode (x : Option AccRes) : Option Nat := match x with | some y => accCode y | none => none

/-! ## Rings (R499, R500) -/

/-- Bytes of a chunk: chunk k of n, first byte and length. -/
def chunkOf (j : Job) (k : Nat) : Nat × Nat := let m := cardLength j.card / fieldLE j.ring 0 2; (k * m, m)

/-- Steps that a collective takes. -/
def ringSteps (j : Job) : Nat :=
  let n := fieldLE j.ring 0 2
  if cardOp j.card = 0x10 then 2 * (n - 1) else n - 1

/-- What a member sends at a step: the range, and whether from src. -/
def ringSend (j : Job) : Option ((Nat × Nat) × Bool) :=
  let n := fieldLE j.ring 0 2
  let r := fieldLE j.ring 2 2
  let s := j.step
  let second (t : Nat) : Option ((Nat × Nat) × Bool) := some (chunkOf j ((r + 1 + 2 * n - t) % n), false)
  match cardOp j.card with
  | 0x12 => second s
  | 0x13 => if s = r then some ((0, cardLength j.card), decide (r = 0)) else none
  | _ => if s + 1 < n then some (chunkOf j ((r + n - s) % n), decide (s = 0)) else second (s - (n - 1))

/-- What a member receives at a step: the range, the stamps it sets, and whether src is added. -/
def ringRecv (j : Job) : Option ((Nat × Nat) × List Nat × Bool) :=
  let n := fieldLE j.ring 0 2
  let r := fieldLE j.ring 2 2
  let s := j.step
  let second (t : Nat) : Option ((Nat × Nat) × List Nat × Bool) := let k := (r + 2 * n - t) % n; some (chunkOf j k, [k], false)
  match cardOp j.card with
  | 0x12 => second s
  | 0x13 => if s + 1 = r then some ((0, cardLength j.card), List.range n, false) else none
  | _ => if s + 1 < n then (let k := (r + 2 * n - s - 1) % n; some (chunkOf j k, [k], true)) else second (s - (n - 1))

/-- Sum of two elements of a ring (R500): rounded to nearest even; a NaN code is stored as R78 gives. -/
def ringAdd (ty x y : Nat) : Nat :=
  match ty with
  | 2 => (x + y) % 2 ^ 32
  | _ =>
    let f := codeFmt ty
    let z := roundTo f .rne false (addVal (decodeFmt f x) (decodeFmt f y))
    z.code.getD (canonNaN f)

/-- A step is over: sends and receives are done; the next one begins with its send. -/
def ringAdvance (r : R s0) (d e : Nat) : Nat → R s0
  | 0 => r
  | fuel + 1 =>
    let j := (r.s.die d).job e
    if j.st = .running ∧ j.step < ringSteps j ∧ j.sent = none ∧ (j.got = true ∨ ringRecv j = none) then
      let r1 := updJob r d e fun x => { x with step := x.step + 1, got := false, since := r.s.clk }
      let k := (r1.s.die d).job e
      if k.step < ringSteps k ∧ (ringSend k).isSome then
        let p := portTo r1.s (d * 32) (fieldLE k.ring 4 2)
        let seq := (r1.s.link p).seqTx.toNat
        updJob (sendFlit r1 p) d e fun x => { x with sent := some (p, seq) }
      else ringAdvance r1 d e fuel
    else r

/-- The first send of a member. -/
def ringBegin (r : R s0) (d e : Nat) : R s0 :=
  let j := (r.s.die d).job e
  if j.collective && decide (j.step < ringSteps j) && (ringSend j).isSome then
    let p := portTo r.s (d * 32) (fieldLE j.ring 4 2)
    let seq := (r.s.link p).seqTx.toNat
    updJob (sendFlit r p) d e fun x => { x with sent := some (p, seq) }
  else if j.collective then ringAdvance r d e 130
  else r

/-- JOB_START (R320, R323): a job that waits for nothing translates its barrier, completion word and reply, and runs. -/
def execJobStart (die e : Nat) (s : State) : Host.Outcome State Fault Refusal :=
  let r := R.start s
  let j := (s.die die).job e
  (if j.used && decide ((j.st = JobSt.posted ∨ j.st = JobSt.waiting) ∧ 0 < j.order) && ctxMoves s j.ctx && !jobWaits s die e &&
      !jobBehind s die e then
    let l := startChecks s j.ctx j.card
    let bar := l.getD 0 none
    let r1 := updJob r die e fun x =>
      { x with st := .running, started := true, barPa := resPa bar, cwPa := resPa (l.getD 1 none), rpPa := resPa (l.getD 2 none), since := s.clk }
    match l.findSome? resCode with
    | some c => failJob r1 die e c (resCode bar).isSome
    | none => ringBegin r1 die e
  else r).done

/-! ## Payload accesses (R319, R323) -/

/-- How an access of an engine ends: a value, a failure with its cause byte, or waiting. -/
inductive JRes (α : Type) where
  | ok (x : α)
  | fail (cause : Nat)
  | wait

/-- Every byte of a range lies in a footprint entry that allows the access (R319). -/
def inFootprint (l : List Byte) (va n : Nat) (write : Bool) : Bool :=
  (List.range n).all fun k => (footprint l).any fun e =>
    decide (e.1 ≤ va + k ∧ va + k < e.1 + e.2.1) && e.2.2.testBit (if write then 1 else 0)

/-- A translation on a base die (R322): its cache of 256 entries takes what a walk finds. -/
def baseTranslate (r : R s0) (c va : Nat) : R s0 × WalkRes :=
  match (List.range 4).findSome? fun d => tlbFind (r.s.die d).baseTlb c va with
  | some e => (r, e.res va)
  | none =>
    match walk r.s c va with
    | .ok pa leaf level ea =>
      let k := 8 * level + 16
      let e : TlbEnt := ⟨c, va / 2 ^ k * 2 ^ k, 2 ^ k, pa - va % 2 ^ k, leaf, ea⟩
      let same (x : TlbEnt) : Bool := decide (stackOf x.pa = stackOf e.pa)
      (updDie r (homeDie pa) fun d =>
        { d with baseTlb := e :: ((d.baseTlb.filter same).take 255 ++ d.baseTlb.filter fun x => !same x) }, .ok pa leaf level ea)
    | w => (r, w)

/-- Translation and checks of a job's access: through the page table, or through a base die's cache. -/
def jobCheck (r : R s0) (c va : Nat) (write base : Bool) : R s0 × AccRes :=
  let k : Acc3 := if write then .wr else .rd
  if base = false then (r, checkWalk r.s c va 1 k false)
  else if 2 ^ 48 ≤ va then (r, checkWalk r.s c va 1 k false)
  else
    let (r1, w) := baseTranslate r c va
    (r1, checkLeaf r1.s c va k false w)

/-- One access of a job within a line: footprint, translation, then whatever it must wait for (R354, R404, R412). -/
def jobAccess (r : R s0) (d e va n : Nat) (write base : Bool) : R s0 × JRes (Nat × Word) :=
  let j := (r.s.die d).job e
  if inFootprint j.card va n write = false then (r, .fail 0x11)
  else match jobCheck r j.ctx va write base with
    | (r, .fault x) => (r, .fail (causeCode x.cause))
    | (r, .ok pa leaf) =>
      let t := if write then max (ownerTick r.s (.job d e)) (homeRts r.s pa + 1)
        else max (homeRts r.s pa) (ownerTick r.s (.job d e) + (r.s.ctx j.ctx).lease.toNat)
      if frameWaits r.s pa || !tickRoom r.s t || (write && derivedStall r.s pa) then (r, .wait)
      else if hostOwned r.s pa n then (recallHalves r pa n write, .wait)
      else (r, .ok (pa, leaf))

/-- Bytes of a range, line by line, at their homes. -/
def jobRead (r : R s0) (d e : Nat) (base : Bool) : List (Nat × Nat) → R s0 × JRes (List Byte)
  | [] => (r, .ok [])
  | p :: l =>
    match jobAccess r d e p.1 p.2 false base with
    | (r1, .ok x) =>
      if badBytes r1.s x.1 p.2 then (r1, .fail 0x21)
      else
        let (r2, b) := ownerLoad r1 (.job d e) ((r1.s.die d).job e).ctx x.1 p.2 x.2
        (match jobRead r2 d e base l with
         | (r3, .ok m) => (r3, .ok (b ++ m))
         | y => y)
    | (r1, .fail c) => (r1, .fail c)
    | (r1, .wait) => (r1, .wait)

/-- A range cut at line boundaries. -/
def lineCuts : Nat → Nat → Nat → List (Nat × Nat)
  | 0, _, _ => []
  | fuel + 1, va, n =>
    if n = 0 then []
    else
      let k := min n (128 - va % 128)
      (va, k) :: lineCuts fuel (va + k) (n - k)

def cutRange (va n : Nat) : List (Nat × Nat) := lineCuts (n / 128 + 2) va n

/-- A store of a tracked frame through a leaf with T = 0 by an engine (R363). -/
def jobMismatch (r : R s0) (d e : Nat) (leaf : Word) (va pa : Nat) : R s0 :=
  let j := (r.s.die d).job e
  if leafT leaf || !isRegistered r.s pa then r
  else
    let r1 := updCtx r j.ctx fun c => { c with tm := true }
    r1.when (r.s.ctx j.ctx).tmen fun z =>
      report z j.ctx ⟨.trackMismatch, false, false, 0xFF, 5, 0xFFFF, 0, 0, [va, pa]⟩ j.unit (j.key / 2 ^ 13) (j.key % 2 ^ 13)

/-- A landing's bytes are performed. -/
def jobWrite (r : R s0) (d e va pa : Nat) (leaf : Word) (l : List Byte) : R s0 :=
  jobMismatch (homeWrite (recallHalves r pa l.length true) (.job d e) leaf true pa l) d e leaf va pa

/-- The job's arrival of some bytes at its barrier (R316, R321). -/
def jobArrive (r : R s0) (d e n : Nat) : R s0 :=
  let pa := ((r.s.die d).job e).barPa
  if pa = 0 ∨ n = 0 then r
  else homeWrite (recallHalves r pa 16 true) (.job d e) 0 true pa ((barOf (r.s.bytes pa 16)).arrive n).bytes

/-- The barrier of a job can be reached now; a host that owns it is asked. -/
def barReady (r : R s0) (d e : Nat) : R s0 × Bool :=
  let pa := ((r.s.die d).job e).barPa
  if pa = 0 then (r, true)
  else if frameWaits r.s pa then (r, false)
  else if hostOwned r.s pa 16 then (recallHalves r pa 16 true, false)
  else (r, true)

/-- Element sources of a gather: for each part of a landing its position in the destination and its length. -/
def gatherCuts (e : Nat) : Nat → Nat → Nat → List (Nat × Nat)
  | 0, _, _ => []
  | fuel + 1, p, n =>
    if n = 0 then []
    else
      let k := min n (2 ^ e - p % 2 ^ e)
      (p, k) :: gatherCuts e fuel (p + k) (n - k)

/-- The bytes of a gather's landing: each element's index is read, then its part (R319, R322). -/
def gatherRead (r : R s0) (d e : Nat) (card : List Byte) : List (Nat × Nat) → R s0 × JRes (List Byte)
  | [] => (r, .ok [])
  | p :: l =>
    let es := 2 ^ fieldLE card 3 1
    match jobRead r d e true (cutRange ((cardIndex card + 4 * (p.1 / es)) % 2 ^ 64) 4) with
    | (r1, .ok ix) =>
      (match jobRead r1 d e true (cutRange ((cardSrc card + ofBytesLE ix * es + p.1 % es) % 2 ^ 64) p.2) with
       | (r2, .ok b) => (match gatherRead r2 d e card l with
         | (r3, .ok m) => (r3, .ok (b ++ m))
         | y => y)
       | (r2, .fail c) => (r2, .fail c)
       | (r2, .wait) => (r2, .wait))
    | (r1, .fail c) => (r1, .fail c)
    | (r1, .wait) => (r1, .wait)

/-- The bytes that the next landing writes, from position p on. -/
def landingBytes (r : R s0) (d e p n : Nat) : R s0 × JRes (List Byte) :=
  let card := ((r.s.die d).job e).card
  match cardOp card with
  | 1 => jobRead r d e false (cutRange ((cardSrc card + p) % 2 ^ 64) n)
  | 2 => (r, .ok ((List.range n).map fun i => BitVec.ofNat 8 (cardSrc card / 2 ^ (8 * ((p + i) % 8)))))
  | _ => gatherRead r d e card (gatherCuts (fieldLE card 3 1) (n + 1) p n)

/-- The end of a job's effects (R321): completion word, then status record. -/
def finishJob (r : R s0) (d e : Nat) : R s0 :=
  let j := (r.s.die d).job e
  let r1 := r.when (j.cwPa ≠ 0) fun z => homeWrite (recallHalves z j.cwPa 8 true) (.job d e) 0 true j.cwPa (bytesLE 8 (fieldLE j.card 48 8))
  writeReply (updJob r1 d e fun x => { x with st := .complete, cause := 0 }) d e

/-- JOB_LANDING (R321): the next landing with its arrival, or after the last one the completion word and the status
record. -/
def execJobLanding (die e : Nat) (s : State) : Host.Outcome State Fault Refusal :=
  let r := R.start s
  let j := (s.die die).job e
  (if (j.used && decide (j.st = JobSt.running) && ctxMoves s j.ctx) = false then r
   else if j.collective then (if ringSteps j ≤ j.step ∧ j.sent = none then finishJob r die e else r)
   else if cardTotal j.card ≤ j.landed then finishJob r die e
   else
     let va := (cardDst j.card + j.landed) % 2 ^ 64
     let n := min (128 - va % 128) (cardTotal j.card - j.landed)
     match barReady r die e with
     | (r0, false) => r0
     | (r0, true) => match landingBytes r0 die e j.landed n with
       | (r1, .wait) => r1
       | (r1, .fail c) => failJob r1 die e c false
       | (r1, .ok l) => match jobAccess r1 die e va n true false with
         | (r2, .wait) => r2
         | (r2, .fail c) => failJob r2 die e c false
         | (r2, .ok x) =>
           let r3 := updJob (jobWrite r2 die e va x.1 x.2 l) die e fun k => { k with landed := k.landed + n }
           jobArrive r3 die e n).done

/-! ## Flits of rings (R500, R501) -/

/-- Elements of a chunk summed with src. -/
def ringSum (ty : Nat) (x y : List Byte) : List Byte :=
  let w := ringElem ty
  (List.range (x.length / w)).flatMap fun i => bytesLE w (ringAdd ty (fieldLE x (i * w) w) (fieldLE y (i * w) w))

/-- Writes the parts of a chunk; the end is a failure, waiting, or the whole. -/
def ringStore (r : R s0) (d e : Nat) : List (Nat × Nat) → List Byte → R s0 × JRes Unit
  | [], _ => (r, .ok ())
  | p :: l, b =>
    match jobAccess r d e p.1 p.2 true false with
    | (r1, .ok x) => ringStore (jobWrite r1 d e p.1 x.1 x.2 (b.take p.2)) d e l (b.drop p.2)
    | (r1, .fail c) => (r1, .fail c)
    | (r1, .wait) => (r1, .wait)

/-- COLLECTIVE_FLIT (R500): the chunk of the step in progress is received and written, its stamp is set, and the step's
arrival is performed. The member's own send is read as it goes out. -/
def execCollectiveFlit (die e : Nat) (v : List Byte) (s : State) : Host.Outcome State Fault Refusal :=
  let r := R.start s
  let j := (s.die die).job e
  (if (j.used && j.collective && decide (j.st = JobSt.running) && ctxMoves s j.ctx && !j.got) = false then r
   else match ringRecv j with
     | none => r
     | some (rg, ks, add) =>
       if v.length ≠ rg.2 ∨ ringSteps j ≤ j.step then r
       else match barReady r die e with
         | (r0, false) => r0
         | (r0, true) =>
           match (if add then jobRead r0 die e false (cutRange (cardSrc j.card + rg.1) rg.2) else (r0, .ok [])) with
           | (r1, .wait) => r1
           | (r1, .fail c) => failJob r1 die e c false
           | (r1, .ok src) =>
             let b := if add then ringSum (fieldLE j.card 3 1) v src else v
             match ringStore r1 die e (cutRange (cardDst j.card + rg.1) rg.2) b with
             | (r2, .wait) => r2
             | (r2, .fail c) => failJob r2 die e c false
             | (r2, .ok _) =>
               match ringStore r2 die e (ks.flatMap fun k => cutRange (fieldLE j.ring 8 8 + 4 * k) 4)
                   (ks.flatMap fun _ => bytesLE 4 (j.step + 1)) with
               | (r3, .wait) => r3
               | (r3, .fail c) => failJob r3 die e c false
               | (r3, .ok _) =>
                 let r4 := updJob r3 die e fun x => { x with got := true, landed := x.landed + rg.2, since := s.clk }
                 ringAdvance (jobArrive r4 die e rg.2) die e 130).done

/-- A member fails with RING_BROKEN: it aborts its ring and follows R323. -/
def breakRing (r : R s0) (d e : Nat) : R s0 := failJob (sendAborts r d e) d e 0x31 false

/-- Completion timeout of a port in clk (R494): cto microseconds of 2,100 clk. -/
def ctoClk (s : State) (p : Nat) : Nat := (s.link p).cto.toNat * 2100

/-- RING_TIMEOUT (R501): a neighbour has sent no flit of the ring for longer than the cto of the port towards it. -/
def execRingTimeout (die e : Nat) (s : State) : Host.Outcome State Fault Refusal :=
  let r := R.start s
  let j := (s.die die).job e
  let late := j.neighbours.any fun n => decide (j.since + ctoClk s (portTo s (die * 32) n) < s.clk)
  (if j.used && j.collective && decide (j.st = JobSt.running ∧ j.step < ringSteps j) && late then breakRing r die e else r).done

/-- ABORT_FLIT (R501). -/
def execAbortFlit (die e : Nat) (s : State) : Host.Outcome State Fault Refusal :=
  let r := R.start s
  let j := (s.die die).job e
  (if j.used && j.collective && decide (j.st = JobSt.running) then breakRing r die e else r).done

end Sys2Proof.Machine
end

