-- ==== Sys2Proof/Machine/Regions.lean ====
section
/-!
DEFINITION. Derived regions in time (R428 to R452): the instructions DRVDECL, DRVDROP, DLD, DLDL, DRVSYNC and DRVSTAT, and the events
DELTA_APPLY, RESCAN, FLUSH_MARKER, PUBLISH and BUILD_COMPLETE. What a region computes stands in Derived.lean.
-/

set_option linter.unusedVariables false

namespace Sys2Proof.Machine

open Sys2Proof

variable {s0 : State}

/-! ## Handles (R431, R444) -/

/-- Die, index and generation of a handle. -/
def drvDie (v : Nat) : Nat := field v 41 40
def drvIndex (v : Nat) : Nat := field v 39 30
def drvGen (v : Nat) : Nat := field v 29 24
def drvReserved (v : Nat) : Bool := decide (field v 63 42 ≠ 0)

def drvHandle (d n gen : Nat) : Nat := d * 2 ^ 40 + n * 2 ^ 30 + gen * 2 ^ 24

/-- The live region of a context that a handle names. -/
def liveRegion (s : State) (c v : Nat) : Option Region :=
  let g := (s.die (drvDie v)).region (drvIndex v)
  if drvReserved v = false ∧ g.st ≠ .free ∧ g.ctx = c ∧ g.gen = drvGen v then some g else none

def updResult (r : R s0) (d n j : Nat) (f : Result → Result) : R s0 :=
  updRegion r d n fun g => { g with results := tabSet Result.init j (f (tabGet Result.init j g.results)) g.results }

def resultOf (g : Region) (j : Nat) : Result := tabGet Result.init j g.results

/-- Publishes a result (R440): a stale extremum is not published. -/
def publishResult (rec : DRec) (o : Result) : Result :=
  if o.stale then o
  else
    let (k, v, _) := resultValue rec o
    { o with pub := some (k, v), dirty := false }

/-! ## Lines of a base -/

/-- Virtual lines that hold bytes of a row range. -/
def rowLines (d : DRec) (i : Nat) : List Nat :=
  let a := d.base + i * d.pitch
  (List.range ((a % 128 + d.rowBytes + 127) / 128)).map fun k => (a / 128 + k) * 128

def dedupNext : List Nat → List Nat
  | x :: y :: l => if x = y then dedupNext (y :: l) else x :: dedupNext (y :: l)
  | l => l

/-- Virtual pages of 64 KiB that hold base bytes, in order. -/
def basePages (d : DRec) : List Nat :=
  dedupNext ((List.range d.rows).flatMap fun i =>
    let a := d.base + i * d.pitch
    (List.range ((a % 2 ^ 16 + d.rowBytes + 2 ^ 16 - 1) / 2 ^ 16)).map fun k => a / 2 ^ 16 + k)

/-- Physical lines of the base for which `p` holds. -/
def baseLines (g : Region) (p : Nat → Bool) : List Nat :=
  let d := drecOf g.record
  ((List.range d.rows).flatMap fun i => (rowLines d i).map fun va => basePa g.frames va / 128 * 128).filter p

/-- Asks hosts for the halves they own among some lines; true when none owned any. -/
def linesReady (r : R s0) (l : List Nat) : R s0 × Bool :=
  let owned := l.filter fun pa => hostOwned r.s pa 128
  if owned.isEmpty then (r, true) else (r.each owned fun q pa => recallHalves q pa 128 false, false)

/-! ## DRVDECL (R432, R447) -/

/-- Bytes of the accumulator store of slice k that a region takes (R432). -/
def sliceUse (g : Region) (k : Nat) : Nat :=
  let d := drecOf g.record
  let m := (List.range d.results).countP fun j => resultSlice g j = k
  let fr := if d.isBlock then
      ((List.range d.rows).flatMap fun i => (List.range (d.cols / d.burst)).map fun q => homeSlice (basePa g.frames (d.addr i (q * d.burst)))).count k
    else 0
  m * d.resultBytes + 4 * fr

/-- R432 would be passed by one more region on a die. -/
def capacityFull (s : State) (d : Nat) (g : Region) : Bool :=
  let live := ((s.die d).regions.map Prod.snd).filter fun x => decide (x.st ≠ .free)
  let fs := g.frames.map Prod.snd
  decide (4096 < ((g :: live).map fun x => x.frames.length).foldl (· + ·) 0) ||
    (fs.any fun f => decide (4 ≤ live.countP fun x => x.frames.any fun y => y.2 = f)) ||
    ((List.range 384).any fun k => decide (2 ^ 18 < ((g :: live).map fun x => sliceUse x k).foldl (· + ·) 0))

def freeRegion (s : State) (d : Nat) : Option Nat := (List.range 1024).find? fun n => ((s.die d).region n).st = .free

/-- The frames of the base's pages through the context's translation; none when a page faults. -/
def baseFrames (r : R s0) (core c : Nat) : List Nat → List (Nat × Nat) → R s0 × Option (List (Nat × Nat))
  | [], acc => (r, some acc.reverse)
  | p :: l, acc =>
    match checkAccess r core c (p * 2 ^ 16) 1 .rd false with
    | (r1, .ok pa _) => baseFrames r1 core c l ((p, pa / 2 ^ 16) :: acc)
    | (r1, .fault _) => (r1, none)

/-- Why a declaration is refused: the code of R447, in its order; 0 when it is not. -/
def declRefusal (s : State) (l : List Byte) (fr : Option (List (Nat × Nat))) (b : Nat) : Nat :=
  let d := drecOf l
  if d.ok l = false then 13
  else match fr with
    | none => 6
    | some fs =>
      let die := homeDie ((fs.map Prod.snd).headD 0 * 2 ^ 16)
      let st (f : Nat × Nat) : FrameSt := s.frame f.2
      if fs.any fun f => isRemote s (f.2 * 2 ^ 16) || decide (homeDie (f.2 * 2 ^ 16) ≠ die) then 17
      else if fs.any fun f => (st f).hostBias || (match (st f).st with | .flipping .. => true | _ => false) then 14
      else if (fs.any fun f => match (st f).st with | .copying .. | .freezing .. | .staging .. => true | _ => false) ||
          decide (b ≠ 0) && (drvReserved b || decide (((s.die (drvDie b)).region (drvIndex b)).st ≠ .free)) then 4
      else if b ≠ 0 ∧ drvDie b ≠ die then 17
      else if (b = 0 ∧ (freeRegion s die).isNone) ∨ capacityFull s die { Region.init with record := l, frames := fs } = true then 2
      else 0

/-- Starts a build of a region (R441): every line is read now, and the deltas of later stores follow. -/
def startBuild (r : R s0) (d n : Nat) (st : RegSt) (req : Nat) : R s0 :=
  let f := r.s.byte
  let keep (o : Result) (p : Option (Kind × Word)) : Result := { o with pub := p }
  let r1 := updRegion r d n fun g =>
    let t := buildResults f g
    { g with st := st, req := req,
             results := (List.range (drecOf g.record).results).foldl (fun acc j =>
               tabSet Result.init j (keep (tabGet Result.init j t) (resultOf g j).pub) acc) [] }
  updDie r1 d fun k => { k with deltas := k.deltas.filter (fun (x : Delta) => x.region ≠ n), rescans := k.rescans.filter fun x => x.1 ≠ n }

/-- One attempt of DRVDECL. -/
def tryDrvdecl (r : R s0) (q : Req) : R s0 :=
  let f := q.firing
  let a := (opTok f.a).value.toNat
  let b := (opTok f.b).value.toNat
  if q.aux ≠ 0 then r
  else if a % 64 ≠ 0 then faultReq r q (hdrOfInstr q.instr) ⟨.alignment, true, accWords a 7 .rd 0⟩
  else if earlierOpen r.s q false then r
  else (vRead r f.core f.ctx a 64 64).run q fun r1 l =>
    let (r2, fr) := if (drecOf l).ok l then baseFrames r1 f.core f.ctx (basePages (drecOf l)) [] else (r1, some [])
    let x := if b ≠ 0 ∧ (r2.s.ctx f.ctx).priv = .user then 13 else declRefusal r2.s l fr b
    if x ≠ 0 then ctlDone r2 q .data (BitVec.ofNat 64 (2 ^ 63 + x * 2 ^ 56)) true
    else
      let fs := fr.getD []
      let die := homeDie ((fs.map Prod.snd).headD 0 * 2 ^ 16)
      let n := if b ≠ 0 then drvIndex b else (freeRegion r2.s die).getD 0
      let g0 := (r2.s.die die).region n
      let gen := if b ≠ 0 then drvGen b else if g0.record = [] then 0 else (g0.gen + 1) % 64
      let g : Region := { st := .building, gen := gen, ctx := f.ctx, record := l, frames := fs, results := [], req := q.id }
      match linesReady r2 (baseLines g fun _ => true) with
      | (r3, false) => r3
      | (r3, true) =>
        updReq (startBuild (updRegion r3 die n fun _ => g) die n .building q.id) q.id fun y => { y with aux := 1 }

/-- DRVDECL (R447). -/
def execDrvdecl (h : Hdr) (s : State) : Host.Outcome State Fault Refusal :=
  startCtl s h [opTok s.cur.a, opTok s.cur.b] (.drvdecl h) (reqSrcOf s.cur) tryDrvdecl

/-- BUILD_COMPLETE (R441): the results are published, and DRVDECL or DRVSYNC emits its token. -/
def execBuildComplete (die n : Nat) (s : State) : Host.Outcome State Fault Refusal :=
  let r := R.start s
  let g := (s.die die).region n
  (if (g.st = .building ∨ g.st = .resyncing) ∧ ctxMoves s g.ctx = true then
    let rec_ := drecOf g.record
    let r1 := updRegion r die n fun g =>
      { g with st := .active, req := 0, results := g.results.map fun x => (x.1, publishResult rec_ x.2) }
    match getReq s g.req with
    | some q => (match q.instr with
      | .drvdecl _ => ctlDone r1 q .data (BitVec.ofNat 64 (drvHandle die n g.gen)) true
      | _ => ctlDone r1 q .data 0 true)
    | none => r1
  else r).done

/-! ## DRVDROP, DRVSYNC, DRVSTAT (R448, R451) -/

/-- DLDs that wait for a region. -/
def waitingDlds (s : State) (d n : Nat) : List Req :=
  s.reqs.filter fun q => (match q.op with | .dld _ => true | _ => false) &&
    (let v := (opTok q.firing.a).value.toNat; decide (drvDie v = d ∧ drvIndex v = n))

/-- A final fault of a waiting DLD. -/
def faultDld (r : R s0) (q : Req) (e : AccFault) : R s0 := faultReq r q (hdrOfInstr q.instr) e

/-- TRANSLATION of a handle that names no live region. -/
def noRegion (v : Nat) : AccFault := ⟨.translation, true, accWords v 7 .rd 0⟩

/-- A region becomes Free (R448, R460): its waiting instructions end. -/
def dropRegion (r : R s0) (d n : Nat) : R s0 :=
  let req := ((r.s.die d).region n).req
  let r1 := updRegion r d n fun g => { g with st := .free, frames := [], results := [], req := 0 }
  let r2 := updDie r1 d fun k => { k with deltas := k.deltas.filter (fun (x : Delta) => x.region ≠ n), rescans := k.rescans.filter fun x => x.1 ≠ n }
  let r3 := r2.each (waitingDlds r2.s d n) fun z q => faultDld z q (noRegion (opTok q.firing.a).value.toNat)
  match getReq r3.s req with
  | some q => ctlStatus r3 q 6 true
  | none => r3

/-- One attempt of DRVDROP. -/
def tryDrvdrop (r : R s0) (q : Req) : R s0 :=
  let v := (opTok q.firing.a).value.toNat
  if drvReserved v then ctlErr r q
  else if earlierOpen r.s q false then r
  else match liveRegion r.s q.firing.ctx v with
    | none => ctlStatus r q 6 true
    | some _ => ctlStatus (dropRegion r (drvDie v) (drvIndex v)) q 0 true

/-- DRVDROP (R448). -/
def execDrvdrop (h : Hdr) (s : State) : Host.Outcome State Fault Refusal :=
  startCtl s h [opTok s.cur.a] (.drvdrop h) (reqSrcOf s.cur) tryDrvdrop

/-- A base frame is in host bias or flipping. -/
def baseHost (s : State) (g : Region) : Bool :=
  g.frames.any fun f => let x := s.frame f.2; x.hostBias || (match x.st with | .flipping .. => true | _ => false)

/-- One attempt of DRVSYNC. -/
def tryDrvsync (r : R s0) (q : Req) : R s0 :=
  let v := (opTok q.firing.a).value.toNat
  if drvReserved v then ctlErr r q
  else match liveRegion r.s q.firing.ctx v with
    | none => if earlierOpen r.s q false then r else ctlStatus r q 6 true
    | some g =>
      if g.req = q.id ∧ q.aux = 1 then r
      else if earlierOpen r.s q false then r
      else
        let go (r : R s0) : R s0 :=
          match linesReady r (baseLines g fun _ => true) with
          | (r1, false) => r1
          | (r1, true) => updReq (startBuild r1 (drvDie v) (drvIndex v) .resyncing q.id) q.id fun y => { y with aux := 1 }
        match g.st with
        | .suspended => if baseHost r.s g then ctlStatus r q 14 true else go r
        | .active => go r
        | _ => ctlStatus r q 4 true

/-- DRVSYNC (R451). -/
def execDrvsync (h : Hdr) (s : State) : Host.Outcome State Fault Refusal :=
  startCtl s h [opTok s.cur.a] (.drvsync h) (reqSrcOf s.cur) tryDrvsync

def regCode (x : RegSt) : Nat := match x with | .free => 0 | .building => 1 | .active => 2 | .suspended => 3 | .resyncing => 4

/-- Results of a region that are stale. -/
def staleCount (g : Region) : Nat := g.results.countP fun x => x.2.stale

/-- One attempt of DRVSTAT: in deterministic mode it waits until no result is stale. -/
def tryDrvstat (r : R s0) (q : Req) : R s0 :=
  let v := (opTok q.firing.a).value.toNat
  if drvReserved v then ctlErr r q
  else match liveRegion r.s q.firing.ctx v with
    | none => ctlDone r q .data 0 false
    | some g =>
      if (r.s.ctx q.firing.ctx).det ∧ 0 < staleCount g then r
      else
        let d := drecOf g.record
        ctlDone r q .data (BitVec.ofNat 64 (regCode g.st * 2 ^ 61 + d.kind % 16 * 2 ^ 57 + d.etype % 16 * 2 ^ 53 + d.rtype % 16 * 2 ^ 49 +
          d.axis % 4 * 2 ^ 47 + min (staleCount g) (2 ^ 23 - 1) * 2 ^ 24 + d.results % 2 ^ 24)) false

/-- DRVSTAT (R451). -/
def execDrvstat (h : Hdr) (s : State) : Host.Outcome State Fault Refusal :=
  startCtl s h [opTok s.cur.a] (.drvstat h) (reqSrcOf s.cur) tryDrvstat

/-! ## DLD and DLDL (R439, R449) -/

/-- Result index that a read names. -/
def dldIndex (q : Req) : Int :=
  let off : Int := match memOfInstr q.instr with | some m => m.off.toInt | none => 0
  (field (opTok q.firing.a).value.toNat 23 0 : Int) + off

/-- The flush may begin: earlier accesses that order it, or that touch the base, are performed (R348, R192, R439). -/
def dldOrderOk (s : State) (q : Req) (g : Region) : Bool :=
  let touches (x : Req) : Bool :=
    x.translated && decide (x.own ≠ 0 ∨ x.firing.trestle = none) && g.frames.any fun f => f.2 = x.pa / 2 ^ 16
  !(s.reqs.any fun x => sameUnit x q && decide (x.id < q.id ∧ x.stage ≠ .performed ∧ x.stage ≠ .held) &&
      (touches x || (x.acq && !isFence x && decide (x.firing.trestle = none ∨ x.lsid < q.lsid)) || isFence x && x.acq)) &&
    !((s.ctx q.firing.ctx).det && accessMayPrecede s q.firing.ctx (firingStep s q.firing) q.firing.tag.unit.toNat)

/-- The read of a settled result: R434, published, with its flags; an acquire where it says so. -/
def finishDld (r : R s0) (q : Req) (g : Region) (j : Nat) : R s0 :=
  let v := (opTok q.firing.a).value.toNat
  let o := resultOf g j
  if (List.range 384).all (fun k => q.marks.contains k) ∧ o.stale = false then
    let (k, w, fl) := resultValue (drecOf g.record) o
    let r1 := updResult r (drvDie v) (drvIndex v) j (publishResult (drecOf g.record))
    let r2 := orFlagsOf r1 q.firing fl
    ctlDone (r2.when q.acq fun z => acquireM z q.firing.core) q k w false
  else r

/-- One attempt of DLD or DLDL. -/
def tryDld (r : R s0) (q : Req) : R s0 :=
  let f := q.firing
  let v := (opTok f.a).value.toNat
  let lax := match q.instr with | .dldl .. => !(r.s.ctx f.ctx).det | _ => false
  match liveRegion r.s f.ctx v with
  | none => faultDld r q (noRegion v)
  | some g =>
    let j := dldIndex q
    if j < 0 ∨ ((drecOf g.record).results : Int) ≤ j then faultDld r q (noRegion v)
    else if lax then
      (match (resultOf g j.toNat).pub with
       | some (k, w) => ctlDone r q k w false
       | none => ctlDone r q .data 0 false)
    else match g.st with
      | .suspended => faultDld r q ⟨.derivedSuspended, true, [v]⟩
      | .active =>
        if q.aux = 1 then finishDld r q g j.toNat
        else if dldOrderOk r.s q g then updReq r q.id fun y => { y with aux := 1, marks := [] }
        else r
      | _ => if q.aux = 1 then updReq r q.id fun y => { y with aux := 0, marks := [] } else r

/-- DLD and DLDL at their firing. -/
def dldFire (s : State) (h : Hdr) (i : Instr) (m : Mem) : Host.Outcome State Fault Refusal :=
  let f := s.cur
  let r := liftCarry (R.start s) f
  let r1 := match predRule h.pm (opTok f.p) with
    | .silent => dropLsid r f m.lsid.val
    | .emit k v => noAccess r f h i m k v
    | _ => match kindRule [opTok f.a] with
      | some (k, v) => noAccess r f h i m k v
      | none =>
        let q : Req := { Req.new r.s.nextId i (firingOf s) (reqSrcOf f) (.dld 0) with
          scope := m.scope.val, acq := decide (m.order = Order.acq), lsid := m.lsid.val }
        let r2 := addReq (fireLsid r f m.lsid.val) fun _ => q
        if heldAhead r2.s q then r2 else tryDld r2 q
  (r1.when (peFails s f) fun q => markFailed q f.core f.x f.y).done

/-- DLD (R449). -/
def execDld (h : Hdr) (ty : Ty) (m : Mem) (s : State) : Host.Outcome State Fault Refusal := dldFire s h (.dld h ty m) m

/-- DLDL (R449). -/
def execDldl (h : Hdr) (ty : Ty) (m : Mem) (s : State) : Host.Outcome State Fault Refusal := dldFire s h (.dldl h ty m) m

/-- FLUSH_MARKER (R439): the marker of one slice reaches the result's slice, behind the deltas that the slice has sent
there. -/
def execFlushMarker (id home : Nat) (s : State) : Host.Outcome State Fault Refusal :=
  let r := R.start s
  (match getReq s id with
   | none => r
   | some q => match q.op with
     | .dld _ =>
       let v := (opTok q.firing.a).value.toNat
       (match liveRegion s q.firing.ctx v with
        | none => r
        | some g =>
          let j := (dldIndex q).toNat
          let d := s.die (drvDie v)
          if q.aux ≠ 1 ∨ 384 ≤ home ∨ g.st ≠ RegSt.active ∨ ctxMoves s q.firing.ctx = false then r
          else if d.deltas.any (fun x => decide (x.home = home) && decide (resultSlice (d.region x.region) x.res = resultSlice g j)) then r
          else match linesReady r (baseLines g fun pa => homeSlice pa = home) with
            | (r1, false) => r1
            | (r1, true) =>
              let q1 := { q with marks := if q.marks.contains home then q.marks else home :: q.marks }
              finishDld (updReq r1 id fun _ => q1) q1 g j)
     | _ => r).done

/-! ## Deltas, rescans, publication (R435 to R440) -/

/-- DELTA_APPLY (R435, R436, R438): delta n of a die is applied, once those of its home to its slice before it are. -/
def execDeltaApply (die n : Nat) (s : State) : Host.Outcome State Fault Refusal :=
  let r := R.start s
  let d := s.die die
  (match d.deltas[n]? with
   | none => r
   | some x =>
     let sl (y : Delta) : Nat := resultSlice (d.region y.region) y.res
     if (d.deltas.take n).any fun y => decide (y.home = x.home ∧ sl y = sl x) then r
     else
       let g := d.region x.region
       let (o, owed) := applyDelta (drecOf g.record) (resultOf g x.res) x
       let r1 := updResult (updDie r die fun k => { k with deltas := k.deltas.eraseIdx n }) die x.region x.res fun _ =>
         { o with changed := if (resultOf g x.res).dirty then o.changed else s.clk }
       if owed && !d.rescans.contains (x.region, x.res) then
         updDie r1 die fun k => { k with rescans := k.rescans ++ [(x.region, x.res)] }
       else r1).done

/-- RESCAN (R436): the n-th owed rescan of a die completes, in the order of its keystone unit. -/
def execRescan (die n : Nat) (s : State) : Host.Outcome State Fault Refusal :=
  let r := R.start s
  let d := s.die die
  (match d.rescans[n]? with
   | none => r
   | some (k, j) =>
     let g := d.region k
     let sl (x : Nat × Nat) : Nat := resultSlice (d.region x.1) x.2
     if (d.rescans.take n).any fun x => sl x = sl (k, j) then r
     else
       let rec_ := drecOf g.record
       let lines := ((rec_.elems j).map fun (e : Nat × Nat × Nat) => basePa g.frames (rec_.addr e.2.1 e.2.2) / 128 * 128).eraseDups
       match linesReady r lines with
       | (r1, false) => r1
       | (r1, true) =>
         let e := rescanResult s.byte g j
         updResult (updDie r1 die fun x => { x with rescans := x.rescans.eraseIdx n }) die k j fun o =>
           publishResult rec_ { o with ext := e, stale := false }).done

/-- PUBLISH (R440): a result that has not been published for 2,048 clk since it changed. -/
def execPublish (die n res : Nat) (s : State) : Host.Outcome State Fault Refusal :=
  let r := R.start s
  let g := (s.die die).region n
  let o := resultOf g res
  (if decide (g.st ≠ RegSt.free) && o.dirty && decide (o.changed + 2048 ≤ s.clk) then
    updResult r die n res (publishResult (drecOf g.record))
  else r).done

end Sys2Proof.Machine
end

