-- ==== Sys2Proof/Machine/Leases.lean ====
section
/-!
DEFINITION. Leases, replicas and logical time (R399 to R420): the instructions LEASE, RPLHINT, TICKRD and RPLCNT, and the events
PTS_ADVANCE, TRACKER_DECAY, REBASE and SCRUB_REPORT. Reads and writes under leases stand in Line.lean.
-/

set_option linter.unusedVariables false

namespace Sys2Proof.Machine

open Sys2Proof

variable {s0 : State}

/-! ## Addresses (R415 to R418) -/

/-- An address translated as a load, without a record on a fault. -/
def quietLoad (r : R s0) (f : Firing) (a : Nat) : R s0 × Option (Nat × Word) :=
  match checkAccess r f.core f.ctx a 1 .rd false with
  | (r1, .ok pa leaf) => (r1, some (pa, leaf))
  | (r1, .fault _) => (r1, none)

/-! ## LEASE (R415) -/

/-- One attempt of LEASE: it waits where a read at the home would. -/
def tryLease (n : Nat) (d : Bool) (r : R s0) (q : Req) : R s0 :=
  let f := q.firing
  let a := (opTok f.a).value.toNat
  let b := (opTok f.b).value.toNat
  if 2 ^ 48 ≤ a ∨ 2 ^ 16 ≤ b then ctlErr r q
  else match quietLoad r f a with
    | (r1, none) => ctlErr r1 q
    | (r1, some (pa, leaf)) =>
      let m := if b = 0 then 2 ^ 16 - 1 else b
      let len := if n = 0 then (r1.s.ctx f.ctx).lease.toNat else n
      let p := ownerTick r1.s (.core f.core)
      let det := (r1.s.ctx f.ctx).det
      if tickRoom r1.s (p + len) = false ∨ (det = true ∧ accessMayPrecede r1.s f.ctx (firingStep r1.s f) f.tag.unit.toNat = true) then r1
      else match physRead r1 (pa / 128 * 128) 128 with
        | (r2, .val _) =>
          let lv : Level := if det then .home else if d then .die else .any
          let (r3, c) := coreRead r2 f.core lv (p + len) len pa m leaf
          ctlDone r3 q .data (BitVec.ofNat 64 (c.wts % 2 ^ 16 * 2 ^ 16 + c.rts % 2 ^ 16)) false
        | (r2, _) => r2

/-- LEASE (R415). -/
def execLease (h : Hdr) (n : Fin 256) (d : Bool) (s : State) : Host.Outcome State Fault Refusal :=
  startCtl s h [opTok s.cur.a, opTok s.cur.b] (.lease h n d) (reqSrcOf s.cur) (tryLease n.val d)

/-! ## TICKRD (R416) -/

/-- The two ticks of a word: hi in [31:16], lo in [15:0]. -/
def tickWord (hi lo : Nat) : Nat := hi % 2 ^ 16 * 2 ^ 16 + lo % 2 ^ 16

/-- The value of TICKRD's selectors 1 and 2 for a physical address. -/
def tickAt (s : State) (core sel pa : Nat) : Nat :=
  let mts := max (s.homeSlice pa).mts s.mgmt.tf
  if sel = 1 then
    let l := s.line (pa / 128)
    if l.inL2 then 2 ^ 63 + tickWord l.wts l.rts else tickWord mts mts
  else match findCopy (s.core core).l1 (pa / 128) with
    | some c => 2 ^ 63 + (if readable s.mgmt.tf (ownerTick s (.core core)) 0 c then 2 ^ 62 else 0) + c.span % 2 ^ 16 * 2 ^ 32 + tickWord c.wts c.rts
    | none => tickWord mts mts

/-- TICKRD (R416). -/
def execTickrd (h : Hdr) (x : Fin 4) (s : State) : Host.Outcome State Fault Refusal :=
  let f := s.cur
  acting s h [opTok f.a] fun r =>
    let out (r : R s) (v : Nat) : R s := reply r f h .data (BitVec.ofNat 64 v) false
    if x = 0 then out r (tickWord s.mgmt.tf (ownerTick s (.core f.core)))
    else if x = 3 then out r (tickWord s.mgmt.tf s.mgmt.m)
    else match quietLoad r f (opTok f.a).value.toNat with
      | (r1, none) => replyErr r1 f h
      | (r1, some (pa, _)) => out r1 (tickAt r1.s f.core x.val pa)

/-! ## RPLHINT, RPLCNT (R417, R418) -/

/-- Status of RPLHINT: code and mask. -/
def hintStatus (code mask : Nat) : Word := BitVec.ofNat 64 (code * 2 ^ 56 + mask % 16)

/-- What RPLHINT does: the state and its status. -/
def hintAt (r : R s0) (core pa h : Nat) (leaf : Word) : R s0 × Word :=
  let die := dieOfCore core
  let cur := trackOf r.s pa
  let mask := match cur with | some t => t.mask | none => 0
  let fr := r.s.frame (pa / 2 ^ 16)
  let put (t : Track) (l : List Track) : R s0 := updHome r pa fun x => { x with tracks := setTrack l t }
  if fr.hostBias then (r, hintStatus 14 mask)
  else if fr.st ≠ .stable then (r, hintStatus 4 mask)
  else if h = 0 then
    match cur with
    | some t => if t.hold then (put { t with hold := false } (r.s.homeSlice pa).tracks, hintStatus 0 mask) else (r, hintStatus 1 mask)
    | none => (r, hintStatus 1 mask)
  else match trackEntry r.s pa with
    | none => (r, hintStatus 4 mask)
    | some (t, l) =>
      if h = 1 then
        if leafRp leaf = false ∨ 2 ≤ leafPolicy leaf then (r, hintStatus 12 mask)
        else if die = homeDie pa ∨ mask.testBit die = true then (r, hintStatus 1 mask)
        else (put { t with hold := false, mask := t.mask ||| 2 ^ die } l, hintStatus 0 (t.mask ||| 2 ^ die))
      else (put { t with hold := true, mask := 0, wr := 0 } l, hintStatus 0 0)

/-- RPLHINT (R417). -/
def execRplhint (h : Hdr) (x : Fin 3) (s : State) : Host.Outcome State Fault Refusal :=
  let f := s.cur
  acting s h [opTok f.a] fun r =>
    match quietLoad r f (opTok f.a).value.toNat with
    | (r1, none) => reply r1 f h .data (hintStatus 6 0) false
    | (r1, some (pa, leaf)) =>
      let (r2, v) := hintAt r1 f.core pa x.val leaf
      reply r2 f h .data v false

/-- The word of RPLCNT (R418). -/
def countWord (s : State) (pa : Nat) : Nat :=
  let hd := homeDie pa
  match trackOf s pa with
  | none => hd * 2 ^ 58 + 2 ^ 55
  | some t =>
    let deg := 1 + (List.range 4).countP fun d => t.mask.testBit d
    let rd (d : Nat) : Nat := if d = hd then 0 else t.rd.getD d 0 % 256
    t.mask % 16 * 2 ^ 60 + hd * 2 ^ 58 + deg * 2 ^ 55 + 2 ^ 54 + (if t.hold then 2 ^ 53 else 0) + t.wr % 256 * 2 ^ 40 +
      rd 3 * 2 ^ 32 + rd 2 * 2 ^ 24 + rd 1 * 2 ^ 16 + rd 0 * 2 ^ 8

/-- RPLCNT (R418). -/
def execRplcnt (h : Hdr) (s : State) : Host.Outcome State Fault Refusal :=
  let f := s.cur
  acting s h [opTok f.a] fun r =>
    match quietLoad r f (opTok f.a).value.toNat with
    | (r1, none) => replyErr r1 f h
    | (r1, some (pa, _)) => reply r1 f h .data (BitVec.ofNat 64 (countWord r1.s pa)) false

/-! ## Time (R402, R404, R408) -/

/-- PTS_ADVANCE (R402): a core's pts moves by one tick once every tickper × 64 clk. -/
def execPtsAdvance (core : Nat) (s : State) : Host.Outcome State Fault Refusal :=
  let r := R.start s
  let n := rplTickper s * 64
  let t := ownerTick s (.core core) + 1
  (if n ≠ 0 ∧ (s.core core).ptsClk + n ≤ s.clk ∧ tickRoom s t = true then
    raiseM (updCore r core fun k => { k with pts := t, ptsClk := k.ptsClk + n }) t
  else r).done

/-- TRACKER_DECAY (R408): every counter is halved once every decay × 1,024 clk. -/
def execTrackerDecay (s : State) : Host.Outcome State Fault Refusal :=
  let r := R.start s
  let n := rplDecay s * 1024
  let half (t : Track) : Track := { t with rd := t.rd.map (· / 2), wr := t.wr / 2 }
  (if n ≠ 0 ∧ s.mgmt.decayClk + n ≤ s.clk then
    let r1 := r.each (List.range 4) fun q d => updDie q d fun x =>
      { x with slices := x.slices.map fun y => (y.1, { y.2 with tracks := y.2.tracks.map half }) }
    updMgmt r1 fun m => { m with decayClk := m.decayClk + n }
  else r).done

/-- A holder is about to take a tick that asks for a rebase (R404). -/
def rebaseAsked (s : State) : Bool :=
  let far (t : Nat) : Bool := decide (s.mgmt.tf + 28672 ≤ t)
  far s.mgmt.m || s.reqs.any fun q => (match q.stage with | .issued | .recalling => true | _ => false) && far (reqTick s q)

/-- REBASE (R404): the clock hub broadcasts the new floor. -/
def execRebase (s : State) : Host.Outcome State Fault Refusal :=
  let r := R.start s
  (if s.mgmt.rebasing = none ∧ rebaseAsked s = true then
    updMgmt r fun m => { m with rebasing := some (max m.tf (m.m - 2 ^ 14)), scrubs := 0 }
  else r).done

/-- Scrubbers of the module: every slice and every core. -/
def scrubbers : Nat := 4 * 384 + 128

/-- The new floor holds everywhere: home lines behind it are read as it, copies behind it are expired by R399. -/
def newFloor (r : R s0) (tf : Nat) : R s0 :=
  let r1 := updMgmt r fun m => { m with tf := tf, rebasing := none, scrubs := 0 }
  r1.each (r1.s.lines.map Prod.fst) fun q n => updLine q n fun l =>
    if l.inL2 then { l with wts := max l.wts tf, rts := max l.rts tf } else l

/-- SCRUB_REPORT (R404): the last report completes the rebase. -/
def execScrubReport (s : State) : Host.Outcome State Fault Refusal :=
  let r := R.start s
  (match s.mgmt.rebasing with
   | none => r
   | some tf =>
     if s.mgmt.scrubs + 1 < scrubbers then updMgmt r fun m => { m with scrubs := m.scrubs + 1 }
     else newFloor r tf).done

end Sys2Proof.Machine
end

