-- ==== Sys2Proof/Machine/Page.lean ====
section
/-!
DEFINITION. Pages (R356 to R375): the instructions TLBINV, TLBINVA, BIASREQ, PGMIG and PGQRY, flips of a frame's bias (R365, R498),
and migration (R366, R367) with its events COPYING_COMPLETE and FREEZING_COMPLETE. Walks and checks stand in Ops.lean.
-/

set_option linter.unusedVariables false

namespace Sys2Proof.Machine

open Sys2Proof

variable {s0 : State}

/-! ## Invalidation (R359, R370) -/

/-- Cores whose TLBs a scope takes in (R370): 3 core, 4 cluster, 5 die, 6 module. -/
def coresInScope (core scope : Nat) : List Nat :=
  match scope with
  | 3 => [core]
  | 4 => (List.range 4).map (core / 4 * 4 + ·)
  | 5 => (List.range 32).map (core / 32 * 32 + ·)
  | _ => List.range 128

/-- Which translations an invalidation names: those of one context or of all, covering one address or any. -/
structure Inval where
  ctx : Option Nat
  va : Option Nat
deriving DecidableEq, Repr

def Inval.ofCtx (v : Inval) (c : Nat) : Bool := match v.ctx with | some x => decide (x = c) | none => true
def Inval.inPage (v : Inval) (va : Nat) : Bool := match v.va with | some a => decide (a / 2 ^ 16 = va / 2 ^ 16) | none => true
def Inval.tlb (v : Inval) (e : TlbEnt) : Bool :=
  v.ofCtx e.ctx && (match v.va with | some a => decide (e.va ≤ a ∧ a < e.va + e.size) | none => true)
def Inval.desc (v : Inval) (d : KvDesc) : Bool := v.ofCtx d.ctx && v.inPage d.va
def Inval.page (v : Inval) (p : KvPage) : Bool := v.ofCtx p.ctx && (v.inPage p.block || p.uses.any v.inPage)

/-- Entries of some TLBs that an invalidation drops. -/
def droppedIn (s : State) (core scope : Nat) (v : Inval) : List TlbEnt :=
  let cs := coresInScope core scope
  ((s.cores.filter fun x => cs.contains x.1).flatMap fun x => x.2.tlb.filter v.tlb) ++
    (if 4 ≤ scope then (s.clusters.filter fun x => cs.contains (4 * x.1)).flatMap fun x => x.2.tlb.filter v.tlb else [])

/-- The TLBs, walker tiles and base-die caches of a scope drop what an invalidation names. -/
def dropTranslations (r : R s0) (core scope : Nat) (v : Inval) : R s0 :=
  let cs := coresInScope core scope
  let r1 := r.each (r.s.cores.filter fun x => cs.contains x.1) fun q x => updCore q x.1 fun k =>
    { k with tlb := k.tlb.filter (fun e => !v.tlb e)
             walker := { k.walker with desc := k.walker.desc.filter (fun d => !v.desc d)
                                       pages := k.walker.pages.filter (fun p => !v.page p) } }
  let r2 := r1.when (4 ≤ scope) fun q => q.each (q.s.clusters.filter fun x => cs.contains (4 * x.1)) fun q x =>
    updCluster q x.1 fun k => { k with tlb := k.tlb.filter fun e => !v.tlb e }
  r2.when (5 ≤ scope) fun q => q.each (q.s.dies.filter fun x => cs.contains (32 * x.1)) fun q x =>
    updDie q x.1 fun k => { k with baseTlb := k.baseTlb.filter fun e => !v.tlb e }

/-- An access that a dropped entry may have translated. -/
def coveredBy (core scope : Nat) (v : Inval) (dropped : List TlbEnt) (q : Req) : Bool :=
  q.translated && !isLocal q.instr && (coresInScope core scope).contains q.firing.core && v.ofCtx q.firing.ctx &&
    (v.inPage q.va || dropped.any fun e => decide (e.ctx = q.firing.ctx ∧ e.va ≤ q.va ∧ q.va < e.va + e.size))

/-- Accesses that have not gone out translate anew. -/
def retranslate (r : R s0) (p : Req → Bool) : R s0 :=
  updReqs r fun l => l.map fun q => if q.stage = .blocked ∧ p q then { q with translated := false } else q

/-- Every covered access is performed or held; a block's held stores count until its commit. -/
def inflightDone (s : State) (p : Req → Bool) : Bool :=
  !(s.reqs.any fun q => p q && decide (q.stage ≠ .performed ∧ q.stage ≠ .held ∧ q.stage ≠ .blocked)) &&
    s.cores.all fun k => k.2.trestles.all fun t => match t.2 with | .busy i => !(i.held.any p) | _ => true

/-- An instruction of this family begins (R374): after the earlier accesses of its strand. -/
def pageMayBegin (s : State) (q : Req) : Bool :=
  match q.src with
  | .front _ => !earlierOpen s q true
  | _ => true

/-- The entries dropped, kept in a request's marks as base and size. -/
def entsOf (c : Nat) : List Nat → List TlbEnt
  | a :: n :: l => ⟨c, a, n, 0, 0, 0⟩ :: entsOf c l
  | _ => []

/-- One attempt of TLBINV or TLBINVA: the entries are dropped, then the accesses that they translated are awaited. -/
def tryInval (r : R s0) (q : Req) (scope : Nat) (v : Inval) : R s0 :=
  let c := q.firing.core
  let go (r : R s0) (ents : List TlbEnt) : R s0 :=
    if inflightDone r.s fun x => decide (x.id ≠ q.id) && coveredBy c scope v ents x then
      ctlDone r q .data (opTok q.firing.a).value true
    else r
  if q.aux = 1 then
    go r ((r.s.reqs.map fun (x : Req) => x.firing.ctx).eraseDups.flatMap fun k => entsOf k q.marks)
  else if pageMayBegin r.s q then
    let ents := droppedIn r.s c scope v
    let r1 := retranslate (dropTranslations r c scope v) (coveredBy c scope v ents)
    go (updReq r1 q.id fun x => { x with aux := 1, marks := ents.flatMap fun e => [e.va, e.size] }) ents
  else r

/-- PERMISSION of an instruction that names a context its issuer does not govern (R459). -/
def ctlDeny (r : R s0) (q : Req) : R s0 := faultReq r q (hdrOfInstr q.instr) ⟨.permission, true, []⟩

def tryTlbinv (scope : Nat) (r : R s0) (q : Req) : R s0 :=
  let a := (opTok q.firing.a).value.toNat
  let b := (opTok q.firing.b).value.toNat
  if field b 63 12 ≠ 0 then ctlErr r q
  else if governs r.s q.firing.ctx b = false then ctlDeny r q
  else tryInval r q scope ⟨some b, some a⟩

def tryTlbinva (scope : Nat) (r : R s0) (q : Req) : R s0 :=
  let a := (opTok q.firing.a).value.toNat
  if field a 63 13 ≠ 0 then ctlErr r q
  else if field a 12 12 = 1 then
    if (r.s.ctx q.firing.ctx).priv = .monitor then tryInval r q scope ⟨none, none⟩ else ctlDeny r q
  else if governs r.s q.firing.ctx (field a 11 0) = false then ctlDeny r q
  else tryInval r q scope ⟨some (field a 11 0), none⟩

/-- TLBINV (R370): the address at a, the context at b. -/
def execTlbinv (h : Hdr) (sc : Fin 8) (s : State) : Host.Outcome State Fault Refusal :=
  startAct s h [opTok s.cur.a, opTok s.cur.b] (.tlbinv h sc) (tryTlbinv sc.val)

/-- TLBINVA (R370): the context at a. -/
def execTlbinva (h : Hdr) (sc : Fin 8) (s : State) : Host.Outcome State Fault Refusal :=
  startAct s h [opTok s.cur.a] (.tlbinva h sc) (tryTlbinva sc.val)

/-! ## Frames -/

/-- The valid leaf of an address: physical address, leaf, level and entry address. -/
def leafAt (s : State) (c va : Nat) : Option (Nat × Word × Nat × Nat) :=
  if 2 ^ 48 ≤ va then none
  else match walk s c va with
    | .ok pa leaf level entry => some (localPa s pa, leaf, level, entry)
    | .fault .. => none

/-- The module writes 8 bytes of a page-table entry (R357). -/
def putEntry (r : R s0) (ea e : Nat) : R s0 :=
  let pa := localPa r.s ea
  homeWrite (recallHalves r pa 8 true) .dev 0 true pa (bytesLE 8 e)

/-- Every WAITA registered or polling on a frame completes with its word's current value, as WAKE does (R365, R366). -/
def wakeFrame (r : R s0) (f : Nat) : R s0 :=
  r.each (r.s.reqs.filter fun q => decide (q.pa / 2 ^ 16 = f) && (match q.op with | .waita _ => true | _ => false) &&
      decide (q.stage = .sleeping ∨ q.stage = .polling)) fun z q => wakeReq z q (waitaNow z.s q).2 q.acq

/-- Each buffered ordered atomic of a frame returns as a final BIAS_CONFLICT (R365). -/
def returnLanes (r : R s0) (f : Nat) : R s0 :=
  r.each (r.s.reqs.filter fun q => decide (q.pa / 2 ^ 16 = f ∧ (q.stage = .laneWait ∨ q.stage = .laneRefused))) fun z q =>
    biasFault (updHome z q.pa fun h =>
      { h with lanes := (h.lanes.map fun l => { l with buf := l.buf.filter (fun e => e.2 ≠ q.id) }).filter fun l => l.n ≠ 0 ∨ l.buf ≠ [] }) q

/-- Derived regions over a frame are suspended (R365, R442); a DRVSYNC that waits emits BIAS, a DRVDECL its handle. -/
def suspendRegions (r : R s0) (f : Nat) : R s0 :=
  let d := homeDie (f * 2 ^ 16)
  r.each ((r.s.die d).regions.filter fun g => tracksNow g.2 && g.2.frames.any fun x => x.2 = f) fun z g =>
    let z1 := updRegion z d g.1 fun y => { y with st := .suspended, req := 0 }
    match getReq z1.s g.2.req with
    | none => z1
    | some q => match q.instr with
      | .drvdecl _ => ctlDone z1 q .data (BitVec.ofNat 64 (drvHandle d g.1 g.2.gen)) true
      | _ => ctlStatus z1 q 14 true

/-- Writes the B bit of a leaf (R365, R371); 0 for a larger leaf. -/
def putBias (r : R s0) (entry : Nat) (host : Bool) : R s0 :=
  if entry = 0 then r
  else
    let e := r.s.nat (localPa r.s entry) 8
    putEntry r entry (e / 2 ^ 8 * 2 ^ 8 + (if host then 2 ^ 7 else 0) + e % 2 ^ 7)

/-- A mailbox command ends (R510): its status byte. -/
def boxDone (r : R s0) (m code : Nat) : R s0 :=
  updMgmt r fun g =>
    let b := tabGet Mailbox.init m g.boxes
    { g with boxes := tabSet Mailbox.init m { b with bytes := tabSet 0 1 (BitVec.ofNat 8 code) b.bytes, pending := 0 } g.boxes }

/-- The end of a flip for whoever asked for it (R373, R498). -/
def flipAnswer (r : R s0) (req host : Option Nat) (code count : Nat) : R s0 :=
  let r1 := match host with
    | some m => boxDone r m code
    | none => r
  match req.bind (getReq r1.s) with
  | some q => ctlDone r1 q .data (BitVec.ofNat 64 (code * 2 ^ 56 + count % 2 ^ 16)) true
  | none => r1

/-- A flip to host (R365): nothing in it waits for another party, so it is one step. -/
def flipToHost (r : R s0) (f entry : Nat) (req host : Option Nat) : R s0 :=
  let r1 := collapseFrame (wakeFrame (returnLanes r f) f) f
  let r2 := updFrame (suspendRegions r1 f) f fun x => { x with hostBias := true }
  flipAnswer (putBias r2 entry true) req host 0 0

/-- Lines of a frame that a host holds. -/
def hostLines (s : State) (f : Nat) : List (Nat × Line) :=
  s.lines.filter fun l => decide (l.1 / 512 = f ∧ (l.2.half0 ≠ 0 ∨ l.2.half1 ≠ 0))

/-- A flip to device is over once no half of the frame is owned (R365). -/
def flipCheck (r : R s0) (f : Nat) : R s0 :=
  match (r.s.frame f).st with
  | .flipping false entry count req host =>
    if (hostLines r.s f).any fun l => decide (2 ≤ l.2.half0 ∨ 2 ≤ l.2.half1) then r
    else
      let r1 := updFrame r f fun x => { x with hostBias := false, st := .stable }
      flipAnswer (putBias r1 entry false) req host 0 count
  | _ => r

/-- A flip to device begins: every owned half is recalled. -/
def flipToDevice (r : R s0) (f entry : Nat) (req host : Option Nat) : R s0 :=
  let ls := hostLines r.s f
  let owned (v : Nat) : Nat := if 2 ≤ v then 1 else 0
  let count := (ls.map fun (l : Nat × Line) => owned l.2.half0 + owned l.2.half1).foldl (· + ·) 0
  let r1 := updFrame r f fun x => { x with st := .flipping false entry count req host }
  let r2 := r1.each ls fun q l => dirFreeLine (askHalf (askHalf q l.1 false true) l.1 true true) l.1
  flipCheck r2 f

/-- One attempt of BIASREQ. -/
def tryBiasreq (r : R s0) (q : Req) : R s0 :=
  let a := (opTok q.firing.a).value.toNat
  let b := (opTok q.firing.b).value.toNat
  if 2 ≤ b then ctlErr r q
  else if q.aux = 1 ∨ pageMayBegin r.s q = false then r
  else match leafAt r.s q.firing.ctx a with
    | none => ctlStatus r q 6 true
    | some (pa, _, level, entry) =>
      let f := pa / 2 ^ 16
      let e := if level = 0 then entry else 0
      let x := r.s.frame f
      if x.st ≠ .stable then ctlStatus r q 4 true
      else if x.hostBias = decide (b = 1) then ctlStatus r q 1 true
      else
        let r1 := updReq r q.id fun y => { y with aux := 1 }
        if b = 1 then flipToHost r1 f e (some q.id) none else flipToDevice r1 f e (some q.id) none

/-- BIASREQ (R371). -/
def execBiasreq (h : Hdr) (s : State) : Host.Outcome State Fault Refusal :=
  startAct s h [opTok s.cur.a, opTok s.cur.b] (.biasreq h) tryBiasreq

/-! ## Migration (R366, R367) -/

/-- A leaf that PGMIG may take: 64 KiB, Wr set, M clear. -/
def migLeaf (leaf : Word) (level : Nat) : Bool := decide (level = 0) && leafWr leaf && !leaf.getLsbD 10

/-- One attempt of PGMIG: the conditions in the order of R371, then Copying. -/
def tryPgmig (r : R s0) (q : Req) : R s0 :=
  let c := q.firing.ctx
  let a := (opTok q.firing.a).value.toNat
  let b := (opTok q.firing.b).value.toNat
  if q.aux = 1 ∨ pageMayBegin r.s q = false then r
  else match leafAt r.s c a, leafAt r.s c b with
    | some (pa, la, na, ea), some (pb, lb, nb, eb) =>
      let f := pa / 2 ^ 16
      let g := pb / 2 ^ 16
      if (r.s.frame f).st ≠ .stable ∨ (r.s.frame g).st ≠ .stable then ctlStatus r q 4 true
      else if migLeaf la na = false ∨ migLeaf lb nb = false ∨ f = g then ctlStatus r q 13 true
      else if (r.s.frame f).hostBias ∨ (r.s.frame g).hostBias then ctlStatus r q 14 true
      else if isRegistered r.s pa ∨ isRegistered r.s pb then ctlStatus r q 15 true
      else
        let wa := la.toNat + 2 ^ 10
        let wb := lb.toNat + 2 ^ 10
        let m : Mig := ⟨g, q.id, c, q.firing.core, a / 2 ^ 16 * 2 ^ 16, b / 2 ^ 16 * 2 ^ 16, ea, eb, wa, wb, 0⟩
        let r1 := putEntry (putEntry r ea wa) eb wb
        let r2 := updFrame r1 f fun x => { x with st := .copying m, copied := [] }
        updReq (updFrame r2 g fun x => { x with st := .staging q.id }) q.id fun y => { y with aux := 1 }
    | _, _ => ctlStatus r q 6 true

/-- PGMIG (R371). -/
def execPgmig (h : Hdr) (s : State) : Host.Outcome State Fault Refusal :=
  startAct s h [opTok s.cur.a, opTok s.cur.b] (.pgmig h) tryPgmig

/-- The frame that a PGMIG migrates. -/
def migOf (s : State) (id : Nat) : Option (Nat × Mig × Bool) :=
  s.frames.findSome? fun x => match x.2.st with
    | .copying m => if m.req = id then some (x.1, m, false) else none
    | .freezing m => if m.req = id then some (x.1, m, true) else none
    | _ => none

/-- COPYING_COMPLETE (R366): all 512 lines are copied, and Freezing begins. -/
def execCopyingComplete (id : Nat) (s : State) : Host.Outcome State Fault Refusal :=
  let r := R.start s
  (match migOf s id with
   | some (f, m, false) => if m.next = 512 then updFrame r f fun x => { x with st := .freezing m } else r
   | _ => r).done

/-- A migration ends: both frames are Stable. -/
def migEnd (r : R s0) (f : Nat) (m : Mig) : R s0 :=
  updFrame (updFrame r f fun x => { x with st := .stable, copied := [] }) m.to_ fun x => { x with st := .stable }

/-- Free bytes fill a range. -/
def freeBytes (r : R s0) (pa : Nat) : Nat → R s0
  | 0 => r
  | n + 1 => freeBytes ((r.eff (.mem pa (Sys2Proof.Config.freeByte r.s.freeCtr))).eff .nextFree) (pa + 1) n

/-- Abandonment (R367): M is cleared wherever the leaf still holds what PGMIG wrote, and the new frame's bytes are
undefined. -/
def abandonMig (r : R s0) (f : Nat) (m : Mig) : R s0 :=
  let clear (r : R s0) (ea w : Nat) : R s0 := if r.s.nat (localPa r.s ea) 8 = w then putEntry r ea (w - 2 ^ 10) else r
  freeBytes (migEnd (clear (clear r m.ea m.wa) m.eb m.wb) f m) (m.to_ * 2 ^ 16) (2 ^ 16)

/-- A physical address of one frame in another. -/
def moveAddr (f g pa : Nat) : Nat := if pa / 2 ^ 16 = f then g * 2 ^ 16 + pa % 2 ^ 16 else pa

/-- A request that waits with a translation of page a goes to the new home, one of page b to the old frame. -/
def moveReq (f : Nat) (m : Mig) (q : Req) : Req :=
  if q.translated = false ∨ q.firing.ctx ≠ m.ctx then q
  else if q.va / 2 ^ 16 * 2 ^ 16 = m.va then { q with pa := moveAddr f m.to_ q.pa }
  else if q.va / 2 ^ 16 * 2 ^ 16 = m.vb then { q with pa := moveAddr m.to_ f q.pa }
  else q

/-- The lanes of a frame, with N and buffered entries, at the new home (R366). -/
def moveLanes (r : R s0) (f g : Nat) : R s0 :=
  let d := homeDie (f * 2 ^ 16)
  let at_ (l : Lane) : Bool := decide (l.granule / 2 ^ 13 = f)
  let ls := (r.s.die d).slices.flatMap fun x => x.2.lanes.filter at_
  let r1 := updDie r d fun k => { k with slices := k.slices.filterMap fun x =>
      let v := { x.2 with lanes := x.2.lanes.filter (fun l => !at_ l) }
      if v = Slice.init then none else some (x.1, v) }
  r1.each ls fun q l =>
    let gr := g * 2 ^ 13 + l.granule % 2 ^ 13
    updHome q (gr * 8) fun h => { h with lanes := setLane h.lanes { l with granule := gr } }

/-- Requests of lanes, and those that wait, follow their page; so do the stores that blocks hold. -/
def moveAccesses (r : R s0) (f : Nat) (m : Mig) : R s0 :=
  let r1 := updReqs r fun l => l.map fun q =>
    if q.stage = .laneWait ∧ q.pa / 2 ^ 16 = f then { q with pa := moveAddr f m.to_ q.pa }
    else if q.stage = .sleeping ∨ q.stage = .polling ∨ q.stage = .performed then q else moveReq f m q
  r1.each r1.s.cores fun q k => q.each (k.2.trestles.map Prod.fst) fun z t =>
    updInst z k.1 t fun i => { i with held := i.held.map (moveReq f m) }

/-- Exchanged addr fields, with M clear (R366). -/
def swapAddr (w v : Nat) : Nat := w / 2 ^ 52 * 2 ^ 52 + field v 51 11 * 2 ^ 11 + w % 2 ^ 10

/-- Freezing and Switching (R366). -/
def switchMig (r : R s0) (f : Nat) (m : Mig) : R s0 :=
  let clear := (List.range 512).filter fun k => !(r.s.frame f).copied.contains k
  let r1 := r.each clear fun q k => copyLine q (f * 512 + k) (m.to_ * 512 + k)
  if r1.s.nat (localPa r1.s m.ea) 8 ≠ m.wa ∨ r1.s.nat (localPa r1.s m.eb) 8 ≠ m.wb then
    let r2 := abandonMig r1 f m
    match getReq r2.s m.req with
    | some q => ctlStatus r2 q 16 true
    | none => r2
  else
    let r2 := putEntry (putEntry r1 m.ea (swapAddr m.wa m.wb)) m.eb (swapAddr m.wb m.wa)
    let r3 := dropTranslations (dropTranslations r2 m.core 6 ⟨some m.ctx, some m.va⟩) m.core 6 ⟨some m.ctx, some m.vb⟩
    let r4 := wakeFrame (collapseFrame (moveAccesses (moveLanes r3 f m.to_) f m) f) f
    let r5 := migEnd r4 f m
    match getReq r5.s m.req with
    | some q => ctlDone r5 q .data (BitVec.ofNat 64 clear.length) true
    | none => r5

/-- FREEZING_COMPLETE (R366): every line with a clear copied bit is recopied, and Switching exchanges the leaves. -/
def execFreezingComplete (id : Nat) (s : State) : Host.Outcome State Fault Refusal :=
  let r := R.start s
  (match migOf s id with
   | some (f, m, true) => switchMig r f m
   | _ => r).done

/-- A cut of a context abandons its migrations in Copying (R367): PGMIG is kept and starts again after the cut. -/
def cutMigrations (r : R s0) (c : Nat) : R s0 :=
  r.each r.s.frames fun q x => match x.2.st with
    | .copying m =>
      if m.ctx = c then updReq (abandonMig q x.1 m) m.req fun y => { y with aux := 0 } else q
    | _ => q

/-- A flip or a migration in Freezing for the context lets its cut wait (R367, R368). -/
def pageBusy (s : State) (c : Nat) : Bool :=
  s.frames.any fun x => match x.2.st with
    | .flipping _ _ _ (some id) _ => (getReq s id).any fun q => decide (q.firing.ctx = c)
    | .freezing m => decide (m.ctx = c)
    | _ => false

/-! ## PGQRY (R372) -/

/-- Migration state of a frame, as its own or as the one that receives it. -/
def migCode (s : State) (f : Nat) : Nat :=
  let code (x : FlipSt) : Nat := match x with | .copying _ => 1 | .freezing _ => 2 | _ => 0
  match (s.frame f).st with
  | .staging id => (match migOf s id with | some (_, _, b) => if b then 2 else 1 | none => 0)
  | x => code x

/-- The page word. -/
def pageWord (s : State) (c a : Nat) : Nat :=
  match leafAt s c a with
  | none => 7 * 2 ^ 61
  | some (pa, leaf, level, _) =>
    let f := pa / 2 ^ 16
    let bit (i k : Nat) : Nat := (if leaf.getLsbD i then 1 else 0) * 2 ^ k
    let bias := match (s.frame f).st with
      | .flipping toHost .. => if toHost then 2 else 3
      | _ => if (s.frame f).hostBias then 1 else 0
    level * 2 ^ 61 + bit 2 60 + bit 3 59 + bit 4 58 + bit 5 57 + bit 6 56 + bit 7 55 + leafPolicy leaf * 2 ^ 53 + bit 10 52 +
      bit 52 51 + bias * 2 ^ 49 + migCode s f * 2 ^ 46 + (if isRegistered s pa then 2 ^ 45 else 0) +
      stackOf (f * 2 ^ 16) * 2 ^ 41 + homeSlice (f * 2 ^ 16) * 2 ^ 32

/-- PGQRY (R372). -/
def execPgqry (h : Hdr) (s : State) : Host.Outcome State Fault Refusal :=
  let a := opTok s.cur.a
  acting s h [a] fun r => reply r (firingOf s) h .data (BitVec.ofNat 64 (pageWord s s.cur.ctx a.value.toNat)) false

end Sys2Proof.Machine
end

