-- ==== Sys2Proof/Machine/System.lean ====
section
/-!
DEFINITION. The system instructions TRAP, ERET, CSRRD, CSRWR, BREAK and OWNQRY (R481 to R486), the registers of contexts (R459 to
R463), of queues (R223) and of the module (R405, R409), and the events CONTEXT_CREATE, CONTEXT_DESTROY, TICKBASE_WRITE,
REGISTER_WRITE, SCRUB and DUPLICATED_STATE_COMPARE. MARK stands in Cut.lean.
-/

set_option linter.unusedVariables false

namespace Sys2Proof.Machine

open Sys2Proof

variable {s0 : State}

/-! ## TRAP and BREAK (R482) -/

/-- The record of a TRAP or BREAK: w0 the value of a, w1 the code. -/
def trapRec (f : Firing) (cause : Cause) (code : Nat) : Rec :=
  recOf f cause false (firingSrc f) 0 [(opTok f.a).value.toNat, code]

/-- TRAP (R482): in a block the strand is Trapped; in a configuration the record is written and a goes on. -/
def execTrap (h : Hdr) (code : BitVec 16) (s : State) : Host.Outcome State Fault Refusal :=
  acting s h [opTok s.cur.a] fun r =>
    let f := firingOf s
    takeFault r f (trapRec f .trapInstr code.toNat) fun q => reply q f h .data (opTok f.a).value false

/-- BREAK (R482): MOV while CTXCFG.BRK is 0; else in a block the strand is Trapped, and in a configuration a is held
until ERET. -/
def execBrk (h : Hdr) (s : State) : Host.Outcome State Fault Refusal :=
  acting s h [opTok s.cur.a] fun r =>
    let f := firingOf s
    if (s.ctx f.ctx).brk = false then reply r f h .data (opTok f.a).value false
    else takeFault r f (trapRec f .breakInstr 0) fun q =>
      updPe q f.core f.x f.y fun p => { p with breaks := p.breaks ++ [⟨f, h⟩] }

/-! ## ERET (R483) -/

/-- Releases every BREAK that a configuration unit holds; true when it held one. -/
def releaseBreaks (r : R s0) (core c : Nat) (u : BitVec 13) : R s0 × Bool :=
  let mine (b : HeldBreak) : Bool := decide (b.firing.ctx = c ∧ b.firing.tag.unit = u)
  let l := (r.s.core core).pes.flatMap fun p => p.2.breaks.filter mine
  let r1 := mapPes r core fun p => { p with breaks := p.breaks.filter fun b => !mine b }
  (r1.each l fun q b => reply q b.firing b.h .data (opTok b.firing.a).value false, !l.isEmpty)

/-- One attempt of ERET: a release, so it follows the issuer's earlier accesses. -/
def tryEret (r : R s0) (q : Req) : R s0 :=
  let v := (opTok q.firing.a).value.toNat
  let b := (opTok q.firing.b).value
  let c := field v 35 24
  let core := field v 20 14
  let u := BitVec.ofNat 13 (field v 13 1)
  let out (r : R s0) (n : Word) : R s0 := ctlDone r q .data n false
  if field v 63 36 ≠ 0 ∨ field v 23 21 ≠ 0 ∨ b.toNat % 16 ≠ 0 ∨ 2 ^ 48 ≤ b.toNat then ctlErr r q
  else if governs r.s q.firing.ctx c = false then ctlDeny r q
  else if earlierOpen r.s q false then r
  else if ctxMoves r.s c = false ∨ field v 0 0 = 1 then out r 0
  else match strandOf (r.s.core core) c u with
    | some x =>
      if x.st = .trapped then out (resumeStrand r core c u (if b = 0 then none else some b)) 1 else out r 0
    | none =>
      let (r1, any) := releaseBreaks r core c u
      out r1 (if any then 1 else 0)

/-- ERET (R483). -/
def execEret (h : Hdr) (s : State) : Host.Outcome State Fault Refusal :=
  startAct s h [opTok s.cur.a, opTok s.cur.b] (.eret h) tryEret

/-! ## Registers as words -/

def b2n (b : Bool) : Nat := if b then 1 else 0

/-- State codes of a context (R464). -/
def ctxCode (x : CtxSt) : Nat :=
  match x with | .absent => 0 | .idle => 1 | .running => 2 | .cutting => 3 | .saving => 4 | .saved => 5 | .resuming => 6

/-- CTXCFG (R462). -/
def ctxCfg (x : Ctx) : Nat :=
  x.gov.toNat * 2 ^ 52 + privCode x.priv * 2 ^ 50 + b2n x.valid * 2 ^ 49 + b2n x.det * 2 ^ 48 + x.lease.toNat * 2 ^ 40 +
    b2n x.tmen * 2 ^ 39 + b2n x.brk * 2 ^ 38

/-- CTXSTAT (R463). -/
def ctxStat (x : Ctx) : Nat := ctxCode x.st * 2 ^ 5 + b2n x.tm * 2 ^ 4 + b2n x.lost * 2 ^ 3

def qCode (x : QSt) : Nat := match x with | .disabled => 0 | .enabled => 1 | .stopped => 2 | .draining => 3

/-- Word k of a queue's descriptor (R223). -/
def queueWord (x : Queue) (k : Nat) : Nat :=
  match k with
  | 0 => x.age.toNat * 2 ^ 32
  | 1 => x.base.toNat / 64 * 64
  | 2 => x.size.toNat * 2 ^ 17 + x.cls.toNat * 2 ^ 21 + x.weight.toNat * 2 ^ 24 + qCode x.st * 2 ^ 32 + x.ctx.toNat * 2 ^ 34 +
      x.cause.toNat * 2 ^ 56
  | _ => x.tail.toNat * 2 ^ 32 + x.head.toNat

/-- The value of a CSR of context c as an issuer on a core reads it (R461); an Absent context's read 0. -/
def csrValue (s : State) (core c n : Nat) : Nat :=
  let x := s.ctx c
  match n with
  | 0x020 => s.mgmt.tf % 2 ^ 16
  | 0x021 => s.mgmt.rplctl.toNat
  | _ =>
    if x.st = .absent then 0
    else match n with
      | 0x000 => x.flags.toNat
      | 0x001 => c + privCode x.priv * 2 ^ 12 + core * 2 ^ 14
      | 0x002 => ctxCfg x
      | 0x003 => x.wdog.toNat
      | 0x004 => ctxStat x
      | 0x010 => x.ptroot.toNat
      | 0x011 => x.kvBase.toNat
      | 0x012 => x.kvCnt.toNat
      | 0x013 => x.ovfBase.toNat
      | 0x014 => x.ovfCnt.toNat
      | 0x018 => x.frBase.toNat
      | 0x019 => x.frSize.toNat
      | 0x01A => x.saveBase.toNat
      | 0x030 => x.qsel.toNat
      | 0x031 => queueWord (s.queue x.qsel.toNat) 0
      | 0x032 => queueWord (s.queue x.qsel.toNat) 1
      | 0x033 => queueWord (s.queue x.qsel.toNat) 2
      | 0x034 => queueWord (s.queue x.qsel.toNat) 3
      | _ => 0

/-- The queue registers of the selected queue (R461). -/
def isQdesc (n : Nat) : Bool := decide (0x031 ≤ n ∧ n ≤ 0x034)

/-- The issuer may reach a register of context c: it governs c, and for a queue register the queue's context (R459, R461). -/
def csrAllowed (s : State) (iss c n : Nat) : Bool :=
  governs s iss c && (!isQdesc n || governs s iss (s.queue (s.ctx c).qsel.toNat).ctx.toNat)

/-! ## Writes -/

/-- Privilege of code v, unless it is reserved or above a level (R462). -/
def privUpTo (v lvl : Nat) : Option Priv :=
  match v with
  | 0 => some .user
  | 1 => if 1 ≤ lvl then some .supervisor else none
  | 2 => if 2 ≤ lvl then some .monitor else none
  | _ => none

/-- Creation of a context (R460, R461): the creating write sets gov, priv and valid; every other field takes its Reset value. -/
def createCtx (r : R s0) (iss c : Nat) (v : Nat) : R s0 :=
  updCtx r c fun _ =>
    { Ctx.init with
      gov := BitVec.ofNat 12 iss, priv := (privUpTo (field v 51 50) (privCode (r.s.ctx iss).priv)).getD .user, valid := true,
      st := .idle }

/-- Destruction of a context (R460): its queues, groups and derived regions are freed. -/
def destroyCtx (r : R s0) (c : Nat) : R s0 :=
  let r1 := r.each (r.s.queues.filter fun q => q.2.ctx.toNat = c) fun z q => updQueue z q.1 fun _ => Queue.init
  let r2 := r1.each (r1.s.groups.filter fun g => g.2.used && decide (g.2.ctx = c)) fun z g => updGroup z g.1 fun _ => Group.init
  let r3 := r2.each (List.range 4) fun z d =>
    z.each ((z.s.die d).regions.filter fun g => decide (g.2.st ≠ .free ∧ g.2.ctx = c)) fun y g => dropRegion y d g.1
  updCtx (updWorks r3 fun l => l.filter fun w => w.ctx ≠ c) c fun _ => Ctx.init

/-- A write of CTXCFG of c by a context that may make it (R460, R462). -/
def writeCfg (r : R s0) (iss c v : Nat) : R s0 :=
  let x := r.s.ctx c
  let valid := decide (field v 49 49 = 1)
  match x.st with
  | .absent => if valid && decide (1 ≤ privCode (r.s.ctx iss).priv) then createCtx r iss c v else r
  | st =>
    if valid = false ∧ c ≠ 0 ∧ (st = .idle ∨ st = .saved) ∧ governs r.s iss c = true ∧ iss ≠ c then destroyCtx r c
    else
      let idle := decide (st = .idle)
      updCtx r c fun y =>
        { y with priv := if idle then (privUpTo (field v 51 50) (privCode (r.s.ctx iss).priv)).getD y.priv else y.priv
                 det := if idle then decide (field v 48 48 = 1) else y.det
                 brk := if idle then decide (field v 38 38 = 1) else y.brk
                 lease := if field v 47 40 = 0 then y.lease else BitVec.ofNat 8 (field v 47 40)
                 tmen := decide (field v 39 39 = 1) }

/-- A write of word k of a queue's descriptor (R223 to R225). -/
def writeQueueWord (r : R s0) (q k v : Nat) : R s0 :=
  let open_ := decide ((r.s.queue q).st = .disabled)
  match k with
  | 0 => r.when open_ fun z => updQueue z q fun x => { x with age := BitVec.ofNat 32 (field v 63 32) }
  | 1 => r.when open_ fun z => updQueue z q fun x => { x with base := BitVec.ofNat 48 (field v 47 6 * 64) }
  | 2 =>
    let r1 := r.when open_ fun z => updQueue z q fun x =>
      { x with size := if 12 < field v 20 17 then x.size else BitVec.ofNat 4 (field v 20 17)
               cls := BitVec.ofNat 3 (field v 23 21)
               weight := BitVec.ofNat 8 (max 1 (field v 31 24))
               ctx := BitVec.ofNat 12 (field v 45 34) }
    (match field v 33 32 with
     | 0 => disableQueue r1 q
     | 1 => enableQueue r1 q
     | _ => r1)
  | _ => ringBell r q (BitVec.ofNat 64 (field v 63 32))

/-- No context other than the writer is live or saved, and the writer has no other live unit (R405). -/
def ticksFree (s : State) (iss : Nat) : Bool :=
  (s.ctxs.all fun x => match x.2.st with
    | .absent | .idle => true
    | _ => decide (x.1 = iss)) &&
    decide ((s.works.filter fun (w : Work) => w.ctx = iss ∧ w.st = .live ∧ w.ended = false).length ≤ 1) &&
    (match (s.ctx iss).st with | .absent | .idle | .running => true | _ => false)

/-- A write of TICKBASE (R405): every tick takes the value, and every copy is gone. -/
def writeTickbase (r : R s0) (iss v : Nat) : R s0 :=
  if ticksFree r.s iss = false then r
  else
    let t := v % 2 ^ 16
    let r1 := updMgmt r fun m => { m with tf := t, m := t, hts := [], rebasing := none, scrubs := 0 }
    let r2 := r1.each (r1.s.cores.map Prod.fst) fun q c => updCore q c fun k => { k with pts := t, rmax := t, l1 := [] }
    let r3 := r2.each (r2.s.dies.map Prod.fst) fun q d => updDie q d fun x =>
      { x with replicas := [], jobs := x.jobs.map fun j => (j.1, { j.2 with jts := if j.2.used then t else j.2.jts })
               slices := x.slices.filterMap fun y => let z := { y.2 with mts := 0 }; if z = Slice.init then none else some (y.1, z) }
    r3.each (r3.s.lines.map Prod.fst) fun q n => updLine q n fun l => if l.inL2 then { l with wts := t, rts := t } else l

/-- A write of v to CSR n of context c by context iss; a value outside the register's limits is ignored (R461). -/
def writeCsr (r : R s0) (iss c n v : Nat) : R s0 :=
  let put (ok : Bool) (f : Ctx → Ctx) : R s0 := if ok && decide ((r.s.ctx c).st ≠ .absent) then updCtx r c f else r
  match n with
  | 0x000 => put true fun x => { x with flags := x.flags &&& ~~~BitVec.ofNat 5 v }
  | 0x002 => writeCfg r iss c v
  | 0x003 => put (decide (v < 2 ^ 32)) fun x => { x with wdog := BitVec.ofNat 32 (max 256 v) }
  | 0x004 => put true fun x => { x with tm := x.tm && decide (field v 4 4 = 0), lost := x.lost && decide (field v 3 3 = 0) }
  | 0x010 => put (decide (v < 2 ^ 52 ∧ v % 2 ^ 11 = 0)) fun x => { x with ptroot := BitVec.ofNat 52 v }
  | 0x011 => put (decide (v % 64 = 0)) fun x => { x with kvBase := BitVec.ofNat 64 v }
  | 0x012 => put (decide (v ≤ 2 ^ 20)) fun x => { x with kvCnt := BitVec.ofNat 21 v }
  | 0x013 => put (decide (v % 4096 = 0)) fun x => { x with ovfBase := BitVec.ofNat 64 v }
  | 0x014 => put (decide (v < 2 ^ 16)) fun x => { x with ovfCnt := BitVec.ofNat 16 v }
  | 0x018 => put (decide (v < 2 ^ 52 ∧ v % 64 = 0)) fun x => { x with frBase := BitVec.ofNat 52 v }
  | 0x019 => put (decide (4 ≤ v ∧ v ≤ 16)) fun x => { x with frSize := BitVec.ofNat 5 v }
  | 0x01A => put (decide (v < 2 ^ 52 ∧ v % 4096 = 0)) fun x => { x with saveBase := BitVec.ofNat 52 v }
  | 0x020 => writeTickbase r iss v
  | 0x021 => updMgmt r fun m => { m with rplctl := BitVec.ofNat 64 (field v 47 8 * 2 ^ 8) }
  | 0x030 => put (decide (v < 2 ^ 14)) fun x => { x with qsel := BitVec.ofNat 14 v }
  | 0x031 => writeQueueWord r (r.s.ctx c).qsel.toNat 0 v
  | 0x032 => writeQueueWord r (r.s.ctx c).qsel.toNat 1 v
  | 0x033 => writeQueueWord r (r.s.ctx c).qsel.toNat 2 v
  | 0x034 => writeQueueWord r (r.s.ctx c).qsel.toNat 3 v
  | _ => r

/-! ## CSRRD and CSRWR (R484) -/

/-- The context that a CSR instruction names: its own, or with X the one at b; none for a b that gives ERROR. -/
def csrCtx (f : Firing) (x : Bool) : Option Nat :=
  let b := opTok f.b
  if x = false then some f.ctx
  else if b.kind = .data ∧ b.value.toNat < 2 ^ 12 then some b.value.toNat
  else none

/-- CSRRD (R484). -/
def execCsrrd (h : Hdr) (n : BitVec 12) (x : Bool) (s : State) : Host.Outcome State Fault Refusal :=
  acting s h [opTok s.cur.a] fun r =>
    let f := firingOf s
    match csrCtx f x with
    | none => replyErr r f h
    | some c =>
      if csrAllowed s f.ctx c n.toNat then reply r f h .data (BitVec.ofNat 64 (csrValue s f.core c n.toNat)) false
      else denyFault r f h (firingSrc f)

/-- The write is a creation, which no governor of the context can precede (R460). -/
def isCreation (s : State) (iss c n v : Nat) : Bool :=
  decide (n = 0x002 ∧ (s.ctx c).st = .absent ∧ field v 49 49 = 1 ∧ 1 ≤ privCode (s.ctx iss).priv)

/-- One attempt of CSRWR. -/
def tryCsrwr (n : BitVec 12) (x : Bool) (r : R s0) (q : Req) : R s0 :=
  let f := q.firing
  let v := (opTok f.a).value.toNat
  match csrCtx f x with
  | none => ctlErr r q
  | some c =>
    if isCreation r.s f.ctx c n.toNat v || csrAllowed r.s f.ctx c n.toNat then
      let old := csrValue r.s f.core c n.toNat
      ctlDone (writeCsr r f.ctx c n.toNat v) q .data (BitVec.ofNat 64 old) false
    else ctlDeny r q

/-- CSRWR (R484). -/
def execCsrwr (h : Hdr) (n : BitVec 12) (x : Bool) (s : State) : Host.Outcome State Fault Refusal :=
  startAct s h [opTok s.cur.a] (.csrwr h n x) (tryCsrwr n x)

/-! ## OWNQRY (R486) -/

def ownWord (m : Mgmt) : Nat := b2n m.owned * 2 ^ 63 + m.owner.toNat * 2 ^ 56 + m.attached.toNat * 2 ^ 40 + m.epoch.toNat

def execOwnqry (h : Hdr) (s : State) : Host.Outcome State Fault Refusal :=
  acting s h [opTok s.cur.a] fun r => reply r (firingOf s) h .data (BitVec.ofNat 64 (ownWord s.mgmt)) false

/-! ## Events -/

/-- CONTEXT_CREATE (R460). -/
def execContextCreate (iss c : Nat) (v : Word) (s : State) : Host.Outcome State Fault Refusal :=
  let r := R.start s
  (if (s.ctx iss).st ≠ CtxSt.absent ∧ (s.ctx c).st = CtxSt.absent ∧ field v.toNat 49 49 = 1 then writeCfg r iss c v.toNat else r).done

/-- CONTEXT_DESTROY (R460): a write of CTXCFG with valid = 0 by the governor. -/
def execContextDestroy (iss c : Nat) (s : State) : Host.Outcome State Fault Refusal :=
  let r := R.start s
  (if (s.ctx iss).st ≠ CtxSt.absent ∧ governs s iss c = true ∧ iss ≠ c ∧ ((s.ctx c).st = CtxSt.idle ∨ (s.ctx c).st = CtxSt.saved) then
    writeCfg r iss c 0
  else r).done

/-- TICKBASE_WRITE (R405): by a monitor context. -/
def execTickbaseWrite (iss : Nat) (v : Word) (s : State) : Host.Outcome State Fault Refusal :=
  let r := R.start s
  (if (s.ctx iss).priv = .monitor then writeTickbase r iss v.toNat else r).done

/-- The lowest level that may write a CSR (R461); 3 for none. -/
def csrWriteLevel (n : Nat) : Nat :=
  match n with
  | 0x000 | 0x004 => 0
  | 0x001 => 3
  | 0x020 | 0x021 => 2
  | _ => 1

/-- The host master behind a port that carries traffic (R496). -/
def masterAt (s : State) (p : Nat) : Option Nat :=
  let l := s.link p
  if l.up = false then none
  else if l.cxlen then (match p with | 0 => some 0 | 5 => some 1 | 9 => some 2 | 14 => some 3 | _ => none)
  else if Sys2Proof.Config.isHost l.peer.toNat && decide (masterOfNode l.peer.toNat < 16) then some (masterOfNode l.peer.toNat)
  else none

/-- A host master may write the management space: only the owner (R480, R509). -/
def hostMayWrite (s : State) (m : Nat) : Bool := s.mgmt.ready && s.mgmt.owned && decide (s.mgmt.owner.toNat = m)

/-- A port goes Down (R493): a host behind it is no longer attached. -/
def portDown (r : R s0) (p : Nat) : R s0 :=
  let r1 := match masterAt r.s p with
    | some m => updMgmt r fun g => { g with attached := g.attached &&& ~~~BitVec.ofNat 16 (2 ^ m) }
    | none => r
  updLink r1 p fun l => if l.st = .down then l else { l with st := .down, lanes := 0, since := r.s.clk, naks := 0 }

/-- A Down port with EN = 1 and a peer present trains (R493). -/
def beginTraining (r : R s0) (p : Nat) : R s0 :=
  let l := r.s.link p
  if l.en && l.present && decide (l.st = .down) then updLink r p fun l => { l with st := .training, since := r.s.clk } else r

/-- A write of a port word (R494): cto, and CXLEN on the ports that have it; EN starts training or takes the port Down. -/
def writePortWord (r : R s0) (p v : Nat) : R s0 :=
  let r1 := updLink r p fun l =>
    { l with cto := BitVec.ofNat 12 (max 1 (field v 15 4))
             cxlen := if [0, 5, 9, 14].contains p then decide (field v 3 3 = 1) else l.cxlen
             en := decide (field v 0 0 = 1) }
  if field v 0 0 = 1 then beginTraining r1 p else portDown r1 p

/-- REGISTER_WRITE (R461, R223, R494): a write to a register that has no event of its own, by a context of sufficient level
that governs what it names, or by the owner host. -/
def execRegisterWrite (w : Writer) (reg : RegName) (v : Word) (s : State) : Host.Outcome State Fault Refusal :=
  let r := R.start s
  (match w with
   | .host m =>
     if hostMayWrite s m then
       match reg with
       | .csr .. => r
       | .queueWord q k => writeQueueWord r q k v.toNat
       | .portWord p => writePortWord r p v.toNat
     else r
   | .ctx c =>
     let lvl := privCode (s.ctx c).priv
     match reg with
     | .csr d n =>
       if csrWriteLevel n.toNat ≤ lvl ∧ (s.ctx c).st ≠ CtxSt.absent ∧
           (isCreation s c d n.toNat v.toNat = true ∨ csrAllowed s c d n.toNat = true) then writeCsr r c d n.toNat v.toNat
       else r
     | .queueWord q k =>
       if 1 ≤ lvl ∧ governs s c (s.queue q).ctx.toNat = true then writeQueueWord r q k v.toNat else r
     | .portWord p => if (s.ctx c).st ≠ CtxSt.absent then writePortWord r p v.toNat else r).done

/-- SCRUB (R479): the pass over SECDED storage, once every 2^24 clk: a single bit is masked, more are found when they are read. -/
def execScrub (s : State) : Host.Outcome State Fault Refusal :=
  let r := R.start s
  (if s.mgmt.scrubClk + 2 ^ 24 ≤ s.clk then updMgmt r fun m => { m with scrubClk := s.clk } else r).done

/-- DUPLICATED_STATE_COMPARE (R479): a mismatch writes an UNCORRECTABLE record for each affected context. -/
def execDuplicatedStateCompare (cs : List Nat) (s : State) : Host.Outcome State Fault Refusal :=
  ((R.start s).each (cs.filter fun c => (s.ctx c).st ≠ .absent) fun r c =>
    reportPlain r c ⟨.uncorrectable, false, false, 0xFF, 6, 0xFFFF, 0, 0, []⟩).done

end Sys2Proof.Machine
end

