-- ==== Sys2Proof/Machine/Cut.lean ====
section
/-!
DEFINITION. Pre-emption (R470 to R476): the instruction MARK, the mailbox commands that act as it does, and the events CUT_COMPLETE,
SAVE_IMAGE_WRITTEN and RESUME_COMPLETE. MARKERs in the fabric stand in Fabric.lean.
-/

set_option linter.unusedVariables false

namespace Sys2Proof.Config

/-- What an image that another module wrote holds (R474): the spec lays out its header and names its parts, not their bytes
(log 5). -/
opaque decodeImage : List Sys2Proof.Byte → Option Sys2Proof.Machine.SaveImg

end Sys2Proof.Config

namespace Sys2Proof.Machine

open Sys2Proof

variable {s0 : State}

/-! ## Statuses (R485) -/

/-- MARK's status: code, cause and image length. -/
def markStatus (code cause len : Nat) : Word := BitVec.ofNat 64 (code * 2 ^ 56 + cause * 2 ^ 48 + len % 2 ^ 32)

/-- The end of an operation for whoever asked for it; DONE is an acquire at system scope (R485, R401). -/
def cutAnswer (r : R s0) (cut : Cut) (code cause len : Nat) : R s0 :=
  let r1 := match cut.host with
    | some m => boxDone r m code
    | none => r
  match cut.req.bind (getReq r1.s) with
  | some q => ctlDone (r1.when (code = 0) fun z => acquireM z q.firing.core) q .data (markStatus code cause len) true
  | none => r1

/-- REJECTED writes a record with its cause (R275, R475). -/
def cutReject (r : R s0) (c : Nat) (cut : Cut) (cause : Cause) (w0 : Nat) : R s0 :=
  cutAnswer (reportPlain r c ⟨cause, false, false, 0xFF, 6, 0xFFFF, 0, 0, [w0]⟩) cut 3 (causeCode cause) 0

/-! ## The request of a cut (R470, R471 steps 1 and 2) -/

/-- PEs of a core that hold instructions of a context: of its bindings' images and of its trestles. -/
def pesOfCtx (k : Core) (c : Nat) : List (Nat × Nat) :=
  ((k.bindings.flatMap fun b => if b.cfg.ctx = c then b.cfg.images.map fun i => (i.x, i.y) else []) ++
    (k.trestles.flatMap fun t => match t.2 with
      | .busy i => if i.ctx = c then (List.range 4).map (trestlePe t.1) else []
      | _ => [])).eraseDups

/-- The sources of a core stop and send their MARKERs: memory ports to the PEs of their rows, input streams and merge nodes
along their routes. -/
def cutCore (r : R s0) (c core : Nat) : R s0 :=
  let k := r.s.core core
  let pes : List Flight := (pesOfCtx k c).map fun p => ⟨markerTok ⟨0, 0, 0⟩, c, .port p.2, .pe p.1 p.2⟩
  let r1 := updCore r core fun k => { k with cutting := c :: k.cutting.filter (· ≠ c), flights := k.flights ++ pes }
  let r2 := r1.each k.ports fun q p => q.each (p.2.streams.filter fun x => x.2.live && decide (x.2.ctx = c ∧ x.2.output = false)) fun z x =>
    sendMarkers z core c (.port p.1) [x.2.route, x.2.croute] x.2.slot
  r2.each (k.nodes.filter fun n => n.2.configured && decide (n.2.ctx = c)) fun q n => sendMarkers q core c (.tile 18 n.1) [n.2.route] n.2.slot

/-- Cores that hold state of a context. -/
def coresOfCtx (s : State) (c : Nat) : List Nat :=
  (s.cores.filter fun x =>
    (x.2.bindings.any fun b => b.cfg.ctx = c) || (x.2.strands.any fun y => y.ctx = c) || (x.2.flights.any fun f => f.ctx = c) ||
      (x.2.pes.any fun p => (p.2.bufs.any fun b => b.ctx = c) || (p.2.store.any fun e => e.ctx = c))).map Prod.fst

/-- Buffered ordered atomics go back to their ports (R473). -/
def unlane (r : R s0) (c : Nat) : R s0 :=
  r.each (r.s.reqs.filter fun q => decide (q.firing.ctx = c ∧ (q.stage = .laneWait ∨ q.stage = .laneRefused))) fun z q =>
    updReq (updHome z q.pa fun h =>
      { h with lanes := (h.lanes.map fun l => { l with buf := l.buf.filter (fun e => e.2 ≠ q.id) }).filter fun l => l.n ≠ 0 ∨ l.buf ≠ [] })
      q.id fun x => { x with stage := .blocked, aux := 0, marks := [] }

/-- A context becomes Cutting. -/
def startCut (r : R s0) (c : Nat) (cut : Cut) : R s0 :=
  let r1 := updCtx r c fun x => { x with st := .cutting, cut := some cut }
  let r2 := unlane (cutMigrations r1 c) c
  r2.each (coresOfCtx r2.s c) fun q k => cutCore q c k

/-- What MARK and the CUT command do for a context, after their own checks (R485): operation 0 cut, 1 checkpoint, 2 resume. -/
def startMark (r : R s0) (c op : Nat) (cut : Cut) : R s0 :=
  let x := r.s.ctx c
  match x.st with
  | .absent => cutAnswer r cut 6 0 0
  | .cutting | .saving | .resuming => cutAnswer r cut 4 0 0
  | st =>
    if op = 2 then
      if st = .running ∨ (r.s.works.any fun w => w.ctx = c) ∨ (r.s.queues.any fun q => decide (q.2.ctx.toNat = c ∧ q.2.st = .enabled)) then
        cutAnswer r cut 4 0 0
      else if x.saveBase = 0 then cutReject r c cut .reservedField 0
      else updCtx r c fun y => { y with st := .resuming, cut := some cut }
    else if st = .saved then cutAnswer r cut 1 0 0
    else if x.saveBase = 0 then cutReject r c cut .reservedField 0
    else startCut r c cut

/-- One attempt of MARK. -/
def tryMark (r : R s0) (q : Req) : R s0 :=
  let a := (opTok q.firing.a).value.toNat
  let b := (opTok q.firing.b).value.toNat
  if q.aux = 1 then r
  else if 2 ^ 12 ≤ a ∨ 2 ^ 5 ≤ b ∨ b % 4 = 3 then ctlErr r q
  else if governs r.s q.firing.ctx a = false then ctlDeny r q
  else if (r.s.ctx a).st ≠ .absent ∧ a = q.firing.ctx then ctlDone r q .data (markStatus 7 0 0) true
  else startMark (updReq r q.id fun x => { x with aux := 1 }) a (b % 4) ⟨b % 4 = 1, field b 4 2, some q.id, none⟩

/-- MARK (R485). -/
def execMark (h : Hdr) (s : State) : Host.Outcome State Fault Refusal :=
  startAct s h [opTok s.cur.a, opTok s.cur.b] (.mark h) tryMark

/-! ## The cut completes (R471 step 6) -/

/-- Every PE of the context is cut, and nothing is on its way to one. -/
def coreCut (s : State) (c core : Nat) : Bool :=
  let k := s.core core
  !(k.flights.any fun f => decide (f.ctx = c) && (decide (f.tok.kind = .marker) || match f.dest with | .tile _ _ => false | _ => true)) &&
    ((pesOfCtx k c).all fun p => (k.pe p.1 p.2).marked.contains c)

/-- Every access that the context performed is performed, and its results are delivered. -/
def accessesCut (s : State) (c : Nat) : Bool :=
  !(s.reqs.any fun q => decide (q.firing.ctx = c) && (match q.stage with | .performed | .remote _ => true | _ => false))

/-- Requests and waiters freeze as they stand: sleepers leave the waiter tables, what has not been performed goes back to its
port. -/
def freezeReqs (r : R s0) (c : Nat) : R s0 :=
  r.each (r.s.reqs.filter fun q => q.firing.ctx = c) fun z q =>
    match q.stage with
    | .issued | .recalling | .polling => updReq z q.id fun x => { x with stage := .blocked }
    | .sleeping =>
      updReq (updHome z q.pa fun h => { h with waiters := h.waiters.filter fun w => w.id ≠ q.id }) q.id fun x => { x with stage := .blocked }
    | _ => z

/-- CUT_COMPLETE (R471). -/
def execCutComplete (c : Nat) (s : State) : Host.Outcome State Fault Refusal :=
  let r := R.start s
  (if (s.ctx c).st = .cutting ∧ pageBusy s c = false ∧ accessesCut s c = true ∧ (coresOfCtx s c).all (coreCut s c) = true then
    let r1 := freezeReqs r c
    let r2 := r1.each (coresOfCtx r1.s c) fun q k => q.each ((q.s.core k).strands.filter fun x => x.ctx = c) fun z x => writeBack z k c x.unit
    updCtx r2 c fun x => { x with st := .saving }
  else r).done

/-! ## The state of one context on a core -/

def Pe.only (p : Pe) (c : Nat) (f : Nat → Bool) : Pe :=
  { Pe.init with
    bufs := p.bufs.filter (fun b => decide (b.ctx = c) && f b.tok.tag.slot.toNat)
    store := p.store.filter (fun e => decide (e.ctx = c) && f (opTok e.toks).tag.slot.toNat)
    spill := p.spill.filter (fun e => decide (e.ctx = c) && f (opTok e.toks).tag.slot.toNat)
    frames := p.frames.filter (fun x => x.1 = c)
    stopped := p.stopped
    purges := p.purges.filter (fun k => decide (k.ctx = c) && f k.slot.toNat)
    ready := p.ready.filter (fun x => decide (x.ctx = c) && f x.tag.slot.toNat)
    wins := p.wins.filter (fun w => decide (w.ctx = c) && f w.slot.toNat)
    breaks := p.breaks.filter fun b => decide (b.firing.ctx = c) && f b.firing.tag.slot.toNat }

def Pe.without (p : Pe) (c : Nat) : Pe :=
  ({ p with
    bufs := p.bufs.filter (fun b => b.ctx ≠ c)
    store := p.store.filter (fun e => e.ctx ≠ c)
    spill := p.spill.filter (fun e => e.ctx ≠ c)
    frames := p.frames.filter (fun x => x.1 ≠ c)
    purges := p.purges.filter (fun k => k.ctx ≠ c)
    ready := p.ready.filter (fun x => x.ctx ≠ c)
    wins := p.wins.filter (fun w => w.ctx ≠ c)
    breaks := p.breaks.filter (fun b => b.firing.ctx ≠ c)
    marked := p.marked.filter (· ≠ c) }).reopen

def Pe.join (p q : Pe) : Pe :=
  { p with bufs := p.bufs ++ q.bufs, store := p.store ++ q.store, spill := p.spill ++ q.spill, frames := p.frames ++ q.frames,
           stopped := p.stopped || q.stopped, purges := p.purges ++ q.purges, ready := p.ready ++ q.ready, wins := p.wins ++ q.wins,
           breaks := p.breaks ++ q.breaks }

def Trestle.ofCtx (t : Trestle) (c : Nat) : Bool :=
  match t with
  | .free => false
  | .fetching d _ => decide (d = c)
  | .busy i => decide (i.ctx = c)

def mineTile (t : MemTile) (c : Nat) : Bool := decide (t.role ≠ 0 ∧ t.owner.map Prod.fst = some c)

def MTile.ofCtx (m : MTile) (c : Nat) : Bool := decide (m.owner.map Prod.fst = some c)

/-- What a section of the image holds of a core (R473). -/
def Core.only (k : Core) (c : Nat) : Core :=
  { Core.init with
    pes := k.pes.filterMap (fun p => let v := p.2.only c (fun _ => true); if v = Pe.init then none else some (p.1, v))
    flights := k.flights.filter (fun f => f.ctx = c)
    strands := k.strands.filter (fun x => x.ctx = c)
    trestles := k.trestles.filter (fun t => t.2.ofCtx c)
    tiles := k.tiles.filter (fun t => mineTile t.2 c)
    ports := k.ports.filterMap (fun p =>
      let v : PortTile := ⟨p.2.streams.filter (fun x => decide (x.2.ctx = c ∧ x.2.st ≠ .free)), p.2.bufs.filter fun b => b.ctx = c⟩
      if v = PortTile.init then none else some (p.1, v))
    chains := k.chains.filter (fun x => x.ctx = c)
    nodes := k.nodes.filter (fun n => n.2.configured && decide (n.2.ctx = c))
    matrix := if k.matrix.ofCtx c then k.matrix else MTile.init
    bindings := k.bindings.filter (fun b => b.cfg.ctx = c)
    noReplay := k.noReplay.filter (fun x => x.1 = c)
    refused := k.refused.filter fun x => x.1 = c }

/-- A core without a context. -/
def Core.without (k : Core) (c : Nat) : Core :=
  let bs := k.bindings.filter fun b => b.cfg.ctx = c
  { k with
    pes := k.pes.filterMap (fun p =>
      let v := p.2.without c
      let v := { v with resident := v.resident.filter fun n => !(bs.any fun b => b.cfg.slots.testBit n) }
      if v = Pe.init then none else some (p.1, v))
    flights := k.flights.filter (fun f => f.ctx ≠ c)
    strands := k.strands.filter (fun x => x.ctx ≠ c)
    trestles := k.trestles.filter (fun t => !t.2.ofCtx c)
    tiles := k.tiles.filter (fun t => !mineTile t.2 c)
    ports := k.ports.filterMap (fun p =>
      let v : PortTile := ⟨p.2.streams.filter (fun x => x.2.ctx ≠ c), p.2.bufs.filter fun b => b.ctx ≠ c⟩
      if v = PortTile.init then none else some (p.1, v))
    chains := k.chains.filter (fun x => x.ctx ≠ c)
    nodes := k.nodes.filter (fun n => !(n.2.configured && decide (n.2.ctx = c)))
    matrix := if k.matrix.ofCtx c then MTile.init else k.matrix
    walker := ⟨k.walker.desc.filter (fun d => d.ctx ≠ c), k.walker.pages.filter fun p => p.ctx ≠ c⟩
    bindings := k.bindings.filter (fun b => b.cfg.ctx ≠ c)
    cutting := k.cutting.filter (· ≠ c)
    quiet := k.quiet.filter (· ≠ c)
    noReplay := k.noReplay.filter (fun x => x.1 ≠ c)
    refused := k.refused.filter fun x => x.1 ≠ c }

/-! ## The image (R472, R473) -/

/-- Bytes of a section: a multiple of 64 up to 2,789,248; the spec does not lay its parts out (log 5). -/
def sectionSize (n : Nat) : Nat := 64 * (1 + (Sys2Proof.Config.freeWord n).toNat % 43582)

/-- Offsets in KiB and sizes of sections, one after the other from KiB 4 on. -/
def sectionPlan (ctr : Nat) : List Nat → Nat → List (Nat × Nat × Nat)
  | [], _ => []
  | k :: l, off =>
    let n := sectionSize (ctr + k)
    (k, off, n) :: sectionPlan ctr l (off + (n + 1023) / 1024)

/-- The length of an image. -/
def planLength (p : List (Nat × Nat × Nat)) : Nat := (p.map fun x => x.2.1 * 1024 + x.2.2).foldl max 4096

/-- The header with a digest of 64 bytes (R472). -/
def imageHeader (x : Ctx) (c m len : Nat) (digest : List Byte) (plan : List (Nat × Nat × Nat)) : List Byte :=
  ([0x53, 0x56, 0x49, 0x4D] : List Byte) ++ bytesLE 2 1 ++ bytesLE 2 c ++ bytesLE 8 len ++ bytesLE 8 m ++ digest ++ bytesLE 8 x.flags.toNat ++
    (bytesLE 8 (ctxCfg x) ++ bytesLE 8 x.wdog.toNat ++ bytesLE 8 (ctxStat x) ++ bytesLE 8 x.ptroot.toNat ++ bytesLE 8 x.kvBase.toNat ++
      bytesLE 8 x.kvCnt.toNat ++ bytesLE 8 x.ovfBase.toNat ++ bytesLE 8 x.ovfCnt.toNat) ++
    ((List.range 128).flatMap fun k => match plan.find? fun p => p.1 = k with
      | some p => bytesLE 4 p.2.1 ++ bytesLE 4 p.2.2
      | none => bytesLE 8 0) ++ bytesLE 2912 0

/-- The whole image: header, then free bytes in the sections. -/
def imageBytes (x : Ctx) (c m ctr : Nat) (plan : List (Nat × Nat × Nat)) : List Byte :=
  let len := planLength plan
  let body := (List.range (len - 4096)).map fun i => Sys2Proof.Config.freeByte (ctr + 128 + i)
  let dg := sha512 (imageHeader x c m len (bytesLE 64 0) plan ++ body)
  imageHeader x c m len dg plan ++ body

/-- The image of a context at its cut. -/
def imageOf (s : State) (c : Nat) : SaveImg :=
  let x := s.ctx c
  let cs := coresOfCtx s c
  let plan := sectionPlan s.freeCtr cs 4
  { bytes := imageBytes x c s.mgmt.m s.freeCtr plan
    ctx := c, base := x.saveBase.toNat, m := s.mgmt.m, regs := x
    cores := cs.map fun k => (k, (s.core k).only c)
    reqs := s.reqs.filter fun q => q.firing.ctx = c
    works := s.works.filter fun w => w.ctx = c
    queues := s.queues.filter fun q => q.2.ctx.toNat = c
    groups := s.groups.filter fun g => g.2.used && decide (g.2.ctx = c)
    jobs := (List.range 4).flatMap fun d => (s.die d).jobs.filterMap fun j =>
      if j.2.used && decide (j.2.ctx = c) then some (d * 256 + j.1, j.2) else none
    lanes := (List.range 4).flatMap fun d => (s.die d).slices.flatMap fun x => (x.2.lanes.filter fun l => l.ctx = c).map fun l => (d, x.1, l) }

/-- A job that has not ended is Saved with its context (R325). -/
def saveJob (j : Job) : Job := if j.open? then { j with st := .saved } else j

/-- A context leaves the module (R464): everything but memory, its registers and its derived regions. -/
def removeCtx (r : R s0) (c : Nat) : R s0 :=
  let r1 := r.each (r.s.cores.map Prod.fst) fun q k => updCore q k fun x => x.without c
  let r2 := updWorks (updReqs r1 fun l => l.filter fun q => q.firing.ctx ≠ c) fun l => l.filter fun w => w.ctx ≠ c
  let r3 := r2.each (r2.s.queues.filter fun q => q.2.ctx.toNat = c) fun z q => updQueue z q.1 fun _ => Queue.init
  let r4 := r3.each (r3.s.groups.filter fun g => g.2.used && decide (g.2.ctx = c)) fun z g => updGroup z g.1 fun _ => Group.init
  r4.each (r4.s.dies.map Prod.fst) fun z d => updDie z d fun x =>
    { x with jobs := x.jobs.map fun j => if j.2.used ∧ j.2.ctx = c then (j.1, saveJob j.2) else j
             slices := x.slices.filterMap fun y =>
               let v := { y.2 with lanes := y.2.lanes.filter fun l => l.ctx ≠ c }
               if v = Slice.init then none else some (y.1, v) }

/-- Frozen agents go on (R470, R474). -/
def thaw (r : R s0) (c : Nat) : R s0 :=
  let r1 := r.each (r.s.cores.map Prod.fst) fun q k =>
    let x := q.s.core k
    if x.cutting.contains c ∨ x.pes.any (fun p => p.2.marked.contains c) then
      updCore (mapPes q k fun p => { p with marked := p.marked.filter (· ≠ c) }) k fun x =>
        { x with cutting := x.cutting.filter (· ≠ c), quiet := x.quiet.filter (· ≠ c) }
    else q
  updCtx r1 c fun x =>
    { x with cut := none, st := if r1.s.works.any fun w => decide (w.ctx = c ∧ w.st = .live) then .running else .idle }

/-- SAVE_IMAGE_WRITTEN (R471, R472): the image lies at SAVEBASE, and the context is Saved, or goes on after a checkpoint. -/
def execSaveImageWritten (c : Nat) (s : State) : Host.Outcome State Fault Refusal :=
  let r := R.start s
  (match (s.ctx c).st, (s.ctx c).cut with
   | .saving, some cut =>
     let img := imageOf s c
     let len := img.bytes.length
     let r1 := (r.eff (.saves (img :: s.saves))).each (List.range (128 + len)) fun q _ => q.eff .nextFree
     let r2 := writeLines r1 .dev 0 (len / 128 + 2) img.base img.bytes
     let r3 := if cut.checkpoint then thaw r2 c
       else updCtx (removeCtx r2 c) c fun x => { x with st := .saved, cut := none }
     cutAnswer r3 cut 0 0 len
   | _, _ => r).done

/-! ## Resumption (R474, R475) -/

/-- The image that some bytes are: one that this module wrote, or another module's. -/
def findImage (s : State) (bytes : List Byte) : Option SaveImg :=
  match s.saves.find? fun x => x.bytes = bytes with
  | some x => some x
  | none => Sys2Proof.Config.decodeImage bytes

/-- Step 1 (R474): the image at SAVEBASE with its digest and header checked. -/
def readImage (s : State) (c : Nat) : Option SaveImg :=
  let base := (s.ctx c).saveBase.toNat
  let len := s.nat (base + 8) 8
  if s.nat base 4 = 0x4D495653 ∧ s.nat (base + 4) 2 = 1 ∧ s.nat (base + 6) 2 = c ∧ 4096 ≤ len ∧ len ≤ 128 * 2883584 + 4096 then
    let bytes := s.bytes base len
    if sha512 (bytes.take 24 ++ bytesLE 64 0 ++ bytes.drop 88) = (bytes.drop 24).take 64 then findImage s bytes else none
  else none

/-- How a part of a resume ends. -/
inductive Resumed (s0 : State) where
  | ok (r : R s0)
  | reject (cause : Cause) (w0 : Nat)
  | full
  | wait (r : R s0)

/-- Step 2: the recorded configuration is held in the core's cluster, loaded if need be (R474). -/
def ensureConfig (r : R s0) (core c : Nat) (b : Config) : Resumed s0 :=
  let cl := core / 4
  match cacheFind r.s cl c b.cfgid with
  | some e =>
    if e.st = .loading then .wait r
    else if e.cfg.digest = b.digest then .ok r else .reject .reservedField b.addr
  | none => match vRange r core c 128 3 b.addr with
    | (r1, .wait) => .wait r1
    | (r1, .fault _) => .reject .reservedField b.addr
    | (r1, .val l) =>
      let (r2, room) := makeRoom r1 cl (min (cfgDesc l).count 1792) 33
      if room = false then .full
      else match readConfig r2 core c b.addr l with
        | (r3, .wait) => .wait r3
        | (r3, .fault _) => .reject .reservedField b.addr
        | (r3, .val (cfg, bad)) =>
          if bad.isSome ∨ cfg.digest ≠ b.digest ∨ cfg.cfgid ≠ b.cfgid then .reject .reservedField b.addr
          else
            let e : CacheEnt := ⟨cfg, .resident, (r3.s.cluster cl).useClk, none, core, 0⟩
            .ok (updCluster r3 cl fun k => { k with cache := e :: k.cache })

/-- Where the state of a position goes (R474 step 3): old and new position by slot mask. -/
abbrev Moves := List (Nat × (Nat × Nat) × (Nat × Nat))

/-- Moves from a saved binding to one repaired further. -/
def movesOf (old new : Binding) : Moves :=
  let orig (b : Binding) (p : Nat × Nat) : Nat × Nat := ((b.moved.find? fun m => decide (m.1 = p.1 ∧ m.2.1 = p.2)).map fun m => (m.2.2.1, m.2.2.2)).getD p
  let now (b : Binding) (o : Nat × Nat) : Nat × Nat := ((b.moved.find? fun m => decide (m.2.2.1 = o.1 ∧ m.2.2.2 = o.2)).map fun m => (m.1, m.2.1)).getD o
  (old.cfg.images.map fun i => (i.x, i.y)).eraseDups.filterMap fun p =>
    let q := now new (orig old p)
    if q = p then none else some (old.cfg.slots, p, q)

/-- Step 3 for bindings: each is bound again, with PEs that have failed since replaced. -/
def restoreBindings (core : Nat) : List Binding → R s0 → Moves → Resumed s0 × Moves
  | [], r, mv => (.ok r, mv)
  | b :: l, r, mv =>
    match ensureConfig r core b.cfg.ctx b.cfg with
    | .ok r1 =>
      let k := r1.s.core core
      (match repaired k { b with st := if b.st = .repairing then b.prior else b.st } k.failed with
       | none =>
         let p := (k.failed.find? fun p => b.cfg.images.any fun i => decide (i.x = p.1 ∧ i.y = p.2)).getD (0, 0)
         (.reject .uncorrectable (2 ^ 63 + p.1 * 16 + p.2), mv)
       | some v =>
         if k.bindings.any fun y => conflicts v.cfg y.cfg then (.wait r1, mv)
         else
           let r2 := updCore (setRoles r1 core v.cfg none) core fun k => { k with bindings := k.bindings ++ [v] }
           restoreBindings core l r2 (mv ++ movesOf b v))
    | x => (x, mv)

/-- Frames' parts and held stores are translated on this module: saved physical addresses name another's. -/
def repart (s : State) (c fp : Nat) : Option (List Nat) :=
  let l := (List.range 9).filterMap fun i => (leafAt s c (fp + 64 * i)).map Prod.fst
  if l.length = 9 then some l else none

def reheld (s : State) (q : Req) : Req :=
  match leafAt s q.firing.ctx q.va with
  | some (pa, leaf, _) => if isLocal q.instr then q else { q with pa := pa, leaf := leaf }
  | none => q

/-- PEs of a saved core, moved where repair asks for it. -/
def placePes (mv : Moves) (c : Nat) (pes : Tab Pe) : List (Nat × Nat × Pe) :=
  pes.flatMap fun p =>
    let x := p.1 % 16
    let y := p.1 / 16
    let here := mv.filter fun m => decide (m.2.1 = (x, y))
    let stay (n : Nat) : Bool := !(here.any fun m => m.1.testBit n)
    (x, y, p.2.only c stay) :: here.map fun m => (m.2.2.1, m.2.2.2, p.2.only c fun n => m.1.testBit n)

/-- A section's state on its core, once what it takes is free. -/
def restoreCore (r : R s0) (c core m : Nat) (k : Core) : Resumed s0 × Moves :=
  let now := r.s.core core
  let taken := (k.trestles.any fun t => now.trestle t.1 ≠ .free) || decide (64 < now.strands.length + k.strands.length) ||
    (k.ports.any fun p => p.2.streams.any fun x => ((now.port p.1).stream x.1).st ≠ .free) || (k.nodes.any fun n => (now.node n.1).configured) ||
    (k.matrix.owner.isSome && now.matrix.owner.isSome)
  if taken then (.wait r, [])
  else match restoreBindings core k.bindings r [] with
    | (.ok r1, mv) =>
      let s := r1.s
      let flight (f : Flight) : Flight := match f.dest with
        | .pe x y => (match mv.find? fun m => decide (m.2.1 = (x, y)) && m.1.testBit f.tok.tag.slot.toNat with
          | some m => { f with dest := .pe m.2.2.1 m.2.2.2 }
          | none => f)
        | _ => f
      let trestle (t : Trestle) : Trestle := match t with
        | .busy i => .busy { i with held := i.held.map (reheld s), imgPa := i.imgPa.zipIdx.map fun x => ((leafAt s c (i.hdr + 8 * x.2)).map Prod.fst).getD x.1 }
        | t => t
      let r2 := r1.each (placePes mv c k.pes) fun q p => updPe q core p.1 p.2.1 fun x => x.join p.2.2
      let r3 := r2.each k.trestles fun q t => updTrestle q core t.1 fun _ => trestle t.2
      let r4 := r3.each k.tiles fun q t => updTile q core t.1 fun x => { x with bytes := t.2.bytes, fifo := t.2.fifo }
      let r5 := r4.each k.ports fun q p =>
        (q.each p.2.streams fun z x => updStream z core p.1 x.1 fun _ => x.2).each p.2.bufs fun z b => updPort z core p.1 fun y => { y with bufs := y.bufs ++ [b] }
      let r6 := r5.each k.nodes fun q n => updNode q core n.1 fun _ => n.2
      (.ok (updCore r6 core fun y =>
        { y with pts := max y.pts m
                 flights := y.flights ++ k.flights.map flight
                 strands := y.strands ++ k.strands.map fun x => { x with frPa := x.frPa.bind fun _ => repart s c x.fp.toNat }
                 chains := y.chains ++ k.chains
                 matrix := if k.matrix.owner.isSome then k.matrix else y.matrix
                 noReplay := y.noReplay ++ k.noReplay
                 refused := y.refused ++ k.refused }), mv)
    | x => x

/-- The sections, core by core. -/
def restoreCores (c m : Nat) : List (Nat × Core) → R s0 → Resumed s0
  | [], r => .ok r
  | k :: l, r => match (restoreCore r c k.1 m k.2).1 with
    | .ok r1 => restoreCores c m l r1
    | x => x

/-- Requests come back under numbers of their own: held ones held, the others at their ports, to translate anew. -/
def restoreReqs (r : R s0) (l : List Req) : R s0 :=
  r.each l fun q x => addReq q fun id =>
    { x with id := id, translated := false, aux := 0, marks := [], stage := if x.stage = .held then .held else .blocked }

/-- Steps 4 and 5 (R474): queues, groups, lanes, jobs and registers, and every core's pts. -/
def restoreRest (r : R s0) (c : Nat) (x : SaveImg) : R s0 :=
  let r1 := r.each x.queues fun q e => updQueue q e.1 fun _ => e.2
  let r2 := r1.each x.groups fun q e => updGroup q e.1 fun _ => e.2
  let r3 := r2.each x.jobs fun q e => updJob q (e.1 / 256) (e.1 % 256) fun _ => e.2
  let r4 := r3.each x.lanes fun q e => updSlice q e.1 e.2.1 fun h => { h with lanes := setLane h.lanes e.2.2 }
  let g := x.regs
  let r5 := updCtx (updWorks r4 fun l => l ++ x.works) c fun y =>
    { y with flags := g.flags, priv := g.priv, det := g.det, lease := g.lease, tmen := g.tmen, brk := g.brk, wdog := g.wdog, tm := g.tm,
             lost := g.lost, kvBase := g.kvBase, kvCnt := g.kvCnt, ovfBase := g.ovfBase, ovfCnt := g.ovfCnt, ovfUsed := g.ovfUsed,
             pend := g.pend }
  let r6 := restoreReqs r5 x.reqs
  raiseM (r6.each (List.range 128) fun q k => updCore q k fun y => { y with pts := max y.pts x.m }) x.m

/-- RESUME_COMPLETE (R474, R475): the image is restored and every agent released, or the resume is refused and the context is
Saved. -/
def execResumeComplete (c : Nat) (s : State) : Host.Outcome State Fault Refusal :=
  let r := R.start s
  (match (s.ctx c).st, (s.ctx c).cut with
   | .resuming, some cut =>
     let refused (r : R s) : R s := updCtx r c fun x => { x with st := .saved, cut := none }
     (match readImage s c with
      | none => cutReject (refused r) c cut .reservedField (s.ctx c).saveBase.toNat
      | some x =>
        if (s.ctx c).ptroot = 0 then cutReject (refused r) c cut .reservedField (s.ctx c).saveBase.toNat
        else match restoreCores c x.m x.cores r with
          | .wait r1 => r
          | .full => cutAnswer (refused r) cut 2 0 0
          | .reject cause w0 => cutReject (refused r) c cut cause w0
          | .ok r1 => cutAnswer (thaw (restoreRest r1 c x) c) cut 0 0 x.bytes.length)
   | _, _ => r).done

end Sys2Proof.Machine
end

