-- ==== Sys2Proof/Machine/Commit.lean ====
section
/-!
DEFINITION. Settlement and commit of a block instance (R207, R208, R219): the event BLOCK_SETTLEMENT. Every check that can fault
is made before anything is performed; then the held accesses in LSID order, the registers, FLAGS, the instructions that act
at commit in index order, and the exit.
-/

set_option linter.unusedVariables false

namespace Sys2Proof.Machine

open Sys2Proof

variable {s0 : State}

/-! ## Instructions that act at commit (R243, R327, R369, R481) -/

/-- The attempt of an instruction that acts at commit. -/
def tryAct (r : R s0) (q : Req) : R s0 :=
  match q.instr with
  | .launch _ n => tryLaunch n.val r q
  | .unitend _ => tryUnitend r q
  | .yield _ => tryYield r q
  | .engpost _ => tryEngpost r q
  | .tlbinv _ sc => tryTlbinv sc.val r q
  | .tlbinva _ sc => tryTlbinva sc.val r q
  | .biasreq _ => tryBiasreq r q
  | .pgmig _ => tryPgmig r q
  | .eret _ => tryEret r q
  | .csrwr _ n x => tryCsrwr n x r q
  | .mark _ => tryMark r q
  | _ => r

/-- An action of a commit becomes a request of its own, which no longer belongs to the instance. -/
def issueAct (r : R s0) (t : Nat) (x : Act) : R s0 :=
  let f := { x.firing with trestle := none }
  match x.instr with
  | .barinit _ | .baradd _ | .bararr _ => startBar r x.instr f (.front t)
  | i =>
    let q := Req.new r.s.nextId i f (.front t) .ctl
    tryAct (addReq r fun _ => q) q

/-! ## Checks before the commit (R208) -/

/-- A final PERMISSION fault as the end of a check. -/
def denied {α : Type} : Got α := .fault ⟨.permission, true, []⟩

/-- The governance and privilege checks of an instruction that acts at commit (R459, R243, R370, R483 to R485). -/
def actDenied (s : State) (f : Firing) (i : Instr) : Bool :=
  let a := (opTok f.a).value.toNat
  let b := (opTok f.b).value.toNat
  match i with
  | .launch _ n => decide ((s.queue n.val).ctx.toNat ≠ f.ctx ∧ (s.ctx f.ctx).priv = .user)
  | .eret _ =>
    !(decide (field a 63 36 ≠ 0 ∨ field a 23 21 ≠ 0 ∨ b % 16 ≠ 0 ∨ 2 ^ 48 ≤ b)) && !governs s f.ctx (field a 35 24)
  | .tlbinv .. => decide (field b 63 12 = 0) && !governs s f.ctx b
  | .tlbinva .. =>
    decide (field a 63 13 = 0) &&
      (if field a 12 12 = 1 then decide ((s.ctx f.ctx).priv ≠ .monitor) else !governs s f.ctx (field a 11 0))
  | .csrwr _ n x => match csrCtx f x with
    | none => false
    | some c => !(isCreation s f.ctx c n.toNat a || csrAllowed s f.ctx c n.toNat)
  | .mark _ => !(decide (2 ^ 12 ≤ a ∨ 2 ^ 5 ≤ b ∨ b % 4 = 3)) && !governs s f.ctx a
  | _ => false

/-- A refused poisoned tag (R477). -/
def poisonFault (s : State) (f : Firing) : AccFault := ⟨.poison, true, [2 ^ 63 + f.x * 16 + f.y, tagNat f.tag, b2n (noReplayOf s f)]⟩

/-- The checks of one instruction that acts at commit; `sc` is the state that the actions before it leave (R208). -/
def actCheck (sc : State) (r : R s0) (t : Nat) (x : Act) : GotR s0 Unit :=
  let f := x.firing
  let a := (opTok f.a).value.toNat
  let unit {α : Type} (g : GotR s0 α) : GotR s0 Unit := g.map fun _ => ()
  match x.instr with
  | .launch _ n =>
    if a % 64 ≠ 0 then (r, .fault ⟨.alignment, true, accWords a 7 .rd 0⟩)
    else if actDenied sc f x.instr then (r, denied)
    else if (r.s.queue n.val).st ≠ .enabled then (r, .val ())
    else unit (vRead r f.core f.ctx a 64 64)
  | .barinit _ | .baradd _ | .bararr _ =>
    (checkReq r (barReq 0 x.instr f (.front t))).then fun q _ =>
      if f.poison then (q, .fault (poisonFault q.s f)) else (q, .val ())
  | .engpost _ =>
    if a % 128 ≠ 0 then (r, .fault ⟨.alignment, true, accWords a 7 .rd 0⟩)
    else if f.poison then (r, .fault (poisonFault r.s f))
    else (vRead r f.core f.ctx a 128 128).then fun q card =>
      if cardCollective card && decide (cardIndex card % 64 = 0) then unit (vRead q f.core f.ctx (cardIndex card) 64 64)
      else (q, .val ())
  | i => if actDenied sc f i then (r, denied) else (r, .val ())

/-- Insertion of an action by its index. -/
def insertAct (x : Act) : List Act → List Act
  | [] => [x]
  | y :: l => if x.idx < y.idx then x :: y :: l else y :: insertAct x l

def sortActs (l : List Act) : List Act := l.foldr insertAct []

/-- The physical parts of the frame that the exit takes (R201, R219): the callee's at CALL, the caller's at RET. -/
def exitParts (r : R s0) (core : Nat) (i : Inst) (x : Strand) : GotR s0 (List Nat) :=
  match i.exits with
  | [(_, .call _ a)] => takeParts r core i.ctx 9 a.toNat
  | [(_, .ret _)] => if x.frame.link = 0 then (r, .val []) else takeParts r core i.ctx 9 x.frame.link.toNat
  | _ => (r, .val [])

/-- The end of a check of the commit: a restartable fault holds it, a final one discards the block, a wait leaves it. -/
def commitEnd {α : Type} (g : GotR s0 α) (core t : Nat) (f : Firing) (next : R s0 → α → R s0) : R s0 :=
  match g with
  | (r, .val v) => next r v
  | (r, .wait) => r
  | (r, .fault e) =>
    if e.final then discard r core t (recOf f e.cause false 1 0 e.words)
    else holdFront r f t (.blockSettlement core t) e

/-- The checks of several actions, one after the other, each in the state that the ones before it leave. -/
def actsCheck (core t : Nat) (next : R s0 → R s0) : State → R s0 → List Act → R s0
  | _, r, [] => next r
  | sc, r, x :: l => commitEnd (actCheck sc r t x) core t x.firing fun q _ =>
      actsCheck core t next (issueAct (R.start sc) t x).s q l

/-! ## Its steps (R208, R219) -/

/-- The registers that a block wrote, with their presence and error bits. -/
def commitFrame (i : Inst) (fr : Frame) : Frame :=
  (List.range 63).foldl (fun fr n =>
    let j := n + 1
    match (tabGet WState.init j i.wregs).counted with
    | [] => fr
    | (_, k, v) :: _ =>
      let bit : Word := 1 <<< j
      { fr with pres := fr.pres ||| bit, err := if k = .error then fr.err ||| bit else fr.err &&& ~~~bit, regs := tabSet 0 j v fr.regs }) fr

/-- The fall-through address of a block (R218). -/
def fallThrough (i : Inst) : Nat := i.hdr + 16 * ((16 + 8 * i.words.length + 15) / 16)

def broTarget (i : Inst) (off : BitVec 28) : Word := BitVec.ofNat 64 i.hdr + off.signExtend 64 * 16

/-- The caller's frame after RET's copy (R219): the registers of the mask that are present. -/
def copyBack (m : Word) (callee caller : Frame) : Frame :=
  (List.range 63).foldl (fun fr n =>
    let j := n + 1
    if m.getLsbD j && callee.pres.getLsbD j then
      let bit : Word := 1 <<< j
      { fr with pres := fr.pres ||| bit, err := if callee.err.getLsbD j then fr.err ||| bit else fr.err &&& ~~~bit,
                regs := tabSet 0 j (tabGet (0 : Word) j callee.regs) fr.regs }
    else fr) caller

/-- The taken exit acts on the strand's pointers and frames (R219). -/
def applyExit (r : R s0) (core : Nat) (i : Inst) (parts : List Nat) : R s0 :=
  let c := i.ctx
  let u := i.unit
  match strandOf (r.s.core core) c u, i.exits with
  | some x, [(_, .bro off)] => updStrand r core c u fun y => { y with bp := broTarget i off }
  | some x, [(_, .bri a)] => updStrand r core c u fun y => { y with bp := a }
  | some x, [(_, .call off a)] =>
    updStrand (writeBack r core c u) core c u fun y =>
      { y with fp := a, bp := broTarget i off, frPa := some parts,
               frame := { y.frame with link := y.fp, ret := BitVec.ofNat 64 (fallThrough i) } }
  | some x, [(_, .ret m)] =>
    if x.frame.link = 0 then writeBack r core c u
    else
      let caller := frameFrom r.s parts
      updStrand (writeBack r core c u) core c u fun y =>
        { y with fp := y.frame.link, bp := y.frame.ret, frPa := some parts, frame := copyBack m y.frame caller }
  | some x, _ => writeBack r core c u
  | none, _ => r

/-- The exit ends the strand: HALT, or RET in the first frame. -/
def haltsAt (i : Inst) (link : Word) : Bool :=
  match i.exits with
  | [(_, .halt)] => true
  | [(_, .ret _)] => decide (link = 0)
  | _ => false

def isYield (x : Act) : Bool := match x.instr with | .yield _ => true | _ => false

/-- Operations on pages that a commit waits for (R369). -/
def pageOpsOf (s : State) (core t : Nat) (i : Inst) : Bool :=
  s.reqs.any fun q => decide (q.firing.core = core ∧ q.src = .front t ∧ q.firing.ctx = i.ctx ∧ q.firing.tag.unit = i.unit) &&
    isPageOp q.instr

/-- The end of a commit: the strand halts, traps for TRACK_MISMATCH (R363), or becomes Ready behind the others, on its kept
copy where KEEP asks for it (R204), or leaves the core after YIELD (R244). -/
def endCommit (r : R s0) (core t : Nat) (i : Inst) : R s0 :=
  let c := i.ctx
  let u := i.unit
  match strandOf (r.s.core core) c u with
  | none => updTrestle r core t fun _ => .free
  | some x =>
    if haltsAt i 0 then updStrand (updTrestle r core t fun _ => .free) core c u fun y => { y with st := .halted }
    else if i.trapAfter then trapStrand (updTrestle r core t fun _ => .free) core c u
    else
      let leave := i.acts.any isYield && placeWanted r.s core
      let keep := i.h0.testBit 48 && decide (x.bp.toNat = i.hdr) && !leave
      let y := { x with st := .ready, kept := if keep then some t else none }
      let r1 := updTrestle r core t fun _ => if keep then .busy i else .free
      let r2 := updCore r1 core fun k => { k with strands := k.strands.filter (fun z => ¬(z.ctx = c ∧ z.unit = u)) ++ [y] }
      if leave then leaveCore r2 core c u else r2

/-- What is left of an instance once its effects are done: only what the end of its commit needs. -/
def spent (i : Inst) (link : Word) : Inst :=
  { newInst i.ctx i.unit i.hdr i.h0 i.h1 i.words i.imgPa false with
    mapped := false, trapAfter := i.trapAfter, acts := i.acts.filter isYield, exits := if haltsAt i link then [(0, .halt)] else [] }

/-- Everything that a commit performs, once nothing can fault any more. -/
def performCommit (r : R s0) (core t : Nat) (i : Inst) (x : Strand) (parts : List Nat) : R s0 :=
  let c := i.ctx
  let u := i.unit
  let r1 := r.each (sortLsid i.held) performHeld
  let trap := match instOf r1.s core t with | some j => j.trapAfter | none => i.trapAfter
  let j := { i with trapAfter := trap }
  let r2 := updStrand r1 core c u fun y => { y with frame := commitFrame i y.frame, steps := y.steps + 1, rerun := 0 }
  let r3 := updCtx r2 c fun k => { k with flags := k.flags ||| i.flags }
  let r4 := applyExit r3 core i parts
  let r5 := dropTokens r4 core (isBlockTok c u)
  let r6 := updTrestle r5 core t fun _ => .busy (spent j x.frame.link)
  let r7 := r6.each (sortActs i.acts) fun q a => issueAct q t a
  if pageOpsOf r7.s core t i then r7 else endCommit r7 core t (spent j x.frame.link)

/-- A commit: its checks, then its steps; it waits while a host owns what its held accesses write. -/
def commit (r : R s0) (core t : Nat) (i : Inst) : R s0 :=
  match strandOf (r.s.core core) i.ctx i.unit with
  | none => r
  | some x =>
    let held := sortLsid i.held
    actsCheck core t (fun r1 =>
      commitEnd (exitParts r1 core i x) core t (frontFiring core t i.ctx i.unit) fun r2 parts =>
        if readyHeld r2.s held then performCommit r2 core t i x parts else recallHeld r2 held) r.s r (sortActs i.acts)

/-- BLOCK_SETTLEMENT (R207, R208, R214): a settled instance is discarded for a duplicate, commits, or waits; a commit that waits
for an operation on pages ends with it. -/
def execBlockSettlement (core t : Nat) (s : State) : Host.Outcome State Fault Refusal :=
  let r := R.start s
  (match instOf s core t with
   | none => r
   | some i =>
     if ctxMoves s i.ctx = false then r
     else if i.mapped = false then
       match strandOf (s.core core) i.ctx i.unit with
       | some x => if x.st = StrandSt.running ∧ pageOpsOf s core t i = false then endCommit r core t i else r
       | none => r
     else if settled s core t i = false then r
     else match duplicateOf i with
       | some n => discard r core t (hangRec core t i .blockFormat n)
       | none => if commitDue i then commit r core t i else r).done

end Sys2Proof.Machine
end

