-- ==== Sys2Proof/Machine/FloatOps.lean ====
section
/-!
DEFINITION. Floating-point, conversion, reduction and probability instructions (R137 to R163), opcodes 0x40 to
0x59: the operand rule of each around its value function of FloatVal.lean.
-/

set_option linter.unusedVariables false

namespace Sys2Proof.Machine

open Sys2Proof

/-- NaN test of a floating operand's lanes (R139). -/
def nanOf (ty : Ty) : Word → Bool := anyNaN ty

/-- FADD (R142). -/
def execFadd (h : Hdr) (ty : Ty) (r : Round) (s : State) : Host.Outcome State Fault Refusal :=
  fireRes s (fbinary h s.cur (nanOf ty) (nanOf ty) (vFadd ty r))

/-- FSUB (R142). -/
def execFsub (h : Hdr) (ty : Ty) (r : Round) (s : State) : Host.Outcome State Fault Refusal :=
  fireRes s (fbinary h s.cur (nanOf ty) (nanOf ty) (vFsub ty r))

/-- FMUL (R142). -/
def execFmul (h : Hdr) (ty : Ty) (r : Round) (s : State) : Host.Outcome State Fault Refusal :=
  fireRes s (fbinary h s.cur (nanOf ty) (nanOf ty) (vFmul ty r))

/-- FDIV (R149). -/
def execFdiv (h : Hdr) (ty : Ty) (r : Round) (s : State) : Host.Outcome State Fault Refusal :=
  fireRes s (fbinary h s.cur (nanOf ty) (nanOf ty) (vFdiv ty r))

/-- FMA (R142): p is the third operand. -/
def execFma (h : Hdr) (ty : Ty) (r : Round) (s : State) : Host.Outcome State Fault Refusal :=
  fireRes s (fternary h s.cur (nanOf ty) (nanOf ty) (nanOf ty) (vFma ty r))

/-- FMS (R142): p is the third operand. -/
def execFms (h : Hdr) (ty : Ty) (r : Round) (s : State) : Host.Outcome State Fault Refusal :=
  fireRes s (fternary h s.cur (nanOf ty) (nanOf ty) (nanOf ty) (vFms ty r))

/-- FNMA (R142): p is the third operand. -/
def execFnma (h : Hdr) (ty : Ty) (r : Round) (s : State) : Host.Outcome State Fault Refusal :=
  fireRes s (fternary h s.cur (nanOf ty) (nanOf ty) (nanOf ty) (vFnma ty r))

/-- FSQRT (R149). -/
def execFsqrt (h : Hdr) (ty : Ty) (r : Round) (s : State) : Host.Outcome State Fault Refusal :=
  fireRes s (funary h s.cur (nanOf ty) (vFsqrt ty r))

/-- FRCP (R149). -/
def execFrcp (h : Hdr) (ty : Ty) (r : Round) (s : State) : Host.Outcome State Fault Refusal :=
  fireRes s (funary h s.cur (nanOf ty) (vFrcp ty r))

/-- FRSQ (R149). -/
def execFrsq (h : Hdr) (ty : Ty) (r : Round) (s : State) : Host.Outcome State Fault Refusal :=
  fireRes s (funary h s.cur (nanOf ty) (vFrsq ty r))

/-- FEXP2 (R151). -/
def execFexp2 (h : Hdr) (ty : Ty) (r : Round) (s : State) : Host.Outcome State Fault Refusal :=
  fireRes s (funary h s.cur (nanOf ty) (vFexp2 ty r))

/-- FRND (R153). -/
def execFrnd (h : Hdr) (ty : Ty) (r : Round) (s : State) : Host.Outcome State Fault Refusal :=
  fireRes s (funary h s.cur (nanOf ty) (vFrnd ty r))

/-- FMIN (R144): raises no flag. -/
def execFmin (h : Hdr) (ty : Ty) (s : State) : Host.Outcome State Fault Refusal :=
  fireRes s (fbinary h s.cur (nanOf ty) (nanOf ty) fun a b => ⟨some (vFmin ty a b), fNone⟩)

/-- FMAX (R144): raises no flag. -/
def execFmax (h : Hdr) (ty : Ty) (s : State) : Host.Outcome State Fault Refusal :=
  fireRes s (fbinary h s.cur (nanOf ty) (nanOf ty) fun a b => ⟨some (vFmax ty a b), fNone⟩)

/-- FCPS (R144): raises no flag. -/
def execFcps (h : Hdr) (ty : Ty) (s : State) : Host.Outcome State Fault Refusal :=
  fireRes s (fbinary h s.cur (nanOf ty) (nanOf ty) fun a b => ⟨some (vFcps ty a b), fNone⟩)

/-- TFEQ (R146): raises no flag. -/
def execTfeq (h : Hdr) (ty : Ty) (s : State) : Host.Outcome State Fault Refusal :=
  fireRes s (fbinary h s.cur (nanOf ty) (nanOf ty) fun a b => ⟨some (vTfeq ty a b), fNone⟩)

/-- TFLT (R146): raises no flag. -/
def execTflt (h : Hdr) (ty : Ty) (s : State) : Host.Outcome State Fault Refusal :=
  fireRes s (fbinary h s.cur (nanOf ty) (nanOf ty) fun a b => ⟨some (vTflt ty a b), fNone⟩)

/-- TFLE (R146): raises no flag. -/
def execTfle (h : Hdr) (ty : Ty) (s : State) : Host.Outcome State Fault Refusal :=
  fireRes s (fbinary h s.cur (nanOf ty) (nanOf ty) fun a b => ⟨some (vTfle ty a b), fNone⟩)

/-- FABS (R144): the sign bit alone. -/
def execFabs (h : Hdr) (ty : Ty) (s : State) : Host.Outcome State Fault Refusal :=
  fireRes s (funary h s.cur (nanOf ty) fun a => ⟨some (vFabs ty a), fNone⟩)

/-- FNEG (R144): the sign bit alone. -/
def execFneg (h : Hdr) (ty : Ty) (s : State) : Host.Outcome State Fault Refusal :=
  fireRes s (funary h s.cur (nanOf ty) fun a => ⟨some (vFneg ty a), fNone⟩)

/-- TFUN (R147): NULL and stops as R46; otherwise whether an operand is ERROR, a NaN code counting so. -/
def execTfun (h : Hdr) (ty : Ty) (s : State) : Host.Outcome State Fault Refusal :=
  let f := s.cur
  let a := nanTok (nanOf ty) (opTok f.a)
  let b := nanTok (nanOf ty) (opTok f.b)
  fireRes s (ruledOwn h (tgts2 h) f (nullOrStop a || nullOrStop b)
    (if a.kind = .null ∨ b.kind = .null then resAll (tgts2 h) .null 0 f.tag
     else if isStop a.kind then resAll (tgts2 h) (maxStop [a, b]) a.value f.tag
     else if isStop b.kind then resAll (tgts2 h) (maxStop [a, b]) b.value f.tag
     else resAll (tgts2 h) .data (vTfun ty (decide (a.kind = .error ∨ b.kind = .error))) f.tag))

/-- FSUM (R159). -/
def execFsum (h : Hdr) (ty : Ty) (r : Round) (w : Bool) (s : State) : Host.Outcome State Fault Refusal :=
  fireRes s (funary h s.cur (nanOf ty) (vFsum ty r w))

/-- FDOT (R159). -/
def execFdot (h : Hdr) (ty : Ty) (r : Round) (w : Bool) (s : State) : Host.Outcome State Fault Refusal :=
  fireRes s (fbinary h s.cur (nanOf ty) (nanOf ty) (vFdot ty r w))

/-- NaN code in lane 0 of an f32 word (R139, PEXP's reference). -/
def nanF32 (v : Word) : Bool := laneNaN .f32 (laneOf 32 0 v)

/-- PEXP (R161). -/
def execPexp (h : Hdr) (ty : Ty) (s : State) : Host.Outcome State Fault Refusal :=
  fireRes s (fbinary h s.cur (nanOf ty) nanF32 (vPexp ty))

/-- NaN code in the P4 weights that PMAC reads (R139). -/
def nanWeights (ty : Ty) (v : Word) : Bool :=
  (List.range (tyLanes ty)).any fun i => laneNaN .p4x8 (laneOf 8 i v)

/-- PMAC (R162). -/
def execPmac (h : Hdr) (ty : Ty) (r : Round) (s : State) : Host.Outcome State Fault Refusal :=
  fireRes s (fternary h s.cur (nanWeights ty) (nanOf ty) (nanOf ty) (vPmac ty r))

/-! ## CVT (R154 to R158) -/

/-- NaN code in a source lane that CVT reads (R139, R154). -/
def nanCvt (d t : Ty) (q : Nat) (v : Word) : Bool :=
  let nd := tyLanes d
  if tyLanes t ≤ nd then anyNaN t v
  else (((lanesOf t v).drop (q * nd)).take nd).any (laneNaN t)

/-- One decoded element to a lane of type `d` (R155). -/
def cvtVal (d : Ty) (r : Round) (v : FVal) : LaneRes :=
  if tyInt d then toIntLane d r.mode v
  else match d with
    | .p4x8 => toP4Lane r.mode v
    | _ => roundTo (tyFmt d) r.mode r.sat v.exact

/-- A list cut into pieces of `n`, at most `k` of them. -/
def chunks {α : Type} (n : Nat) : Nat → List α → List (List α)
  | 0, _ => []
  | k + 1, l => if l.isEmpty then [] else l.take n :: chunks n k (l.drop n)

/-- The elements of an element token under its header (R85, R156). An ERROR token none of whose codes is NaN is ERROR in every lane:
only TFUN turns ERROR into DATA (R147). -/
def burstElems (hd : Nat) (t : Tok) : List FVal :=
  let l := (lanesOf .e2m1x16 t.value).map (decodeBlockElem (bitsN hd 0 8) (bitsN hd 8 8))
  if t.kind = .error ∧ ¬ l.any (fun x => decide (x = .nan)) then l.map fun _ => .nan else l

/-- The run that a decoding CVT emits (R156): token k holds elements k·n_d and up; a token with an element that
R85 makes ERROR is ERROR, with the value of the element token that holds its first element. -/
def decodeRun (h : Hdr) (d : Ty) (r : Round) (f : Firing) : Res :=
  let hd := (opTok f.a).value.toNat
  let vals := (f.a.drop 1).flatMap fun t => (burstElems hd t).map fun x => (x, t.value)
  let outs := (chunks (tyLanes d) 64 vals).map fun g =>
    if g.any (fun x => x.1 = .nan) then (Kind.error, (g.headD (.nan, 0)).2, fNone)
    else
      let x := packRes d (g.map fun y => cvtVal d r y.1)
      (Kind.data, x.val.getD 0, x.fl)
  ⟨outs.flatMap fun x => sendAll (tgts2 h) x.1 x.2.1 f.tag, orFlags (outs.map fun x => x.2.2)⟩

/-- Elements of a run token (R157): an ERROR token, or one with a NaN code, gives ERROR elements. -/
def runElems (t : Ty) (x : Tok) : List (Option FVal) :=
  if x.kind = .error || anyNaN t x.value then List.replicate (tyLanes t) none
  else (lanesOf t x.value).map fun c => some (decodeLane t c)

/-- The burst that an encoding CVT emits (R157). -/
def encodeRun (h : Hdr) (t : Ty) (r : Round) (f : Firing) : Res :=
  let (scale, special, codes, fl) := encodeBlock r.mode (f.a.flatMap (runElems t))
  let hdr : Word := BitVec.ofNat 64 (scale + 256 * special)
  let toks := (chunks 16 4 codes).map fun g => BitVec.ofNat 64 (packN 4 g)
  ⟨(hdr :: toks).flatMap fun v => sendAll (tgts2 h) .data v f.tag, fl⟩

/-- CVT (R154 to R158). -/
def execCvt (h : Hdr) (dty sty : Ty) (r : Round) (q : Fin 8) (s : State) : Host.Outcome State Fault Refusal :=
  let f := s.cur
  fireRes s
    (if sty = .e2m1x16 then
       ruled h (tgts2 h) f (opTok f.a :: (f.a.drop 1).filter nullOrStop) (decodeRun h dty r f)
     else if dty = .e2m1x16 then
       ruledOwn h (tgts2 h) f (f.a.any nullOrStop)
         (if f.a.any (fun t => t.kind = .null) then resAll (tgts2 h) .null 0 f.tag
          else match f.a.find? (fun t => isStop t.kind) with
            | some t => resAll (tgts2 h) (maxStop f.a) t.value f.tag
            | none => encodeRun h sty r f)
     else funary h f (nanCvt dty sty q.val) (vCvt dty sty r q.val))

end Sys2Proof.Machine
end

