-- ==== Sys2Proof/Machine/IntegerOps.lean ====
section
/-!
DEFINITION. Integer, logic, shift, compare, address and constant instructions (R113 to R136), opcodes 0x10 to 0x3C:
the operand rule of each around its value function of IntVal.lean.
-/

set_option linter.unusedVariables false

namespace Sys2Proof.Machine

open Sys2Proof

/-- ADD (R119). -/
def execAdd (h : Hdr) (ty : Ty) (s : State) : Host.Outcome State Fault Refusal :=
  fireRes s (binary h s.cur (vAdd ty))

/-- SUB (R119). -/
def execSub (h : Hdr) (ty : Ty) (s : State) : Host.Outcome State Fault Refusal :=
  fireRes s (binary h s.cur (vSub ty))

/-- ADDS (R119). -/
def execAdds (h : Hdr) (ty : Ty) (s : State) : Host.Outcome State Fault Refusal :=
  fireRes s (binary h s.cur (vAdds ty))

/-- SUBS (R119). -/
def execSubs (h : Hdr) (ty : Ty) (s : State) : Host.Outcome State Fault Refusal :=
  fireRes s (binary h s.cur (vSubs ty))

/-- MUL (R121). -/
def execMul (h : Hdr) (ty : Ty) (s : State) : Host.Outcome State Fault Refusal :=
  fireRes s (binary h s.cur (vMul ty))

/-- MULH (R121). -/
def execMulh (h : Hdr) (ty : Ty) (s : State) : Host.Outcome State Fault Refusal :=
  fireRes s (binary h s.cur (vMulh ty))

/-- DIV (R121). -/
def execDiv (h : Hdr) (ty : Ty) (s : State) : Host.Outcome State Fault Refusal :=
  fireRes s (binary h s.cur (vDiv ty))

/-- REM (R121). -/
def execRem (h : Hdr) (ty : Ty) (s : State) : Host.Outcome State Fault Refusal :=
  fireRes s (binary h s.cur (vRem ty))

/-- MIN (R123). -/
def execMin (h : Hdr) (ty : Ty) (s : State) : Host.Outcome State Fault Refusal :=
  fireRes s (binary h s.cur (vMin ty))

/-- MAX (R123). -/
def execMax (h : Hdr) (ty : Ty) (s : State) : Host.Outcome State Fault Refusal :=
  fireRes s (binary h s.cur (vMax ty))

/-- TEQ (R123). -/
def execTeq (h : Hdr) (ty : Ty) (s : State) : Host.Outcome State Fault Refusal :=
  fireRes s (binary h s.cur (vTeq ty))

/-- TNE (R123). -/
def execTne (h : Hdr) (ty : Ty) (s : State) : Host.Outcome State Fault Refusal :=
  fireRes s (binary h s.cur (vTne ty))

/-- TLT (R123). -/
def execTlt (h : Hdr) (ty : Ty) (s : State) : Host.Outcome State Fault Refusal :=
  fireRes s (binary h s.cur (vTlt ty))

/-- TLE (R123). -/
def execTle (h : Hdr) (ty : Ty) (s : State) : Host.Outcome State Fault Refusal :=
  fireRes s (binary h s.cur (vTle ty))

/-- SHL (R126). -/
def execShl (h : Hdr) (ty : Ty) (s : State) : Host.Outcome State Fault Refusal :=
  fireRes s (binary h s.cur (vShl ty))

/-- SHR (R126). -/
def execShr (h : Hdr) (ty : Ty) (s : State) : Host.Outcome State Fault Refusal :=
  fireRes s (binary h s.cur (vShr ty))

/-- SRA (R126). -/
def execSra (h : Hdr) (ty : Ty) (s : State) : Host.Outcome State Fault Refusal :=
  fireRes s (binary h s.cur (vSra ty))

/-- ROL (R126). -/
def execRol (h : Hdr) (ty : Ty) (s : State) : Host.Outcome State Fault Refusal :=
  fireRes s (binary h s.cur (vRol ty))

/-- ANDN (R126). -/
def execAndn (h : Hdr) (ty : Ty) (s : State) : Host.Outcome State Fault Refusal :=
  fireRes s (binary h s.cur (vAndn ty))

/-- XOR (R126). -/
def execXor (h : Hdr) (ty : Ty) (s : State) : Host.Outcome State Fault Refusal :=
  fireRes s (binary h s.cur (vXor ty))

/-- AND (R126). -/
def execAnd (h : Hdr) (ty : Ty) (s : State) : Host.Outcome State Fault Refusal :=
  fireRes s (binary h s.cur (vAnd ty))

/-- OR (R126). -/
def execOr (h : Hdr) (ty : Ty) (s : State) : Host.Outcome State Fault Refusal :=
  fireRes s (binary h s.cur (vOr ty))

/-- NEG (R119). -/
def execNeg (h : Hdr) (ty : Ty) (s : State) : Host.Outcome State Fault Refusal :=
  fireRes s (unary h s.cur (vNeg ty))

/-- ABS (R119). -/
def execAbs (h : Hdr) (ty : Ty) (s : State) : Host.Outcome State Fault Refusal :=
  fireRes s (unary h s.cur (vAbs ty))

/-- CLZ (R128). -/
def execClz (h : Hdr) (ty : Ty) (s : State) : Host.Outcome State Fault Refusal :=
  fireRes s (unary h s.cur (vClz ty))

/-- CTZ (R128). -/
def execCtz (h : Hdr) (ty : Ty) (s : State) : Host.Outcome State Fault Refusal :=
  fireRes s (unary h s.cur (vCtz ty))

/-- POPC (R128). -/
def execPopc (h : Hdr) (ty : Ty) (s : State) : Host.Outcome State Fault Refusal :=
  fireRes s (unary h s.cur (vPopc ty))

/-- BSWAP (R128). -/
def execBswap (h : Hdr) (ty : Ty) (s : State) : Host.Outcome State Fault Refusal :=
  fireRes s (unary h s.cur (vBswap ty))

/-- NOT (R126). -/
def execNot (h : Hdr) (ty : Ty) (s : State) : Host.Outcome State Fault Refusal :=
  fireRes s (unary h s.cur (vNot ty))

/-- ADDI (R132). -/
def execAddi (h : Hdr) (ty : Ty) (imm : BitVec 20) (s : State) : Host.Outcome State Fault Refusal :=
  fireRes s (unary h s.cur (vAddi ty imm))

/-- ANDI (R132). -/
def execAndi (h : Hdr) (ty : Ty) (imm : BitVec 20) (s : State) : Host.Outcome State Fault Refusal :=
  fireRes s (unary h s.cur (vAndi ty imm))

/-- ORI (R132). -/
def execOri (h : Hdr) (ty : Ty) (imm : BitVec 20) (s : State) : Host.Outcome State Fault Refusal :=
  fireRes s (unary h s.cur (vOri ty imm))

/-- XORI (R132). -/
def execXori (h : Hdr) (ty : Ty) (imm : BitVec 20) (s : State) : Host.Outcome State Fault Refusal :=
  fireRes s (unary h s.cur (vXori ty imm))

/-- TEQI (R132). -/
def execTeqi (h : Hdr) (ty : Ty) (imm : BitVec 20) (s : State) : Host.Outcome State Fault Refusal :=
  fireRes s (unary h s.cur (vTeqi ty imm))

/-- TLTI (R132). -/
def execTlti (h : Hdr) (ty : Ty) (imm : BitVec 20) (s : State) : Host.Outcome State Fault Refusal :=
  fireRes s (unary h s.cur (vTlti ty imm))

/-- TLEI (R132). -/
def execTlei (h : Hdr) (ty : Ty) (imm : BitVec 20) (s : State) : Host.Outcome State Fault Refusal :=
  fireRes s (unary h s.cur (vTlei ty imm))

/-- MOVHI (R135). -/
def execMovhi (h : Hdr) (ty : Ty) (imm : BitVec 20) (s : State) : Host.Outcome State Fault Refusal :=
  fireRes s (unary h s.cur (vMovhi ty imm))

/-- SHLI (R132). -/
def execShli (h : Hdr) (ty : Ty) (k : Fin 64) (s : State) : Host.Outcome State Fault Refusal :=
  fireRes s (unary h s.cur (vShli ty k))

/-- SHRI (R132). -/
def execShri (h : Hdr) (ty : Ty) (k : Fin 64) (s : State) : Host.Outcome State Fault Refusal :=
  fireRes s (unary h s.cur (vShri ty k))

/-- SRAI (R132). -/
def execSrai (h : Hdr) (ty : Ty) (k : Fin 64) (s : State) : Host.Outcome State Fault Refusal :=
  fireRes s (unary h s.cur (vSrai ty k))

/-- SEXT (R128). -/
def execSext (h : Hdr) (ty : Ty) (n : Fin 64) (s : State) : Host.Outcome State Fault Refusal :=
  fireRes s (unary h s.cur (vSext ty n.val))

/-- ZEXT (R128). -/
def execZext (h : Hdr) (ty : Ty) (n : Fin 64) (s : State) : Host.Outcome State Fault Refusal :=
  fireRes s (unary h s.cur (vZext ty n.val))

/-- LEA (R130): all 64 bits for both types. -/
def execLea (h : Hdr) (ty : Ty) (k : Fin 8) (off : BitVec 17) (s : State) : Host.Outcome State Fault Refusal :=
  fireRes s (binary h s.cur (vLea k off))

/-- The rule that replaces R46 for SEL (R124). -/
def selRes (h : Hdr) (ty : Ty) (f : Firing) : Res :=
  let a := opTok f.a
  let b := opTok f.b
  let p := opTok f.p
  let l := [a, b, p]
  if l.any (fun t => t.kind = .null) then resAll (tgts2 h) .null 0 f.tag
  else match l.find? (fun t => isStop t.kind) with
    | some t => resAll (tgts2 h) (maxStop l) t.value f.tag
    | none =>
      if p.kind = .error then resAll (tgts2 h) .error p.value f.tag
      else
        let x := if p.value ≠ 0 then a else b
        if x.kind = .error then resAll (tgts2 h) .error x.value f.tag
        else resAll (tgts2 h) .data (vSel ty a.value b.value p.value) f.tag

/-- SEL (R123, R124). -/
def execSel (h : Hdr) (ty : Ty) (s : State) : Host.Outcome State Fault Refusal :=
  fireRes s (selRes h ty s.cur)

/-- MOVI (R135). -/
def execMovi (h : Hdr) (ty : Ty) (imm : BitVec 20) (s : State) : Host.Outcome State Fault Refusal :=
  fireRes s (nullary h s.cur (vMovi ty imm))

/-- MOVX (R135): the extension word. -/
def execMovx (h : Hdr) (ty : Ty) (v : Word) (s : State) : Host.Outcome State Fault Refusal :=
  fireRes s (nullary h s.cur v)

end Sys2Proof.Machine
end

