-- ==== Sys2Proof/Machine/Manage.lean ====
section
/-!
DEFINITION. The management controller (R480, R505 to R514): resets and bring-up, the firmware image, the mailbox commands and the
management space, throttling and the thermal trip, and ownership; with the events POWER_GOOD, READY, CLAIM, HANDOVER, DETACH, CUT,
CUT_CHECKPOINT, CUT_RESUME, FLIP, POST, STREAM, QUOTE, RESET_COLD, RESET_WARM, OWNERSHIP_LAPSE, THROTTLE_STEP and THERMAL_TRIP.
-/

set_option linter.unusedVariables false

namespace Sys2Proof.Machine

open Sys2Proof

variable {s0 : State}

/-! ## Reset and firmware (R505, R506) -/

/-- The boot ROM accepts an image (R506). -/
def imageAccepted (l : List Byte) : Bool :=
  let n := fieldLE l 4 4
  let k := fieldLE l 8 1
  decide (fieldLE l 0 4 = 0x57464850 ∧ n = l.length ∧ 128 ≤ n ∧ n ≤ 2 ^ 23 ∧ k ≤ 3) && !Sys2Proof.Config.fuseRevoked k &&
    Sys2Proof.Config.ed25519Verify (Sys2Proof.Config.fuseKey k) (sha512 (l.take (n - 64))) (BitVec.ofNat 512 (ofBytesLE (l.drop (n - 64))))

/-- A cold reset (R505): every field takes its Reset value; the boot ROM verifies the flash, and a rejected image leaves the
module in recovery. -/
def coldReset (r : R s0) (flash : List Byte) : R s0 :=
  let ok := imageAccepted flash
  r.eff (.reset false { Mgmt.init with flash := flash, running := if ok then some flash else none, recovery := !ok })

/-- A warm reset (R505): HBM, the verified firmware, ownership with its epoch and Active ports' training are kept. -/
def warmReset (r : R s0) : R s0 :=
  let m := r.s.mgmt
  r.eff (.reset true { Mgmt.init with
    flash := m.flash, running := m.running, owned := m.owned, owner := m.owner, epoch := m.epoch, attached := m.attached })

/-- POWER_GOOD (R505): a cold reset from the flash. -/
def execPowerGood (s : State) : Host.Outcome State Fault Refusal := (coldReset (R.start s) s.mgmt.flash).done

/-- READY (R505 step 5, R461): the firmware creates context 0 with its fault ring, assigns the node ID and sets READY. -/
def execReady (s : State) : Host.Outcome State Fault Refusal :=
  let r := R.start s
  (if s.mgmt.ready = false ∧ s.mgmt.running.isSome = true then
    let r1 := updCtx r 0 fun _ => { Ctx.monitor with frBase := BitVec.ofNat 52 (Sys2Proof.Config.ring0.toNat / 64 * 64) }
    updMgmt r1 fun m => { m with ready := true, node := Sys2Proof.Config.nodeId }
  else r).done

/-! ## Ownership (R480) -/

def setPending (r : R s0) (m cmd : Nat) : R s0 :=
  updMgmt r fun g => { g with boxes := tabSet Mailbox.init m { tabGet Mailbox.init m g.boxes with pending := cmd } g.boxes }

def boxOf (s : State) (m : Nat) : Mailbox := tabGet Mailbox.init m s.mgmt.boxes

/-- A command of a master may be taken: from the owner, with none of its pending. -/
def mayCommand (s : State) (m : Nat) : Bool := hostMayWrite s m && decide ((boxOf s m).pending = 0)

/-- CLAIM (R480, R514): the first claim wins; of two in one clk the lower master number. -/
def cmdClaim (r : R s0) (m : Nat) : R s0 :=
  let g := r.s.mgmt
  if 16 ≤ m then r
  else if g.owned = false then
    boxDone (updMgmt r fun x => { x with owned := true, owner := BitVec.ofNat 4 m, epoch := x.epoch + 1, claimClk := some r.s.clk }) m 0
  else if g.owner.toNat = m then boxDone r m 1
  else if g.claimClk = some r.s.clk ∧ m < g.owner.toNat then
    boxDone (boxDone (updMgmt r fun x => { x with owner := BitVec.ofNat 4 m }) g.owner.toNat 4) m 0
  else boxDone r m 4

/-- HANDOVER (R480): to an attached successor. -/
def cmdHandover (r : R s0) (m succ : Nat) : R s0 :=
  if mayCommand r.s m = false then r
  else if succ < 16 ∧ r.s.mgmt.attached.getLsbD succ = true then
    boxDone (updMgmt r fun x => { x with owner := BitVec.ofNat 4 succ, epoch := x.epoch + 1, claimClk := none }) m 0
  else boxDone r m 6

/-- Ownership ends (R480). -/
def lapse (r : R s0) : R s0 := updMgmt r fun x => { x with owned := false, owner := 0, epoch := x.epoch + 1, claimClk := none }

/-- DETACH (R480). -/
def cmdDetach (r : R s0) (m : Nat) : R s0 :=
  if mayCommand r.s m = false then r
  else boxDone (updMgmt (lapse r) fun x => { x with attached := x.attached &&& ~~~BitVec.ofNat 16 (2 ^ m) }) m 0

def execClaim (m : Nat) (s : State) : Host.Outcome State Fault Refusal := (cmdClaim (R.start s) m).done
def execHandover (m succ : Nat) (s : State) : Host.Outcome State Fault Refusal := (cmdHandover (R.start s) m succ).done
def execDetach (m : Nat) (s : State) : Host.Outcome State Fault Refusal := (cmdDetach (R.start s) m).done

/-- Ports behind which a master is, or was before they went Down. -/
def portsOfMaster (s : State) (m : Nat) : List Nat :=
  match m with
  | 0 => [0]
  | 1 => [5]
  | 2 => [9]
  | 3 => [14]
  | _ => (List.range 18).filter fun p =>
      let l := s.link p
      !l.cxlen && Sys2Proof.Config.isHost l.peer.toNat && decide (masterOfNode l.peer.toNat = m)

/-- OWNERSHIP_LAPSE (R480): the owner's link has stayed Down beyond its completion timeout. -/
def execOwnershipLapse (s : State) : Host.Outcome State Fault Refusal :=
  let r := R.start s
  let ps := portsOfMaster s s.mgmt.owner.toNat
  (if s.mgmt.owned && !ps.isEmpty && ps.all fun p => decide ((s.link p).st = .down ∧ (s.link p).since + ctoClk s p < s.clk) then lapse r
   else r).done

/-! ## CUT, FLIP, POST (R510) -/

/-- CUT with an operation (R510): as MARK. -/
def cmdCut (r : R s0) (m c op cls : Nat) : R s0 :=
  if mayCommand r.s m = false ∨ 4096 ≤ c ∨ 3 ≤ op ∨ 8 ≤ cls then r
  else startMark (setPending r m 4) c op ⟨op = 1, cls, none, some m⟩

def execCut (m c cls : Nat) (s : State) : Host.Outcome State Fault Refusal := (cmdCut (R.start s) m c 0 cls).done
def execCutCheckpoint (m c cls : Nat) (s : State) : Host.Outcome State Fault Refusal := (cmdCut (R.start s) m c 1 cls).done
def execCutResume (m c cls : Nat) (s : State) : Host.Outcome State Fault Refusal := (cmdCut (R.start s) m c 2 cls).done

/-- FLIP (R365, R368, R510): a request that comes second to a flip or a migration of its frame waits. -/
def cmdFlip (r : R s0) (m frame : Nat) (host : Bool) : R s0 :=
  let x := r.s.frame frame
  if mayCommand r.s m = false ∨ x.st ≠ .stable then r
  else if 576 * 2 ^ 14 ≤ frame then boxDone r m 6
  else if x.hostBias = host then boxDone r m 1
  else
    let r1 := setPending r m 5
    if host then flipToHost r1 frame 0 none (some m) else flipToDevice r1 frame 0 none (some m)

def execFlip (m frame : Nat) (host : Bool) (s : State) : Host.Outcome State Fault Refusal := (cmdFlip (R.start s) m frame host).done

/-- A range that a module unit reads for a context, in lines; none when a part faults. -/
def walkRead (s : State) (c : Nat) : Nat → Nat → Option (List Byte)
  | 0, _ => some []
  | n + 1, va => match checkWalk s c va 64 .rd false with
    | .ok pa _ => (walkRead s c n (va + 64)).map fun l => s.bytes pa 64 ++ l
    | .fault _ => none

/-- POST (R318, R510): a job card of a context, as a host master posts it. -/
def cmdPost (r : R s0) (m c : Nat) (a : Word) : R s0 :=
  if mayCommand r.s m = false ∨ ctxMoves r.s c = false then r
  else if a.toNat % 128 ≠ 0 then boxDone r m 13
  else match walkRead r.s c 2 a.toNat with
    | none => boxDone r m 6
    | some card =>
      match (if cardCollective card ∧ cardIndex card % 64 = 0 then walkRead r.s c 1 (cardIndex card) else some []) with
      | none => boxDone r m 6
      | some ring =>
        if cardOk card ring = false then
          boxDone (reportPlain r c ⟨.reservedField, false, false, 0xFF, 6, 0xFFFF, 0, 0, []⟩) m 13
        else match freeInbox (r.s.die (cardDie card)) with
          | none => boxDone r m 2
          | some e => boxDone (postJob r (cardDie card) e c card ring none 0 0 (ownerTick r.s (.host m))) m 0

def execPost (m c : Nat) (a : Word) (s : State) : Host.Outcome State Fault Refusal := (cmdPost (R.start s) m c a).done

/-! ## STREAM, QUOTE, RESET (R505, R507, R508) -/

/-- A context is Running, Cutting, Saving or Resuming (R405, R507). -/
def ctxLive (x : Ctx) : Bool := match x.st with | .running | .cutting | .saving | .resuming => true | _ => false

/-- STREAM (R507): the image in the streaming window is verified; an accepted one goes to the flash, and a cold reset follows. -/
def cmdStream (r : R s0) (m len : Nat) : R s0 :=
  let g := r.s.mgmt
  if (g.owned && decide (g.owner.toNat = m ∧ (boxOf r.s m).pending = 0)) = false then r
  else if r.s.ctxs.any fun x => ctxLive x.2 then boxDone r m 4
  else
    let img := (List.range (min len (2 ^ 23))).map fun i => tabGet 0 i g.window
    if len ≤ 2 ^ 23 ∧ imageAccepted img = true then coldReset r img else boxDone r m 3

def execStream (m len : Nat) (s : State) : Host.Outcome State Fault Refusal := (cmdStream (R.start s) m len).done

/-- The attestation record (R508). -/
def quoteRecord (s : State) (nonce : List Byte) : List Byte :=
  let g := s.mgmt
  let body := (List.range 32).map (fun i => nonce.getD i 0) ++ sha512 (g.running.getD []) ++ bytesLE 8 Sys2Proof.Config.serialNumber.toNat ++
    bytesLE 4 g.epoch.toNat ++ [if g.owned then BitVec.ofNat 8 g.owner.toNat else 0xFF] ++ bytesLE 19 0
  body ++ bytesLE 64 (Sys2Proof.Config.ed25519SignIdentity (sha512 body)).toNat

/-- Writes bytes into a master's mailbox. -/
def boxWrite (r : R s0) (m at_ : Nat) (l : List Byte) : R s0 :=
  updMgmt r fun g =>
    let b := tabGet Mailbox.init m g.boxes
    { g with boxes := tabSet Mailbox.init m { b with bytes := l.zipIdx.foldl (fun t x => tabSet 0 (at_ + x.2) x.1 t) b.bytes } g.boxes }

/-- QUOTE (R508): answered to any attached master. -/
def cmdQuote (r : R s0) (m : Nat) (nonce : List Byte) : R s0 :=
  let g := r.s.mgmt
  if (g.ready && decide (m < 16) && g.attached.getLsbD m) = false then r
  else boxDone (boxWrite r m 64 (quoteRecord r.s nonce)) m 0

def execQuote (m : Nat) (nonce : List Byte) (s : State) : Host.Outcome State Fault Refusal := (cmdQuote (R.start s) m nonce).done

/-- RESET with kind 0 and 1 (R505, R514): a cut that runs is abandoned with its context. A stopped module takes a cold one. -/
def cmdReset (r : R s0) (m kind : Nat) : R s0 :=
  if hostMayWrite r.s m = false then r
  else if kind = 0 then coldReset r r.s.mgmt.flash
  else if kind = 1 ∧ r.s.mgmt.stopped = false then warmReset r
  else r

def execResetCold (m : Nat) (s : State) : Host.Outcome State Fault Refusal := (cmdReset (R.start s) m 0).done
def execResetWarm (m : Nat) (s : State) : Host.Outcome State Fault Refusal := (cmdReset (R.start s) m 1).done

/-! ## Power and temperature (R511, R512) -/

/-- THROTTLE_STEP (R512): the measured power and junction, and one step of accept every 10 µs (21,000 clk). -/
def execThrottleStep (watts : BitVec 16) (tj : BitVec 8) (s : State) : Host.Outcome State Fault Refusal :=
  let r := R.start s
  (if s.clk < s.mgmt.thrClk + 21000 then r
   else updMgmt r fun m =>
     let hotNow := decide (2600 < watts.toNat ∨ 105 ≤ tj.toNat)
     let a := if hotNow then m.accept.toNat - 1 else min 255 (m.accept.toNat + 1)
     { m with watts := watts, tj := tj, hot := decide (105 ≤ tj.toNat), accept := BitVec.ofNat 8 a, thr := decide (hotNow = true ∨ a < 255),
              thrClk := s.clk }).done

/-- THERMAL_TRIP (R512): at 115 °C all cores stop, and each live context's UNCORRECTABLE record goes to context 0. -/
def execThermalTrip (s : State) : Host.Outcome State Fault Refusal :=
  let r := R.start s
  (if s.mgmt.tj.toNat < 115 ∨ s.mgmt.stopped = true then r
   else
     let r1 := updMgmt r fun m => { m with stopped := true }
     r1.each (s.ctxs.filter fun x => ctxLive x.2) fun q x =>
       let seq := (q.s.ctx x.1).seq.toNat
       putRecord (updCtx q x.1 fun y => { y with seq := y.seq + 1 }) 0
         (recBytes ⟨.uncorrectable, false, false, 0xFF, 6, 0xFFFF, 0, 0, []⟩ x.1 seq x.2.det)).done

/-- Events that happen while the cores are stopped (R512): those of links, hosts and the management controller. -/
def runsStopped (i : Instr) : Bool :=
  match i with
  | .requestFlit .. | .completionFlit .. | .recallFlit .. | .collectiveFlit .. | .managementFlit .. | .ackFlit .. | .nakFlit ..
  | .abortFlit .. | .trainingComplete .. | .trainingTimeout _ | .laneLoss .. | .peerLoss _ | .portEnable _ | .portDisable _
  | .peerPresent .. | .badFlit .. | .powerGood | .claim _ | .handover .. | .detach _ | .cut .. | .cutCheckpoint .. | .cutResume ..
  | .flip .. | .post .. | .stream .. | .quote .. | .resetCold _ | .resetWarm _ | .ownershipLapse | .throttleStep ..
  | .registerWrite (.host _) _ _ => true
  | _ => false

/-! ## The management space (R509, R510) -/

/-- A port word (R494). -/
def portWord (l : Link) : Nat :=
  let code := match l.st with | .down => 0 | .training => 1 | .active => 2 | .degraded => 3 | .retraining => 4
  code * 2 ^ 61 + l.mode.toNat * 2 ^ 59 + l.lanes.toNat * 2 ^ 51 + (if l.up then l.peer.toNat else 0) * 2 ^ 40 + l.replays.toNat * 2 ^ 16 +
    l.cto.toNat * 2 ^ 4 + b2n l.cxlen * 2 ^ 3 + b2n l.en

/-- The module status word (R511). -/
def statusWord (m : Mgmt) : Nat :=
  b2n m.ready * 2 ^ 63 + b2n m.recovery * 2 ^ 62 + b2n m.thr * 2 ^ 61 + b2n m.hot * 2 ^ 60 + m.watts.toNat * 2 ^ 32 + m.tj.toNat * 2 ^ 24 +
    m.accept.toNat * 2 ^ 16

/-- The 8 bytes at an offset of the management space as they read; what no region covers reads as 0. -/
def mgmtRead (s : State) (off : Nat) : Nat :=
  let bytesAt (t : Nat → Byte) (a : Nat) : Nat := ofBytesLE ((List.range 8).map fun j => t (a + j))
  if off / 8 * 8 = 0xA2000 then statusWord s.mgmt
  else if s.mgmt.ready = false then 0
  else if 0x20000 ≤ off ∧ off < 0xA0000 then queueWord (s.queue ((off - 0x20000) / 32)) (off % 32 / 8)
  else if 0xA0000 ≤ off ∧ off < 0xA0000 + 144 then portWord (s.link ((off - 0xA0000) / 8))
  else if 0xA1000 ≤ off ∧ off < 0xA2000 then
    let a := (off - 0xA1000) / 8 * 8
    bytesAt (fun i => tabGet 0 i (boxOf s (a / 256)).bytes) (a % 256)
  else if 0xA3000 ≤ off ∧ off < 0xA4000 then bytesAt Sys2Proof.Config.certificate ((off - 0xA3000) / 8 * 8)
  else if 0x100000 ≤ off ∧ off < 0x900000 then bytesAt (fun i => tabGet 0 i s.mgmt.window) ((off - 0x100000) / 8 * 8)
  else 0

/-- An 8-byte write to the registers that contexts and the owner reach alike: doorbells, descriptors, port words. -/
def mgmtRegWrite (r : R s0) (off : Nat) (v : Word) : R s0 :=
  if r.s.mgmt.ready = false then r
  else if off < 0x20000 then ringBell r (off / 8) v
  else if off < 0xA0000 then writeQueueWord r ((off - 0x20000) / 32) (off % 32 / 8) v.toNat
  else if 0xA0000 ≤ off ∧ off < 0xA0000 + 144 then writePortWord r ((off - 0xA0000) / 8) v.toNat
  else r

/-- An 8-byte write by a host master (R480, R509, R510): a mailbox takes its master's writes, the rest the owner's. -/
def mgmtWrite (r : R s0) (m off : Nat) (v : Word) : R s0 :=
  let owner := r.s.mgmt.owned && decide (r.s.mgmt.owner.toNat = m)
  if off % 8 ≠ 0 ∨ 16 ≤ m then r
  else if 0xA1000 + 256 * m ≤ off ∧ off < 0xA1000 + 256 * (m + 1) then
    let a := (off - 0xA1000) % 256
    if a = 0 ∧ (boxOf r.s m).pending ≠ 0 then boxWrite r m 1 [4]
    else boxWrite r m a (bytesLE 8 v.toNat)
  else if owner = false then r
  else if 0x100000 ≤ off ∧ off < 0x900000 then
    updMgmt r fun g => { g with window := (bytesLE 8 v.toNat).zipIdx.foldl (fun t x => tabSet 0 (off - 0x100000 + x.2) x.1 t) g.window }
  else mgmtRegWrite r off v

/-- The command in a master's mailbox is performed (R510). -/
def runCommand (r : R s0) (m : Nat) : R s0 :=
  let b := (boxOf r.s m).bytes
  let n (i k : Nat) : Nat := ofBytesLE ((List.range k).map fun j => tabGet 0 (i + j) b)
  match n 0 1 with
  | 1 => cmdClaim r m
  | 2 => cmdHandover r m (n 8 1)
  | 3 => cmdDetach r m
  | 4 => cmdCut r m (n 8 2 % 4096) (n 10 1) (n 11 1)
  | 5 => cmdFlip r m (n 8 8 / 2 ^ 16) (decide (n 16 1 % 2 = 1))
  | 6 => cmdPost r m (n 16 2 % 4096) (BitVec.ofNat 64 (n 8 8))
  | 7 => cmdStream r m (n 8 4)
  | 8 => cmdQuote r m ((List.range 32).map fun i => tabGet 0 (8 + i) b)
  | 9 => cmdReset r m (n 8 1)
  | _ => r

end Sys2Proof.Machine
end

