-- ==== Sys2Proof/Machine/Links.lean ====
section
/-!
DEFINITION. Links (R489 to R504): training and the states of a port, flits with their replay, requests that other nodes send, and the
completions, recalls and timeouts of this module's own: the events PEER_PRESENT, TRAINING_COMPLETE, TRAINING_TIMEOUT, LANE_LOSS,
PEER_LOSS, PORT_ENABLE, PORT_DISABLE, ACK_FLIT, NAK_FLIT, BAD_FLIT, REQUEST_FLIT, COMPLETION_FLIT, RECALL_FLIT, MANAGEMENT_FLIT,
COMPLETION_TIMEOUT and RECALL_TIMEOUT.
-/

set_option linter.unusedVariables false

namespace Sys2Proof.Machine

open Sys2Proof

variable {s0 : State}

/-! ## States of a port (R493, R494) -/

/-- PEER_PRESENT (R493): a peer appears, and an enabled Down port trains. -/
def execPeerPresent (port peer : Nat) (s : State) : Host.Outcome State Fault Refusal :=
  let r := R.start s
  (if (s.link port).st = .down then
    beginTraining (updLink r port fun l => { l with present := true, peer := BitVec.ofNat 11 peer }) port
  else r).done

/-- PORT_ENABLE (R494). -/
def execPortEnable (port : Nat) (s : State) : Host.Outcome State Fault Refusal :=
  (beginTraining (updLink (R.start s) port fun l => { l with en := true }) port).done

/-- PORT_DISABLE (R494). -/
def execPortDisable (port : Nat) (s : State) : Host.Outcome State Fault Refusal :=
  (portDown (updLink (R.start s) port fun l => { l with en := false }) port).done

/-- PEER_LOSS (R493). -/
def execPeerLoss (port : Nat) (s : State) : Host.Outcome State Fault Refusal :=
  (updLink (portDown (R.start s) port) port fun l => { l with present := false }).done

/-- Time within which a training ends (R493), in clk: 2 ms, or 500 µs for a retraining. -/
def trainLimit (x : PortSt) : Nat := match x with | .retraining => 1050000 | _ => 4200000

def isTraining (x : PortSt) : Bool := match x with | .training | .retraining => true | _ => false

/-- Flits that leave the replay buffer again count as replays, saturating (R491, R494). -/
def countReplays (l : Link) (n : Nat) : BitVec 16 := BitVec.ofNat 16 (min 65535 (l.replays.toNat + n))

/-- A trained port: Active with 8 good lanes, Degraded with 4 contiguous ones; none otherwise. -/
def trainedSt (lanes : BitVec 8) : Option PortSt :=
  if lanes = 0xFF then some .active
  else if lanes &&& 0x0F = 0x0F ∨ lanes &&& 0xF0 = 0xF0 then some .degraded
  else none

/-- TRAINING_COMPLETE (R493, R503): unacknowledged flits are replayed; a host behind the port is attached. -/
def execTrainingComplete (port : Nat) (lanes : BitVec 8) (s : State) : Host.Outcome State Fault Refusal :=
  let r := R.start s
  let l := s.link port
  (if isTraining l.st && decide (s.clk ≤ l.since + trainLimit l.st) then
    match trainedSt lanes with
    | none => portDown r port
    | some st =>
      let r1 := updLink r port fun l =>
        { l with st := st, lanes := lanes, mode := if l.cxlen then 1 else 0, since := s.clk, naks := 0, replays := countReplays l l.unacked.length }
      match masterAt r1.s port with
      | some m => updMgmt r1 fun g => { g with attached := g.attached ||| BitVec.ofNat 16 (2 ^ m) }
      | none => r1
  else r).done

/-- TRAINING_TIMEOUT (R493). -/
def execTrainingTimeout (port : Nat) (s : State) : Host.Outcome State Fault Refusal :=
  let r := R.start s
  let l := s.link port
  (if isTraining l.st && decide (l.since + trainLimit l.st < s.clk) then portDown r port else r).done

/-- A port retrains (R493): flits wait in the replay buffer. -/
def retrain (r : R s0) (port : Nat) : R s0 := updLink r port fun l => { l with st := .retraining, since := r.s.clk, naks := 0 }

/-- LANE_LOSS (R493). -/
def execLaneLoss (port lane : Nat) (s : State) : Host.Outcome State Fault Refusal :=
  let r := R.start s
  (if (s.link port).up && (s.link port).lanes.getLsbD lane then
    retrain (updLink r port fun l => { l with lanes := l.lanes &&& ~~~BitVec.ofNat 8 (2 ^ lane) }) port
  else r).done

/-! ## Acknowledgement and replay (R491) -/

/-- Flits up to a sequence number leave the replay buffer. -/
def dropThrough (l : List Nat) (seq : Nat) : List Nat := if l.contains seq then (l.dropWhile (· ≠ seq)).drop 1 else l

/-- ACK_FLIT (R491): acknowledged flits leave the replay buffer; a ring's send among them is acknowledged (R500). -/
def execAckFlit (port seq : Nat) (s : State) : Host.Outcome State Fault Refusal :=
  let r := R.start s
  let l := s.link port
  (if l.up = false then r
   else
     let rest := dropThrough l.unacked seq
     let gone := l.unacked.filter fun n => !rest.contains n
     let r1 := updLink r port fun x => { x with unacked := rest, naks := 0 }
     r1.each (List.range 4) fun q d => q.each ((q.s.die d).jobs.filter fun j => match j.2.sent with
         | some (p, n) => j.2.used && decide (p = port) && gone.contains n
         | none => false) fun z j =>
       ringAdvance (updJob z d j.1 fun x => { x with sent := none }) d j.1 130).done

/-- NAK_FLIT (R491, R493): the sender replays from the named flit on; 16 in a row make the port retrain. -/
def execNakFlit (port seq : Nat) (s : State) : Host.Outcome State Fault Refusal :=
  let r := R.start s
  let l := s.link port
  (if l.up = false then r
   else
     let r1 := updLink r port fun x =>
       { x with naks := x.naks + 1, replays := countReplays x (x.unacked.dropWhile (· ≠ seq)).length }
     if 16 ≤ l.naks + 1 then retrain r1 port else r1).done

/-- BAD_FLIT (R489, R491): a reserved kind is dropped and counted as a replay; a CRC error is answered with a nak, and the flit
changes nothing. -/
def execBadFlit (port : Nat) (reserved : Bool) (s : State) : Host.Outcome State Fault Refusal :=
  let r := R.start s
  (if (s.link port).up && reserved then updLink r port fun x => { x with replays := countReplays x 1 } else r).done

/-- A good flit has been received. -/
def received (r : R s0) (port : Nat) : R s0 := updLink r port fun l => { l with seqRx := l.seqRx + 1 }

/-! ## Requests of other nodes (R412, R490, R496) -/

/-- Who performs a request that came over a port. -/
def peerOwner (s : State) (port : Nat) : Owner := match masterAt s port with | some m => .host m | none => .dev

/-- Writes of a host that is not the owner are refused (R480). -/
def peerMayWrite (s : State) (port : Nat) : Bool := match masterAt s port with | some m => hostMayWrite s m | none => true

/-- Lines that a range touches. -/
def linesOf (pa n : Nat) : List Nat := (List.range ((pa % 128 + n + 127) / 128)).map fun i => pa / 128 + i

/-- The range can be accessed now: no frame of it is Flipping or Freezing, and no host holds a part of it as owner; such a part is
recalled. -/
def rangeReady (r : R s0) (pa n : Nat) (write : Bool) : R s0 × Bool :=
  let ls := linesOf pa n
  if ls.any fun l => frameWaits r.s (l * 128) then (r, false)
  else
    let owned := ls.filter fun l => let a := max (l * 128) pa; hostOwned r.s a (min (l * 128 + 128) (pa + n) - a)
    if owned.isEmpty then (if write then r.each ls fun q l => let a := max (l * 128) pa; recallHalves q a (min (l * 128 + 128) (pa + n) - a) true else r, true)
    else (r.each owned fun q l => let a := max (l * 128) pa; recallHalves q a (min (l * 128 + 128) (pa + n) - a) write, false)

/-- Ticks that a write to some lines would take have room (R404). -/
def rangeRoom (s : State) (o : Owner) (pa n : Nat) : Bool := (linesOf pa n).all fun l => tickRoom s (max (ownerTick s o) (homeRts s (l * 128) + 1))

/-- A host returns an owned half (R412, R498): its 64 bytes are performed at the home with the host's tick. -/
def hostReturn (r : R s0) (m pa : Nat) (l : List Byte) : R s0 :=
  let n := pa / 128
  let hi := decide (64 ≤ pa % 128)
  let x := r.s.line n
  let st := if hi then x.half1 else x.half0
  let who := if hi then x.host1 else x.host0
  if pa % 64 ≠ 0 ∨ l.length ≠ 64 ∨ st < 2 ∨ who ≠ m ∨ rangeRoom r.s (.host m) pa 64 = false then r
  else
    let r1 := updLine r n fun y => if hi then { y with half1 := 0 } else { y with half0 := 0 }
    flipCheck (dirFreeLine (homeWrite r1 (.host m) 0 true pa l) n) (pa / 2 ^ 16)

/-- A host asks for a half (R412): granted in host bias once no other host owns it and the directory has room for it; only the owner
master is given ownership. In device bias the request is performed at the home without a grant (R364). -/
def hostHalf (r : R s0) (m pa : Nat) (owned : Bool) : R s0 :=
  let n := pa / 128
  let hi := decide (64 ≤ pa % 128)
  let f := r.s.frame (pa / 2 ^ 16)
  let x := r.s.line n
  let st := if hi then x.half1 else x.half0
  let who := if hi then x.host1 else x.host0
  if f.st ≠ .stable then r
  else if f.hostBias = false ∨ (owned = true ∧ hostMayWrite r.s m = false) then homeFill r pa
  else if 2 ≤ st ∧ who ≠ m then askHalf r n hi true
  else
    let (r1, ok) := dirGrant (homeFill r pa) n
    if ok then updLine r1 n fun y =>
      if hi then { y with half1 := if owned ∨ 2 ≤ st then 2 else 1, host1 := m } else { y with half0 := if owned ∨ 2 ≤ st then 2 else 1, host0 := m }
    else r1

/-- A request of another node is performed at its home (R364, R490). -/
def peerRequest (r : R s0) (port : Nat) (q : LinkReq) : R s0 :=
  let o := peerOwner r.s port
  match q with
  | .read pa n =>
    (match rangeReady r pa n false with
     | (r1, true) => sendFlit (received ((linesOf pa n).foldl (fun z l => homeFill z (l * 128)) r1) port) port
     | (r1, false) => r1)
  | .write pa l =>
    if peerMayWrite r.s port = false then received r port
    else (match rangeReady r pa l.length true with
      | (r1, true) =>
        if rangeRoom r1.s o pa l.length then sendFlit (received (writeLines r1 o 0 (l.length / 128 + 2) pa l) port) port else r1
      | (r1, false) => r1)
  | .amoadd pa n v =>
    if peerMayWrite r.s port = false ∨ (n ≠ 4 ∧ n ≠ 8) ∨ pa % n ≠ 0 ∨ (r.s.frame (pa / 2 ^ 16)).hostBias = true then received r port
    else (match rangeReady r pa n true with
      | (r1, true) =>
        if rangeRoom r1.s o pa n then
          sendFlit (received (homeWrite r1 o 0 true pa (bytesLE n ((r1.s.nat pa n + v.toNat) % 2 ^ (8 * n)))) port) port
        else r1
      | (r1, false) => r1)
  | .half m pa owned => if masterAt r.s port = some m ∧ pa % 64 = 0 then received (hostHalf r m pa owned) port else r
  | .writeBack m pa l => if masterAt r.s port = some m then received (hostReturn r m pa l) port else r

/-- REQUEST_FLIT (R490). -/
def execRequestFlit (port : Nat) (q : LinkReq) (s : State) : Host.Outcome State Fault Refusal :=
  let r := R.start s
  (if (s.link port).up && s.mgmt.ready then peerRequest r port q else r).done

/-- RECALL_FLIT (R498): a host's answer to a recall. -/
def execRecallFlit (port m pa : Nat) (l : List Byte) (s : State) : Host.Outcome State Fault Refusal :=
  let r := R.start s
  (if (s.link port).up = true ∧ masterAt s port = some m then received (hostReturn r m pa l) port else r).done

/-- RECALL_TIMEOUT (R498): a half of a line that has been recalled for cto without an answer keeps the home's bytes; the flip goes
on, and a record goes to context 0. -/
def execRecallTimeout (n : Nat) (s : State) : Host.Outcome State Fault Refusal :=
  let r := R.start s
  let l := s.line n
  let late (st m since : Nat) : Bool := decide (st = 3) && decide (since + ctoClk s ((portsOfMaster s m).headD 0) ≤ s.clk)
  let a := late l.half0 l.host0 l.since0
  let b := late l.half1 l.host1 l.since1
  (if a || b then
    let r1 := updLine r n fun x => { x with half0 := if a then 0 else x.half0, half1 := if b then 0 else x.half1 }
    let r2 := flipCheck (dirFreeLine r1 n) (n / 512)
    let rep (z : R s) (pa : Nat) : R s := reportPlain z 0 ⟨.uncorrectable, false, false, 0xFF, 9, 0xFFFF, 0, 0, [pa]⟩
    (r2.when a fun z => rep z (n * 128)).when b fun z => rep z (n * 128 + 64)
  else r).done

/-- MANAGEMENT_FLIT (R509): a message of the master behind a port. -/
def execManagementFlit (port : Nat) (msg : MgmtMsg) (s : State) : Host.Outcome State Fault Refusal :=
  let r := R.start s
  (if (s.link port).up = false then r
   else match msg with
     | .write m off v => if masterAt s port = some m then received (mgmtWrite r m off v) port else r
     | .flip m frame host => if masterAt s port = some m then received (cmdFlip r m frame host) port else r
     | .command m => if masterAt s port = some m then received (runCommand r m) port else r).done

/-! ## Completions of this module's requests (R490, R495) -/

/-- What a completion says to a request: kind and values, and whether its token carries a completion. -/
def remoteResult (s : State) (q : Req) (l : List Byte) : Kind × Word × Word × Bool :=
  let w (i : Nat) : Word := BitVec.ofNat 64 (ofBytesLE ((l.drop i).take 8))
  match q.op with
  | .load | .loadTracked => let (k, v) := readValue q.ty (overHeld s q (l.take q.size)); (k, v, v, false)
  | .atomic .. => let (k, v) := readValue q.ty (l.take q.size); (k, v, v, true)
  | .store _ => (.data, BitVec.ofNat 64 q.va, BitVec.ofNat 64 q.va, true)
  | .waita _ => let (k, v) := readValue q.ty (l.take q.size); (k, v, v, false)
  | .skip k v => (k, v, v, false)
  | .bartst => (.data, w 0, w 8, false)
  | _ => (.data, w 0, w 0, false)

/-- COMPLETION_FLIT (R491). -/
def execCompletionFlit (port id : Nat) (l : List Byte) (s : State) : Host.Outcome State Fault Refusal :=
  let r := R.start s
  (match getReq s id with
   | none => r
   | some q =>
     if q.stage = Stage.remote port ∧ (s.link port).up = true then
       let (k, v, v2, carry) := remoteResult s q l
       let r1 := if isAtomic q.instr && !isHeldKind q.instr then countLsid r q.firing q.lsid else r
       let r2 := if isAtomic q.instr && q.firing.trestle.isNone then noteRetag r1 q.firing else r1
       received (updReq r2 id fun x => { x with stage := .performed, rk := k, rv := v, rv2 := v2, carry := carry }) port
     else r).done

/-- COMPLETION_TIMEOUT (R495): a final fault UNCORRECTABLE of source 9, and ERROR for the targets. -/
def execCompletionTimeout (id : Nat) (s : State) : Host.Outcome State Fault Refusal :=
  let r := R.start s
  (match getReq s id with
   | none => r
   | some q => match q.stage with
     | .remote p =>
       if q.since + ctoClk s p < s.clk then
         let x := recOf q.firing .uncorrectable false 9 0 [q.pa, tagNat q.firing.tag, b2n (noReplayOf s q.firing)]
         takeFault (dropReq r id) q.firing x fun z => replyErr z q.firing (hdrOfInstr q.instr)
       else r
     | _ => r).done

end Sys2Proof.Machine
end

