-- ==== Sys2Proof/Machine/Port.lean ====
section
/-!
DEFINITION. RETRY (R196, R197) and the event PORT_ACCESS_ISSUE: a request that waits at its port, front end or walker is examined
again, and one that reaches the management space (R509) is performed there.
-/

set_option linter.unusedVariables false

namespace Sys2Proof.Machine

open Sys2Proof

variable {s0 : State}

/-! ## RETRY (R196, R197) -/

/-- The source that a request handle names. -/
def handleSrc (v : Nat) : Option ReqSrc :=
  match field v 8 7 with
  | 0 => some (.port (field v 6 3))
  | 1 => some (.front (field v 6 3))
  | 2 => if field v 6 3 = 0 then some .walker else none
  | _ => none

/-- The held request that a handle names: the one at the head of its source. -/
def heldOf (s : State) (v : Nat) : Option Req :=
  match handleSrc v with
  | none => none
  | some src => s.reqs.find? fun q =>
      decide (q.stage = .held ∧ q.src = src ∧ q.firing.core = field v 15 9 ∧ q.firing.ctx = field v 27 16)

/-- A held request is reissued from its translation (R175): a stream, a tile or a front end goes on by itself. -/
def reissue (r : R s0) (q : Req) : R s0 :=
  let c := q.firing.core
  match q.instr with
  | .blockMap .. | .blockSettlement .. => dropReq r q.id
  | .streamElement _ p sc | .outputStreamToken _ p sc => updStream (dropReq r q.id) c p sc fun x => { x with st := .running }
  | .mwld .. => updMatrix (dropReq r q.id) c fun m => { m with loadHeld := false }
  | .mstr _ => updMatrix (dropReq r q.id) c fun m => { m with st := .streaming }
  | .mrdo _ => updMatrix (dropReq r q.id) c fun m => { m with st := .reading }
  | _ => updReq r q.id fun x => { x with stage := .blocked, translated := false }

/-- RETRY (R196): 1 if the named source held a request, else 0; a context whose cut is in progress or complete keeps its
requests held. -/
def execRetry (h : Hdr) (s : State) : Host.Outcome State Fault Refusal :=
  acting s h [opTok s.cur.a] fun r =>
    let f := firingOf s
    let v := (opTok f.a).value.toNat
    let c := field v 27 16
    if field v 63 28 ≠ 0 ∨ field v 2 0 ≠ 0 then reply r f h .data 0 false
    else if governs s f.ctx c = false then denyFault r f h (firingSrc f)
    else if ctxMoves s c = false then reply r f h .data 0 false
    else match heldOf s v with
      | none => reply r f h .data 0 false
      | some q => reply (reissue r q) f h .data 1 false

/-! ## The management space (R509) -/

/-- An access to the management space: 8-byte stores write its registers, and every access reads them. -/
def performMgmt (r : R s0) (q : Req) : R s0 :=
  let off := q.pa - mgmtBase
  let l := bytesLE 8 (mgmtRead r.s (off / 8 * 8))
  let (k, v) := readValue q.ty ((l.drop (off % 8)).take q.size)
  match q.op with
  | .store d =>
    let r1 := if d.length = 8 then mgmtRegWrite r off (BitVec.ofNat 64 (ofBytesLE d)) else r
    updReq r1 q.id fun x => { x with stage := .performed, rk := .data, rv := BitVec.ofNat 64 q.va, rv2 := BitVec.ofNat 64 q.va, carry := true }
  | _ => updReq r q.id fun x => { x with stage := .performed, rk := k, rv := v, rv2 := v }

/-! ## PORT_ACCESS_ISSUE -/

/-- The attempt of an instruction that is examined anew each time its turn comes. -/
def tryAgain (r : R s0) (q : Req) : R s0 :=
  match q.instr with
  | .kvapp _ => tryKvapp r q
  | .sopen _ p sc => trySopen p.val sc.val r q
  | .cfgld _ pin => tryCfgld pin r q
  | .cfgpin _ pin => tryCfgpin pin r q
  | .cfgdrain _ => tryCfgdrain r q
  | .cfgswap _ => tryCfgswap r q
  | .grpwait _ => tryGrpwait r q
  | .grpcan _ => tryGrpcan r q
  | .engqry _ => tryEngqry r q
  | .drvdecl _ => tryDrvdecl r q
  | .drvdrop _ => tryDrvdrop r q
  | .drvsync _ => tryDrvsync r q
  | .drvstat _ => tryDrvstat r q
  | .dld .. | .dldl .. => tryDld r q
  | .lease _ n d => tryLease n.val d r q
  | _ => tryAct r q

/-- A request that waits is examined again. -/
def issueReq (r : R s0) (q : Req) : R s0 :=
  match q.op with
  | .ctl | .dld _ => tryAgain r q
  | .report => r
  | _ =>
    let r1 := if q.translated then r else runChecks r q
    match getReq r1.s q.id with
    | some x => if x.stage = .blocked ∧ x.translated = true then orderReq r1 x else r1
    | none => r1

/-- PORT_ACCESS_ISSUE (R170, R171, R175, R286): a request that nothing held stands before takes its turn. -/
def execPortAccessIssue (id : Nat) (s : State) : Host.Outcome State Fault Refusal :=
  let r := R.start s
  (match getReq s id with
   | none => r
   | some q =>
     if ctxMoves s q.firing.ctx = false then r
     else match q.stage with
       | .blocked => if heldAhead s q then r else issueReq r q
       | .issued => if homeGate s q = HomeGate.mgmt then performMgmt r q else r
       | _ => r).done

end Sys2Proof.Machine
end

