-- ==== Sys2Proof/Machine/TokenOps.lean ====
section
/-!
DEFINITION. Token and dataflow control instructions (R61 to R72), opcodes 0x00 to 0x0F, except ITER, whose loop
windows stand in Fabric.lean.
-/

set_option linter.unusedVariables false

namespace Sys2Proof.Machine

open Sys2Proof

/-- A tag as the 32-bit value of R36 bits [95:64]. -/
def tagWord (t : Tag) : Nat := t.slot.toNat * 2 ^ 29 + t.unit.toNat * 2 ^ 16 + t.iter.toNat

/-- A token passed on to some targets with its own kind and value under a tag. -/
def passAll (tgts : List Target) (t : Tok) (tag : Tag) : Res := resAll tgts t.kind t.value tag

/-- MOV (R63): a to t0 and t1. -/
def execMov (h : Hdr) (s : State) : Host.Outcome State Fault Refusal :=
  fireRes s (unary h s.cur id)

/-- The fan-out of R63 to some targets. -/
def fanRes (h : Hdr) (tgts : List Target) (f : Firing) : Res :=
  ruled h tgts f [opTok f.a] (resAll tgts .data (opTok f.a).value f.tag)

/-- FAN3 (R63): a to t0, t1 and t2. -/
def execFan3 (h : Hdr) (t2 : Target) (s : State) : Host.Outcome State Fault Refusal :=
  fireRes s (fanRes h [h.t0, h.t1, t2] s.cur)

/-- FAN4 (R63): a to t0, t1, t2 and t3. -/
def execFan4 (h : Hdr) (t2 t3 : Target) (s : State) : Host.Outcome State Fault Refusal :=
  fireRes s (fanRes h [h.t0, h.t1, t2, t3] s.cur)

/-- NUL (R63): NULL to t0 and t1. -/
def execNul (h : Hdr) (s : State) : Host.Outcome State Fault Refusal :=
  fireRes s (ruled h (tgts2 h) s.cur [] (resAll (tgts2 h) .null 0 s.cur.tag))

/-- The decision of STEER and GATE (R65): a DATA b that is not zero. -/
def steerTrue (b : Tok) : Bool := decide (b.kind = .data) && decide (b.value ≠ 0)

/-- What STEER or GATE sends of a (R65): its own kind, or ERROR when b is ERROR and a is no stop. -/
def steerKind (a b : Tok) : Kind :=
  if isStop a.kind then a.kind else if b.kind = .error then .error else a.kind

/-- The rule that replaces R46 for STEER and GATE (R65): NULL at a or b, and a stop at b. -/
def steerRule (h : Hdr) (f : Firing) (body : Res) : Res :=
  let a := opTok f.a
  let b := opTok f.b
  ruledOwn h (tgts2 h) f (nullOrStop a || nullOrStop b)
    (if a.kind = .null ∨ b.kind = .null then resAll (tgts2 h) .null 0 f.tag
     else if isStop b.kind then
       resAll (tgts2 h) (maxStop [a, b]) (if isStop a.kind then a.value else b.value) f.tag
     else body)

/-- STEER (R65): a to t0 when b is true, else to t1; with `.n` the other side gets NULL. Tokens leave in target order (R42). -/
def execSteer (h : Hdr) (n : Bool) (s : State) : Host.Outcome State Fault Refusal :=
  let f := s.cur
  let a := opTok f.a
  let b := opTok f.b
  let c := steerTrue b
  let side (taken : Bool) (g : Target) : List Send :=
    if taken then sendAll [g] (steerKind a b) a.value f.tag else if n then sendAll [g] .null 0 f.tag else []
  fireRes s (steerRule h f ⟨side c h.t0 ++ side (!c) h.t1, fNone⟩)

/-- GATE (R65): a to both targets when b is true; otherwise nothing, or NULL with `.n`. -/
def execGate (h : Hdr) (n : Bool) (s : State) : Host.Outcome State Fault Refusal :=
  let f := s.cur
  let a := opTok f.a
  let b := opTok f.b
  fireRes s (steerRule h f
    (if steerTrue b then resAll (tgts2 h) (steerKind a b) a.value f.tag
     else if n then resAll (tgts2 h) .null 0 f.tag else .none))

/-- The one token that a non-matching firing accepted. -/
def acceptedTok (f : Firing) : Tok := if f.a.isEmpty then opTok f.b else opTok f.a

/-- MERGE (R65): the accepted token unchanged, action consume. -/
def execMerge (h : Hdr) (s : State) : Host.Outcome State Fault Refusal :=
  fireRes s (passAll (tgts2 h) (acceptedTok s.cur) (acceptedTok s.cur).tag)

/-- ITERX (R67): the iteration set from the immediate, or from b; R46 applies to b only. -/
def execIterx (h : Hdr) (imm : Option (BitVec 16)) (s : State) : Host.Outcome State Fault Refusal :=
  let f := s.cur
  let a := opTok f.a
  let b := opTok f.b
  fireRetag s (ruledOwn h (tgts2 h) f (imm.isNone && (kindRule [b]).isSome)
    (match imm with
     | some k => passAll (tgts2 h) a { f.tag with iter := k }
     | none => match kindRule [b] with
       | some (k, v) => resAll (tgts2 h) k v f.tag
       | none => passAll (tgts2 h) a { f.tag with iter := b.value.extractLsb' 0 16 }))

/-- TAGGET (R67, R68): the tag of a as a 32-bit value. -/
def execTagget (h : Hdr) (s : State) : Host.Outcome State Fault Refusal :=
  let f := s.cur
  fireRes s (unary h f fun _ => BitVec.ofNat 64 (tagWord (opTok f.a).tag))

/-- TAGSET (R67): unit and iteration from b, the slot kept; R46 applies to b only. -/
def execTagset (h : Hdr) (s : State) : Host.Outcome State Fault Refusal :=
  let f := s.cur
  let b := opTok f.b
  fireRetag s (ruledOwn h (tgts2 h) f (kindRule [b]).isSome
    (match kindRule [b] with
     | some (k, v) => resAll (tgts2 h) k v f.tag
     | none => passAll (tgts2 h) (opTok f.a)
         { f.tag with unit := b.value.extractLsb' 16 13, iter := b.value.extractLsb' 0 16 }))

/-- SLOTSET (R67): the slot replaced; a passes whatever its kind. -/
def execSlotset (h : Hdr) (n : Fin 7) (s : State) : Host.Outcome State Fault Refusal :=
  let f := s.cur
  fireRetag s (ruledOwn h (tgts2 h) f false
    (passAll (tgts2 h) (opTok f.a) { f.tag with slot := BitVec.ofNat 3 n.val }))

/-- STICKY (R69, R70): a with action sticky; NULL and stops with action consume. -/
def execSticky (h : Hdr) (s : State) : Host.Outcome State Fault Refusal :=
  let f := s.cur
  let a := opTok f.a
  fireRes s (ruledOwn h (tgts2 h) f (nullOrStop a)
    (if a.kind = .null then resAll (tgts2 h) .null 0 f.tag
     else if isStop a.kind then passAll (tgts2 h) a f.tag
     else ⟨(sendAll (tgts2 h) a.kind a.value f.tag).map fun t => { t with action := .sticky }, fNone⟩))

/-- PURGE (R69, R70): a PURGE token to each target; NULL at a sends NULL. -/
def execPurge (h : Hdr) (s : State) : Host.Outcome State Fault Refusal :=
  let f := s.cur
  let a := opTok f.a
  fireRes s (ruledOwn h (tgts2 h) f (decide (a.kind = .null))
    (if a.kind = .null then resAll (tgts2 h) .null 0 f.tag
     else ⟨(sendAll (tgts2 h) .purge 0 f.tag).map fun t => { t with action := .purge }, fNone⟩))

/-- STOP (R71, R72): a stop of the level with the value of a; NULL at a sends NULL. -/
def execStop (h : Hdr) (l : Fin 4) (s : State) : Host.Outcome State Fault Refusal :=
  let f := s.cur
  let a := opTok f.a
  fireRes s (ruledOwn h (tgts2 h) f (decide (a.kind = .null))
    (if a.kind = .null then resAll (tgts2 h) .null 0 f.tag
     else resAll (tgts2 h) (.stop l) a.value f.tag))

/-- STOPT (R71): stops of the level or higher to t1, every other kind to t0. -/
def execStopt (h : Hdr) (l : Fin 4) (s : State) : Host.Outcome State Fault Refusal :=
  let f := s.cur
  let a := opTok f.a
  fireRes s (ruledOwn h (tgts2 h) f false
    (if isStop a.kind && decide (l.val ≤ stopLevel a.kind) then passAll [h.t1] a f.tag
     else passAll [h.t0] a f.tag))

end Sys2Proof.Machine
end

