-- ==== Sys2Proof/Machine/Dispatch.lean ====
section
/-! DEFINITION. Dispatch: one arm for each row of the table of operations and events, one meaning for each arm. -/

namespace Sys2Proof.Machine

open Sys2Proof

/-- What a step of the machine does: an instruction that fires on the current firing, or an event. -/
def exec (i : Instr) (s : State) : Host.Outcome State Fault Refusal :=
  match i with
  | .mov h => Sys2Proof.Machine.execMov h s
  | .fan3 h t2 => Sys2Proof.Machine.execFan3 h t2 s
  | .fan4 h t2 t3 => Sys2Proof.Machine.execFan4 h t2 t3 s
  | .nul h => Sys2Proof.Machine.execNul h s
  | .steer h n => Sys2Proof.Machine.execSteer h n s
  | .gate h n => Sys2Proof.Machine.execGate h n s
  | .merge h => Sys2Proof.Machine.execMerge h s
  | .iter h w => Sys2Proof.Machine.execIter h w s
  | .iterx h imm => Sys2Proof.Machine.execIterx h imm s
  | .tagget h => Sys2Proof.Machine.execTagget h s
  | .tagset h => Sys2Proof.Machine.execTagset h s
  | .slotset h vs => Sys2Proof.Machine.execSlotset h vs s
  | .sticky h => Sys2Proof.Machine.execSticky h s
  | .purge h => Sys2Proof.Machine.execPurge h s
  | .stop h l => Sys2Proof.Machine.execStop h l s
  | .stopt h l => Sys2Proof.Machine.execStopt h l s
  | .add h ty => Sys2Proof.Machine.execAdd h ty s
  | .sub h ty => Sys2Proof.Machine.execSub h ty s
  | .adds h ty => Sys2Proof.Machine.execAdds h ty s
  | .subs h ty => Sys2Proof.Machine.execSubs h ty s
  | .neg h ty => Sys2Proof.Machine.execNeg h ty s
  | .abs h ty => Sys2Proof.Machine.execAbs h ty s
  | .mul h ty => Sys2Proof.Machine.execMul h ty s
  | .mulh h ty => Sys2Proof.Machine.execMulh h ty s
  | .div h ty => Sys2Proof.Machine.execDiv h ty s
  | .rem h ty => Sys2Proof.Machine.execRem h ty s
  | .min h ty => Sys2Proof.Machine.execMin h ty s
  | .max h ty => Sys2Proof.Machine.execMax h ty s
  | .lea h ty vs off => Sys2Proof.Machine.execLea h ty vs off s
  | .sel h ty => Sys2Proof.Machine.execSel h ty s
  | .sext h ty n => Sys2Proof.Machine.execSext h ty n s
  | .zext h ty n => Sys2Proof.Machine.execZext h ty n s
  | .and h ty => Sys2Proof.Machine.execAnd h ty s
  | .or h ty => Sys2Proof.Machine.execOr h ty s
  | .xor h ty => Sys2Proof.Machine.execXor h ty s
  | .andn h ty => Sys2Proof.Machine.execAndn h ty s
  | .not h ty => Sys2Proof.Machine.execNot h ty s
  | .shl h ty => Sys2Proof.Machine.execShl h ty s
  | .shr h ty => Sys2Proof.Machine.execShr h ty s
  | .sra h ty => Sys2Proof.Machine.execSra h ty s
  | .rol h ty => Sys2Proof.Machine.execRol h ty s
  | .clz h ty => Sys2Proof.Machine.execClz h ty s
  | .ctz h ty => Sys2Proof.Machine.execCtz h ty s
  | .popc h ty => Sys2Proof.Machine.execPopc h ty s
  | .bswap h ty => Sys2Proof.Machine.execBswap h ty s
  | .teq h ty => Sys2Proof.Machine.execTeq h ty s
  | .tne h ty => Sys2Proof.Machine.execTne h ty s
  | .tlt h ty => Sys2Proof.Machine.execTlt h ty s
  | .tle h ty => Sys2Proof.Machine.execTle h ty s
  | .addi h ty imm => Sys2Proof.Machine.execAddi h ty imm s
  | .andi h ty imm => Sys2Proof.Machine.execAndi h ty imm s
  | .ori h ty imm => Sys2Proof.Machine.execOri h ty imm s
  | .xori h ty imm => Sys2Proof.Machine.execXori h ty imm s
  | .shli h ty k => Sys2Proof.Machine.execShli h ty k s
  | .shri h ty k => Sys2Proof.Machine.execShri h ty k s
  | .srai h ty k => Sys2Proof.Machine.execSrai h ty k s
  | .teqi h ty imm => Sys2Proof.Machine.execTeqi h ty imm s
  | .tlti h ty imm => Sys2Proof.Machine.execTlti h ty imm s
  | .tlei h ty imm => Sys2Proof.Machine.execTlei h ty imm s
  | .movi h ty imm => Sys2Proof.Machine.execMovi h ty imm s
  | .movhi h ty imm => Sys2Proof.Machine.execMovhi h ty imm s
  | .movx h ty v => Sys2Proof.Machine.execMovx h ty v s
  | .fadd h ty r => Sys2Proof.Machine.execFadd h ty r s
  | .fsub h ty r => Sys2Proof.Machine.execFsub h ty r s
  | .fmul h ty r => Sys2Proof.Machine.execFmul h ty r s
  | .fma h ty r => Sys2Proof.Machine.execFma h ty r s
  | .fms h ty r => Sys2Proof.Machine.execFms h ty r s
  | .fnma h ty r => Sys2Proof.Machine.execFnma h ty r s
  | .fmin h ty => Sys2Proof.Machine.execFmin h ty s
  | .fmax h ty => Sys2Proof.Machine.execFmax h ty s
  | .fabs h ty => Sys2Proof.Machine.execFabs h ty s
  | .fneg h ty => Sys2Proof.Machine.execFneg h ty s
  | .fcps h ty => Sys2Proof.Machine.execFcps h ty s
  | .fdiv h ty r => Sys2Proof.Machine.execFdiv h ty r s
  | .fsqrt h ty r => Sys2Proof.Machine.execFsqrt h ty r s
  | .frcp h ty r => Sys2Proof.Machine.execFrcp h ty r s
  | .frsq h ty r => Sys2Proof.Machine.execFrsq h ty r s
  | .fexp2 h ty r => Sys2Proof.Machine.execFexp2 h ty r s
  | .tfeq h ty => Sys2Proof.Machine.execTfeq h ty s
  | .tflt h ty => Sys2Proof.Machine.execTflt h ty s
  | .tfle h ty => Sys2Proof.Machine.execTfle h ty s
  | .tfun h ty => Sys2Proof.Machine.execTfun h ty s
  | .frnd h ty r => Sys2Proof.Machine.execFrnd h ty r s
  | .cvt h dty sty r q => Sys2Proof.Machine.execCvt h dty sty r q s
  | .fsum h ty r w => Sys2Proof.Machine.execFsum h ty r w s
  | .fdot h ty r w => Sys2Proof.Machine.execFdot h ty r w s
  | .pexp h ty => Sys2Proof.Machine.execPexp h ty s
  | .pmac h ty r => Sys2Proof.Machine.execPmac h ty r s
  | .ld h ty m => Sys2Proof.Machine.execLd h ty m s
  | .ldx h ty m => Sys2Proof.Machine.execLdx h ty m s
  | .ldl h ty m => Sys2Proof.Machine.execLdl h ty m s
  | .ldt h ty m => Sys2Proof.Machine.execLdt h ty m s
  | .st h ty m => Sys2Proof.Machine.execSt h ty m s
  | .stx h ty m => Sys2Proof.Machine.execStx h ty m s
  | .stl h ty m => Sys2Proof.Machine.execStl h ty m s
  | .pref h m => Sys2Proof.Machine.execPref h m s
  | .amoadd h ty m => Sys2Proof.Machine.execAmoadd h ty m s
  | .amoand h ty m => Sys2Proof.Machine.execAmoand h ty m s
  | .amoor h ty m => Sys2Proof.Machine.execAmoor h ty m s
  | .amoxor h ty m => Sys2Proof.Machine.execAmoxor h ty m s
  | .amomin h ty m => Sys2Proof.Machine.execAmomin h ty m s
  | .amomax h ty m => Sys2Proof.Machine.execAmomax h ty m s
  | .amoswp h ty m => Sys2Proof.Machine.execAmoswp h ty m s
  | .amocas h ty m => Sys2Proof.Machine.execAmocas h ty m s
  | .amofadd h ty m => Sys2Proof.Machine.execAmofadd h ty m s
  | .fence h m => Sys2Proof.Machine.execFence h m s
  | .waita h ty m => Sys2Proof.Machine.execWaita h ty m s
  | .wake h m => Sys2Proof.Machine.execWake h m s
  | .retry h => Sys2Proof.Machine.execRetry h s
  | .sopen h port sc => Sys2Proof.Machine.execSopen h port sc s
  | .sclose h => Sys2Proof.Machine.execSclose h s
  | .spos h => Sys2Proof.Machine.execSpos h s
  | .mrg h ty d => Sys2Proof.Machine.execMrg h ty d s
  | .mrgcfg h => Sys2Proof.Machine.execMrgcfg h s
  | .crd h ty => Sys2Proof.Machine.execCrd h ty s
  | .mwld h l => Sys2Proof.Machine.execMwld h l s
  | .mwswap h => Sys2Proof.Machine.execMwswap h s
  | .mstr h => Sys2Proof.Machine.execMstr h s
  | .mrdo h => Sys2Proof.Machine.execMrdo h s
  | .mzero h => Sys2Proof.Machine.execMzero h s
  | .mcfg h => Sys2Proof.Machine.execMcfg h s
  | .kvld h ty m => Sys2Proof.Machine.execKvld h ty m s
  | .kvst h ty m => Sys2Proof.Machine.execKvst h ty m s
  | .kvapp h => Sys2Proof.Machine.execKvapp h s
  | .kvqry h => Sys2Proof.Machine.execKvqry h s
  | .smxupd h ty => Sys2Proof.Machine.execSmxupd h ty s
  | .drvdecl h => Sys2Proof.Machine.execDrvdecl h s
  | .drvdrop h => Sys2Proof.Machine.execDrvdrop h s
  | .dld h ty m => Sys2Proof.Machine.execDld h ty m s
  | .dldl h ty m => Sys2Proof.Machine.execDldl h ty m s
  | .drvsync h => Sys2Proof.Machine.execDrvsync h s
  | .drvstat h => Sys2Proof.Machine.execDrvstat h s
  | .lease h n d => Sys2Proof.Machine.execLease h n d s
  | .rplhint h x => Sys2Proof.Machine.execRplhint h x s
  | .tickrd h x => Sys2Proof.Machine.execTickrd h x s
  | .rplcnt h => Sys2Proof.Machine.execRplcnt h s
  | .read h g => Sys2Proof.Machine.execRead h g s
  | .write h g => Sys2Proof.Machine.execWrite h g s
  | .bro h off => Sys2Proof.Machine.execBro h off s
  | .bri h => Sys2Proof.Machine.execBri h s
  | .call h off => Sys2Proof.Machine.execCall h off s
  | .ret h => Sys2Proof.Machine.execRet h s
  | .halt h => Sys2Proof.Machine.execHalt h s
  | .launch h q => Sys2Proof.Machine.execLaunch h q s
  | .unitend h => Sys2Proof.Machine.execUnitend h s
  | .yield h => Sys2Proof.Machine.execYield h s
  | .grpcnt h => Sys2Proof.Machine.execGrpcnt h s
  | .grpwait h => Sys2Proof.Machine.execGrpwait h s
  | .grpcan h => Sys2Proof.Machine.execGrpcan h s
  | .barinit h => Sys2Proof.Machine.execBarinit h s
  | .baradd h => Sys2Proof.Machine.execBaradd h s
  | .bararr h => Sys2Proof.Machine.execBararr h s
  | .barwt h => Sys2Proof.Machine.execBarwt h s
  | .bartst h => Sys2Proof.Machine.execBartst h s
  | .engpost h => Sys2Proof.Machine.execEngpost h s
  | .engqry h => Sys2Proof.Machine.execEngqry h s
  | .trap h code => Sys2Proof.Machine.execTrap h code s
  | .eret h => Sys2Proof.Machine.execEret h s
  | .csrrd h n x => Sys2Proof.Machine.execCsrrd h n x s
  | .csrwr h n x => Sys2Proof.Machine.execCsrwr h n x s
  | .mark h => Sys2Proof.Machine.execMark h s
  | .brk h => Sys2Proof.Machine.execBrk h s
  | .ownqry h => Sys2Proof.Machine.execOwnqry h s
  | .cfgld h pin => Sys2Proof.Machine.execCfgld h pin s
  | .cfgswap h => Sys2Proof.Machine.execCfgswap h s
  | .cfgdrain h => Sys2Proof.Machine.execCfgdrain h s
  | .cfgpin h pin => Sys2Proof.Machine.execCfgpin h pin s
  | .cfgqry h x => Sys2Proof.Machine.execCfgqry h x s
  | .tlbinv h vs => Sys2Proof.Machine.execTlbinv h vs s
  | .tlbinva h vs => Sys2Proof.Machine.execTlbinva h vs s
  | .biasreq h => Sys2Proof.Machine.execBiasreq h s
  | .pgmig h => Sys2Proof.Machine.execPgmig h s
  | .pgqry h => Sys2Proof.Machine.execPgqry h s
  | .tokenAccept core x y => Sys2Proof.Machine.execTokenAccept core x y s
  | .spillRefill core x y => Sys2Proof.Machine.execSpillRefill core x y s
  | .slotImageFetch core x y slot => Sys2Proof.Machine.execSlotImageFetch core x y slot s
  | .coreQuiescent core c => Sys2Proof.Machine.execCoreQuiescent core c s
  | .markerArrival core n => Sys2Proof.Machine.execMarkerArrival core n s
  | .trestleGrant core c unit t => Sys2Proof.Machine.execTrestleGrant core c unit t s
  | .blockMap core t => Sys2Proof.Machine.execBlockMap core t s
  | .blockSettlement core t => Sys2Proof.Machine.execBlockSettlement core t s
  | .watchdog core t => Sys2Proof.Machine.execWatchdog core t s
  | .doorbell q v => Sys2Proof.Machine.execDoorbell q v s
  | .queueEnable q => Sys2Proof.Machine.execQueueEnable q s
  | .queueDisable q => Sys2Proof.Machine.execQueueDisable q s
  | .recordTake die => Sys2Proof.Machine.execRecordTake die s
  | .unitTakesPlace core => Sys2Proof.Machine.execUnitTakesPlace core s
  | .unitCompletion core c unit => Sys2Proof.Machine.execUnitCompletion core c unit s
  | .configLoad cluster n => Sys2Proof.Machine.execConfigLoad cluster n s
  | .drainComplete id => Sys2Proof.Machine.execDrainComplete id s
  | .drainTimeout id => Sys2Proof.Machine.execDrainTimeout id s
  | .spareRepair core x y => Sys2Proof.Machine.execSpareRepair core x y s
  | .portReport id => Sys2Proof.Machine.execPortReport id s
  | .portAccessIssue id => Sys2Proof.Machine.execPortAccessIssue id s
  | .streamElement core port sc => Sys2Proof.Machine.execStreamElement core port sc s
  | .outputStreamToken core port sc => Sys2Proof.Machine.execOutputStreamToken core port sc s
  | .mergeInput core n => Sys2Proof.Machine.execMergeInput core n s
  | .mergeNodeDecision core n => Sys2Proof.Machine.execMergeNodeDecision core n s
  | .fifoAccept core n => Sys2Proof.Machine.execFifoAccept core n s
  | .fifoEmit core m => Sys2Proof.Machine.execFifoEmit core m s
  | .formatIsland core n => Sys2Proof.Machine.execFormatIsland core n s
  | .matrixCommandFire core n => Sys2Proof.Machine.execMatrixCommandFire core n s
  | .planeLoadComplete core => Sys2Proof.Machine.execPlaneLoadComplete core s
  | .homeAccess id => Sys2Proof.Machine.execHomeAccess id s
  | .accessCompletion id => Sys2Proof.Machine.execAccessCompletion id s
  | .waitaPoll id => Sys2Proof.Machine.execWaitaPoll id s
  | .orderedAtomicArrival id => Sys2Proof.Machine.execOrderedAtomicArrival id s
  | .orderedAtomicRetry id => Sys2Proof.Machine.execOrderedAtomicRetry id s
  | .deltaApply die n => Sys2Proof.Machine.execDeltaApply die n s
  | .rescan die n => Sys2Proof.Machine.execRescan die n s
  | .flushMarker id home => Sys2Proof.Machine.execFlushMarker id home s
  | .publish die n res => Sys2Proof.Machine.execPublish die n res s
  | .buildComplete die n => Sys2Proof.Machine.execBuildComplete die n s
  | .ptsAdvance core => Sys2Proof.Machine.execPtsAdvance core s
  | .trackerDecay => Sys2Proof.Machine.execTrackerDecay s
  | .rebase => Sys2Proof.Machine.execRebase s
  | .scrubReport => Sys2Proof.Machine.execScrubReport s
  | .jobArrival die n => Sys2Proof.Machine.execJobArrival die n s
  | .jobStart die e => Sys2Proof.Machine.execJobStart die e s
  | .jobLanding die e => Sys2Proof.Machine.execJobLanding die e s
  | .ringTimeout die e => Sys2Proof.Machine.execRingTimeout die e s
  | .copyingComplete id => Sys2Proof.Machine.execCopyingComplete id s
  | .freezingComplete id => Sys2Proof.Machine.execFreezingComplete id s
  | .cutComplete c => Sys2Proof.Machine.execCutComplete c s
  | .saveImageWritten c => Sys2Proof.Machine.execSaveImageWritten c s
  | .scrub => Sys2Proof.Machine.execScrub s
  | .requestFlit port r => Sys2Proof.Machine.execRequestFlit port r s
  | .completionFlit port id v => Sys2Proof.Machine.execCompletionFlit port id v s
  | .recallFlit port m pa bytes => Sys2Proof.Machine.execRecallFlit port m pa bytes s
  | .collectiveFlit die e v => Sys2Proof.Machine.execCollectiveFlit die e v s
  | .managementFlit port msg => Sys2Proof.Machine.execManagementFlit port msg s
  | .ackFlit port seq => Sys2Proof.Machine.execAckFlit port seq s
  | .nakFlit port seq => Sys2Proof.Machine.execNakFlit port seq s
  | .abortFlit die e => Sys2Proof.Machine.execAbortFlit die e s
  | .completionTimeout id => Sys2Proof.Machine.execCompletionTimeout id s
  | .trainingComplete port lanes => Sys2Proof.Machine.execTrainingComplete port lanes s
  | .trainingTimeout port => Sys2Proof.Machine.execTrainingTimeout port s
  | .laneLoss port lane => Sys2Proof.Machine.execLaneLoss port lane s
  | .peerLoss port => Sys2Proof.Machine.execPeerLoss port s
  | .portEnable port => Sys2Proof.Machine.execPortEnable port s
  | .portDisable port => Sys2Proof.Machine.execPortDisable port s
  | .powerGood => Sys2Proof.Machine.execPowerGood s
  | .claim m => Sys2Proof.Machine.execClaim m s
  | .handover m succ => Sys2Proof.Machine.execHandover m succ s
  | .detach m => Sys2Proof.Machine.execDetach m s
  | .cut m c cls => Sys2Proof.Machine.execCut m c cls s
  | .cutCheckpoint m c cls => Sys2Proof.Machine.execCutCheckpoint m c cls s
  | .cutResume m c cls => Sys2Proof.Machine.execCutResume m c cls s
  | .flip m frame host => Sys2Proof.Machine.execFlip m frame host s
  | .post m c a => Sys2Proof.Machine.execPost m c a s
  | .stream m len => Sys2Proof.Machine.execStream m len s
  | .quote m nonce => Sys2Proof.Machine.execQuote m nonce s
  | .resetCold m => Sys2Proof.Machine.execResetCold m s
  | .resetWarm m => Sys2Proof.Machine.execResetWarm m s
  | .ownershipLapse => Sys2Proof.Machine.execOwnershipLapse s
  | .throttleStep watts tj => Sys2Proof.Machine.execThrottleStep watts tj s
  | .thermalTrip => Sys2Proof.Machine.execThermalTrip s
  | .contextCreate iss c v => Sys2Proof.Machine.execContextCreate iss c v s
  | .contextDestroy iss c => Sys2Proof.Machine.execContextDestroy iss c s
  | .tickbaseWrite iss v => Sys2Proof.Machine.execTickbaseWrite iss v s
  | .registerWrite w r v => Sys2Proof.Machine.execRegisterWrite w r v s
  | .recallTimeout id => Sys2Proof.Machine.execRecallTimeout id s
  | .peerPresent port peer => Sys2Proof.Machine.execPeerPresent port peer s
  | .badFlit port reserved => Sys2Proof.Machine.execBadFlit port reserved s
  | .resumeComplete c => Sys2Proof.Machine.execResumeComplete c s
  | .ready => Sys2Proof.Machine.execReady s
  | .duplicatedStateCompare cs => Sys2Proof.Machine.execDuplicatedStateCompare cs s

end Sys2Proof.Machine
end

