-- ==== Sys2Proof/Machine/Step.lean ====
section
/-!
DEFINITION. One step of the machine: the move at the head of the agenda, or the clock when the agenda is empty (log 1);
and a state in which the next step fires a given instruction word.
-/

namespace Sys2Proof.Machine

open Sys2Proof

/-- An event of the machine: a row of the table that has no word. -/
def isEvent (i : Instr) : Bool := (toRaw i).isNone

/-- The issue of a PE's next firing (R47): it leaves the PE's store, and its instruction executes. -/
def stepIssue (core x y : Nat) (s : State) : Host.Outcome State Fault Refusal :=
  match nextReady s ((s.core core).pe x y) with
  | none => .next s
  | some f => match instrOf s f with
    | none => .next s
    | some i => exec i (issueState (R.start s) f).s

/-- A move that the stopped cores keep from happening (R512). -/
def moveStopped (s : State) (m : Move) : Bool :=
  s.mgmt.stopped && (match m with
    | .event i => !runsStopped i
    | .tick _ => false
    | _ => true)

/-- What one move does. -/
def stepMove (m : Move) (s : State) : Host.Outcome State Fault Refusal :=
  if moveStopped s m then .next s
  else match m with
  | .event i => if isEvent i then exec i s else .next s
  | .issue core x y => stepIssue core x y s
  | .deliver core n => (deliver (R.start s) core n).done
  | .tick n => (tickAll (R.start s) n).done
  | .failPe core x y => (failPe (R.start s) core x y).done
  | .failData g => (failData (R.start s) g).done

/-- One step: the next move of the agenda, or one clk. -/
def step (s : State) : Host.Outcome State Fault Refusal :=
  match s.agenda with
  | [] => (tickAll (R.start s) 1).done
  | m :: l => stepMove m { s with agenda := l }

/-- The state in which the next step fires an instruction whose bits are `w` (log 14): the word is its low 64 bits
and the extension word the next 64, so `nbits` adds nothing. -/
def State.withFetchWord (s : State) (_nbits w : Nat) : State := placeWord s w

end Sys2Proof.Machine
end

