-- ==== Sys2Proof/Safety.lean ====
section
/-!
DEFINITION. What counts as a sound state and a safe step: every table in its canonical form and within the counts of
R5, R15 and R16; a step that neither faults nor refuses and leads to a sound state.
-/

namespace Sys2Proof.Machine

open Sys2Proof

/-- Every key of a table lies below a bound. -/
def keysBelow {α : Type} (n : Nat) (t : Tab α) : Bool := t.all fun x => decide (x.1 < n)

/-- Memory is canonical: rising addresses of the physical space, no listed zero. -/
def Memory.wf (m : Tab Byte) : Bool := tabWf 0 m && keysBelow (2 ^ 52) m

/-- A sound state. -/
structure State.Sound (s : State) : Prop where
  mem : Memory.wf s.mem = true
  cores : (tabWf Core.init s.cores && keysBelow 128 s.cores) = true
  clusters : (tabWf Cluster.init s.clusters && keysBelow 32 s.clusters) = true
  dies : (tabWf Die.init s.dies && keysBelow 4 s.dies) = true
  lines : (tabWf Line.init s.lines && keysBelow (2 ^ 45) s.lines) = true
  frames : (tabWf FrameSt.init s.frames && keysBelow (2 ^ 36) s.frames) = true
  ctxs : (tabWf Ctx.init s.ctxs && keysBelow 4096 s.ctxs) = true
  queues : (tabWf Queue.init s.queues && keysBelow 16384 s.queues) = true
  groups : (tabWf Group.init s.groups && keysBelow 32768 s.groups) = true
  links : (tabWf Link.init s.links && keysBelow 18 s.links) = true

/-- A safe step. -/
def SafeStep (s : State) : Prop := ∃ t, step s = .next t ∧ (s.Sound → t.Sound)

end Sys2Proof.Machine
end

