-- ==== Sys2Proof/WellFormed.lean ====
section
/-!
DEFINITION. Well-formed steps: an instruction whose word passes every check of R106 in some container at some level, and
an event whose operands name a part that the module has (R15, R16).
-/

namespace Sys2Proof

/-- A core, one of its PEs. -/
def coreOk (core : Nat) : Bool := decide (core < 128)
def peOk (core x y : Nat) : Bool := decide (core < 128 ∧ x < 16 ∧ y < 16)
def trestleOk (core t : Nat) : Bool := decide (core < 128 ∧ t < 16)
def strandOk (core c unit : Nat) : Bool := decide (core < 128 ∧ c < 4096 ∧ unit < 8192)
def streamOk (core port sc : Nat) : Bool := decide (core < 128 ∧ port < 16 ∧ sc < 4)
def jobOk (die e : Nat) : Bool := decide (die < 4 ∧ e < 256)
def regionOk (die n : Nat) : Bool := decide (die < 4 ∧ n < 4096)
def portOk (p : Nat) : Bool := decide (p < 18)
def hostOk (m : Nat) : Bool := decide (m < 16)
def ctxOk (c : Nat) : Bool := decide (c < 4096)

/-- An event names parts that exist; a row with a word is no event. -/
def eventOk (i : Instr) : Bool :=
  match i with
  | .tokenAccept core x y | .spillRefill core x y | .spareRepair core x y => peOk core x y
  | .slotImageFetch core x y slot => peOk core x y && decide (slot < 7)
  | .coreQuiescent core c => coreOk core && ctxOk c
  | .markerArrival core _ | .fifoAccept core _ | .mergeInput core _ | .formatIsland core _
  | .matrixCommandFire core _ | .planeLoadComplete core | .unitTakesPlace core | .ptsAdvance core => coreOk core
  | .trestleGrant core c unit t => strandOk core c unit && decide (t < 16)
  | .blockMap core t | .blockSettlement core t | .watchdog core t => trestleOk core t
  | .doorbell q _ | .queueEnable q | .queueDisable q => decide (q < 16384)
  | .recordTake die => decide (die < 4)
  | .unitCompletion core c unit => strandOk core c unit
  | .configLoad cluster _ => decide (cluster < 32)
  | .streamElement core port sc | .outputStreamToken core port sc => streamOk core port sc
  | .mergeNodeDecision core n => decide (core < 128 ∧ n < 16)
  | .fifoEmit core m => decide (core < 128 ∧ m < 32)
  | .flushMarker _ home => decide (home < 384)
  | .deltaApply die _ | .jobArrival die _ => decide (die < 4)
  | .rescan die n | .buildComplete die n => regionOk die n
  | .publish die n _ => regionOk die n
  | .jobStart die e | .jobLanding die e | .ringTimeout die e | .collectiveFlit die e _ | .abortFlit die e => jobOk die e
  | .cutComplete c | .saveImageWritten c | .resumeComplete c => ctxOk c
  | .requestFlit port _ | .completionFlit port _ _ | .managementFlit port _ | .ackFlit port _ | .nakFlit port _
  | .trainingComplete port _ | .trainingTimeout port | .peerLoss port | .portEnable port | .portDisable port
  | .badFlit port _ => portOk port
  | .recallFlit port m _ _ => portOk port && hostOk m
  | .laneLoss port lane => portOk port && decide (lane < 8)
  | .peerPresent port peer => portOk port && decide (peer < 2048)
  | .claim m | .detach m | .post m _ _ | .stream m _ | .resetCold m | .resetWarm m => hostOk m
  | .handover m succ => hostOk m && hostOk succ
  | .cut m c cls | .cutCheckpoint m c cls | .cutResume m c cls => hostOk m && ctxOk c && decide (cls < 8)
  | .flip m _ _ => hostOk m
  | .quote m nonce => hostOk m && decide (nonce.length = 32)
  | .contextCreate iss c _ => ctxOk iss && ctxOk c
  | .contextDestroy iss c => ctxOk iss && ctxOk c
  | .tickbaseWrite iss _ => ctxOk iss
  | .duplicatedStateCompare cs => cs.all ctxOk
  | i => (toRaw i).isNone

/-- A well-formed step. -/
def Instr.wellFormed (i : Instr) : Bool :=
  match toRaw i with
  | some _ => wordOk true 2 i || wordOk false 2 i
  | none => eventOk i

end Sys2Proof
end

