-- ==== Sys2Proof/Certificates/Slice0/Obligations.lean ====
section
/-!
DEFINITION. The statements for the provers. The first part is their vocabulary: when a firing acts, the exact next state of an
instruction that only sends tokens, requests and their fields. Every statement below that names the exact next state states with
it that nothing else changes.
-/

set_option linter.unusedVariables false

namespace Sys2Proof.Claim

open Sys2Proof Sys2Proof.Machine

/-! ## Firings -/

/-- The current firing stands on a core of the module, and its PE passes its residue and parity check (R477). -/
def Sane (s : State) : Prop := s.cur.core < 128 ∧ peFails s s.cur = false

/-- The predicate lets the firing operate (R45): none, or DATA at p of the truth that pm asks for. -/
def Fires (h : Hdr) (f : Firing) : Prop :=
  match h.pm with
  | .always => True
  | .onTrue => (opTok f.p).kind = .data ∧ (opTok f.p).value ≠ 0
  | .onFalse => (opTok f.p).kind = .data ∧ (opTok f.p).value = 0

/-- The operand is a DATA token. -/
def IsData (l : List Tok) : Prop := (opTok l).kind = .data

/-- The operand's value. -/
def val (l : List Tok) : Word := (opTok l).value

/-- The state once tokens of the current firing have set out: they join the tokens in flight of its core, and nothing else
changes. -/
def sent (s : State) (l : List Send) : State :=
  { s with
      cores := tabSet Core.init s.cur.core
        { s.core s.cur.core with flights := (s.core s.cur.core).flights ++ l.filterMap (flightOf s s.cur) } s.cores }

/-- A token of a kind and value to each of some targets, with the firing's tag and action consume. -/
def toAll (s : State) (l : List Target) (k : Kind) (v : Word) : List Send :=
  l.map fun t => ⟨t, k, v, s.cur.tag, .consume, false⟩

/-- To t0 and t1. -/
def both (s : State) (h : Hdr) (k : Kind) (v : Word) : List Send := toAll s [h.t0, h.t1] k v

/-- To t0 and t1 under another tag. -/
def bothTag (h : Hdr) (t : Tag) (k : Kind) (v : Word) : List Send :=
  [⟨h.t0, k, v, t, .consume, false⟩, ⟨h.t1, k, v, t, .consume, false⟩]

/-- The state once the firing's tag is noted as one that cannot be replayed (R478). -/
def retagged (s : State) : State :=
  { s with
      cores := tabSet Core.init s.cur.core
        { s.core s.cur.core with
          noReplay := if (s.core s.cur.core).noReplay.contains (s.cur.ctx, s.cur.tag) then (s.core s.cur.core).noReplay
            else (s.cur.ctx, s.cur.tag) :: (s.core s.cur.core).noReplay } s.cores }

/-! ## Lanes -/

/-- Lane i of an operand, read as its type says (R74, R75). -/
def lane (ty : Ty) (i : Nat) (l : List Tok) : Int := readInt ty (laneOf (tyWidth ty) i (val l))

/-- Its bits. -/
def bits (ty : Ty) (i : Nat) (l : List Tok) : Nat := laneOf (tyWidth ty) i (val l)

/-- The bits above the lanes of a result (R73): s32 sign-extends, any other type leaves zeros. -/
def Extended (ty : Ty) (v : Word) : Prop :=
  if ty = .s32 then v = (v.extractLsb' 0 32).signExtend 64 else v.toNat < 2 ^ (tyLanes ty * tyWidth ty)

/-- The bounds of an integer type's lanes. -/
def lo (ty : Ty) : Int := if tySigned ty then -(2 : Int) ^ (tyWidth ty - 1) else 0
def hi (ty : Ty) : Int := if tySigned ty then (2 : Int) ^ (tyWidth ty - 1) - 1 else (2 : Int) ^ tyWidth ty - 1

/-- On DATA operands the instruction sends DATA to t0 and t1 whose every lane is a function of the operands' lanes, bit by bit. -/
def BitsAB (mk : Hdr → Ty → Instr) (f : Ty → Nat → Nat → Nat) : Prop :=
  ∀ (h : Hdr) (ty : Ty) (s : State), Sane s → Fires h s.cur → IsData s.cur.a → IsData s.cur.b →
    ∃ v, exec (mk h ty) s = .next (sent s (both s h .data v)) ∧ Extended ty v ∧
      ∀ i, i < tyLanes ty → laneOf (tyWidth ty) i v = f ty (bits ty i s.cur.a) (bits ty i s.cur.b) % 2 ^ tyWidth ty

/-- The same of the integers that the lanes read as, wrapped modulo 2^w. -/
def IntAB (mk : Hdr → Ty → Instr) (f : Ty → Int → Int → Int) : Prop :=
  BitsAB mk fun ty x y => wrapInt (tyWidth ty) (f ty (readInt ty x) (readInt ty y))

/-- With one operand. -/
def BitsA (mk : Hdr → Ty → Instr) (f : Ty → Nat → Nat) : Prop :=
  ∀ (h : Hdr) (ty : Ty) (s : State), Sane s → Fires h s.cur → IsData s.cur.a →
    ∃ v, exec (mk h ty) s = .next (sent s (both s h .data v)) ∧ Extended ty v ∧
      ∀ i, i < tyLanes ty → laneOf (tyWidth ty) i v = f ty (bits ty i s.cur.a) % 2 ^ tyWidth ty

def IntA (mk : Hdr → Ty → Instr) (f : Ty → Int → Int) : Prop :=
  BitsA mk fun ty x => wrapInt (tyWidth ty) (f ty (readInt ty x))

/-- A compare (R123): 0 or 1 for a scalar type, all ones or all zeros in each lane of a packed one. -/
def Compare (mk : Hdr → Ty → Instr) (f : Int → Int → Bool) : Prop :=
  ∀ (h : Hdr) (ty : Ty) (s : State), Sane s → Fires h s.cur → IsData s.cur.a → IsData s.cur.b →
    ∃ v, exec (mk h ty) s = .next (sent s (both s h .data v)) ∧
      (tyLanes ty = 1 → v = if f (lane ty 0 s.cur.a) (lane ty 0 s.cur.b) then 1 else 0) ∧
      (1 < tyLanes ty → ∀ i, i < tyLanes ty →
        laneOf (tyWidth ty) i v = if f (lane ty i s.cur.a) (lane ty i s.cur.b) then 2 ^ tyWidth ty - 1 else 0)

/-- An immediate form (R132): lane by lane a function of a and of the immediate's lane image. -/
def ImmA (mk : Hdr → Ty → BitVec 20 → Instr) (f : Ty → Nat → Nat → Nat) : Prop :=
  ∀ (h : Hdr) (ty : Ty) (imm : BitVec 20) (s : State), Sane s → Fires h s.cur → IsData s.cur.a →
    ∃ v, exec (mk h ty imm) s = .next (sent s (both s h .data v)) ∧ Extended ty v ∧
      ∀ i, i < tyLanes ty →
        laneOf (tyWidth ty) i v = f ty (bits ty i s.cur.a) (wrapInt (tyWidth ty) imm.toInt) % 2 ^ tyWidth ty

/-- A compare with an immediate. -/
def CompareImm (mk : Hdr → Ty → BitVec 20 → Instr) (f : Int → Int → Bool) : Prop :=
  ∀ (h : Hdr) (ty : Ty) (imm : BitVec 20) (s : State), Sane s → Fires h s.cur → IsData s.cur.a →
    ∃ v, exec (mk h ty imm) s = .next (sent s (both s h .data v)) ∧
      (tyLanes ty = 1 → v = if f (lane ty 0 s.cur.a) (readInt ty (wrapInt (tyWidth ty) imm.toInt)) then 1 else 0) ∧
      (1 < tyLanes ty → ∀ i, i < tyLanes ty → laneOf (tyWidth ty) i v =
        if f (lane ty i s.cur.a) (readInt ty (wrapInt (tyWidth ty) imm.toInt)) then 2 ^ tyWidth ty - 1 else 0)

/-- A shift by an immediate amount or an extension at an immediate position. -/
def AmountA (mk : Hdr → Ty → Fin 64 → Instr) (f : Ty → Nat → Nat → Nat) : Prop :=
  ∀ (h : Hdr) (ty : Ty) (n : Fin 64) (s : State), n.val < tyWidth ty → Sane s → Fires h s.cur → IsData s.cur.a →
    ∃ v, exec (mk h ty n) s = .next (sent s (both s h .data v)) ∧ Extended ty v ∧
      ∀ i, i < tyLanes ty → laneOf (tyWidth ty) i v = f ty (bits ty i s.cur.a) n.val % 2 ^ tyWidth ty

/-! ## Bits of a lane of width w -/
def shl (w x k : Nat) : Nat := if k < w then x * 2 ^ k else 0
def shr (w x k : Nat) : Nat := if k < w then x / 2 ^ k else 0
/-- Shift right arithmetic: the sign fills, and an amount of w or more acts as w − 1 (R126). -/
def sra (w x k : Nat) : Nat := wrapInt w (sInt w x / (2 : Int) ^ min k (w - 1))
def rol (w x k : Nat) : Nat := x * 2 ^ (k % w) + x / 2 ^ (w - k % w)
/-- Bit n of the lane copied into every bit above it. -/
def sext (w x n : Nat) : Nat := wrapInt w (sInt (n + 1) (x % 2 ^ (n + 1)))

/-! ## Where an instruction is legal -/

/-- The forms of an instruction that are legal (R114), in either container and at every level, with any predicate and any targets. -/
def LegalFor (mk : Hdr → Ty → Instr) (types : Ty → Bool) : Prop :=
  ∀ (cfg : Bool) (lvl : Nat) (h : Hdr) (ty : Ty), wordOk cfg lvl (mk h ty) = types ty

/-- The types of wide lanes: 64, 32 and 16 bits (R114). -/
def wide (ty : Ty) : Bool := tyInt ty && decide (8 < tyWidth ty)

/-- The lanes that DIV and REM form (R121). -/
def divLane (ty : Ty) (x y : Int) : Int :=
  if y = 0 then (2 : Int) ^ tyWidth ty - 1 else if tySigned ty ∧ x = lo ty ∧ y = -1 then x else Int.tdiv x y
def remLane (ty : Ty) (x y : Int) : Int :=
  if y = 0 then x else if tySigned ty ∧ x = lo ty ∧ y = -1 then 0 else Int.tmod x y

end Sys2Proof.Claim

section

open Sys2Proof Sys2Proof.Machine Sys2Proof.Claim

/-- R119: ADD, SUB, NEG and ABS wrap in each lane; ADDS and SUBS clamp to the bounds of the type. DATA goes to t0 and t1, and nothing
else changes. Each may carry a predicate; every integer type is legal, for ABS every signed one. -/
def Obligations.AddFamily : Prop :=
  IntAB .add (fun _ x y => x + y) ∧ IntAB .sub (fun _ x y => x - y) ∧
  IntAB .adds (fun ty x y => min (max (x + y) (lo ty)) (hi ty)) ∧ IntAB .subs (fun ty x y => min (max (x - y) (lo ty)) (hi ty)) ∧
  IntA .neg (fun _ x => 0 - x) ∧ IntA .abs (fun _ x => if x < 0 then 0 - x else x) ∧
  LegalFor .add tyInt ∧ LegalFor .sub tyInt ∧ LegalFor .adds tyInt ∧ LegalFor .subs tyInt ∧ LegalFor .neg tyInt ∧
  LegalFor .abs tySigned

/-- R121: MUL keeps the low half of the exact product and MULH the high half. DIV rounds toward zero and REM takes the remainder of
that quotient; a divisor of zero gives all ones and the dividend, the most negative dividend by −1 itself and 0; the dividend is the
divisor times the quotient plus the remainder, modulo 2^w. -/
def Obligations.MultiplyFamily : Prop :=
  IntAB .mul (fun _ x y => x * y) ∧ IntAB .mulh (fun ty x y => x * y / (2 : Int) ^ tyWidth ty) ∧
  IntAB .div divLane ∧ IntAB .rem remLane ∧
  (∀ (ty : Ty) (x y : Int), (y * divLane ty x y + remLane ty x y) % (2 : Int) ^ tyWidth ty = x % (2 : Int) ^ tyWidth ty) ∧
  LegalFor .mul tyInt ∧ LegalFor .mulh tyInt ∧ LegalFor .div tyInt ∧ LegalFor .rem tyInt

/-- R123: MIN and MAX choose a lane by its integer. The compares write 0 or 1 for a scalar type and a mask for a packed one. -/
def Obligations.IntegerCompareFamily : Prop :=
  IntAB .min (fun _ x y => min x y) ∧ IntAB .max (fun _ x y => max x y) ∧
  Compare .teq (fun x y => decide (x = y)) ∧ Compare .tne (fun x y => decide (x ≠ y)) ∧
  Compare .tlt (fun x y => decide (x < y)) ∧ Compare .tle (fun x y => decide (x ≤ y))

/-- R126: logic, shifts and rotates act on the bits of each lane. An amount of the width or more leaves zeros, or copies of the sign
under SRA; ROL takes its amount modulo the width. -/
def Obligations.LogicFamily : Prop :=
  BitsAB .and (fun _ x y => x &&& y) ∧ BitsAB .or (fun _ x y => x ||| y) ∧ BitsAB .xor (fun _ x y => x ^^^ y) ∧
  BitsAB .andn (fun ty x y => x &&& (2 ^ tyWidth ty - 1 - y)) ∧ BitsA .not (fun ty x => 2 ^ tyWidth ty - 1 - x) ∧
  BitsAB .shl (fun ty x k => shl (tyWidth ty) x k) ∧ BitsAB .shr (fun ty x k => shr (tyWidth ty) x k) ∧
  BitsAB .sra (fun ty x k => sra (tyWidth ty) x k) ∧ BitsAB .rol (fun ty x k => rol (tyWidth ty) x k) ∧
  LegalFor .and tyInt ∧ LegalFor .or tyInt ∧ LegalFor .xor tyInt ∧ LegalFor .andn tyInt ∧ LegalFor .not tyInt ∧
  LegalFor .shl tyInt ∧ LegalFor .shr tyInt ∧ LegalFor .sra tyInt ∧ LegalFor .rol tyInt

/-- R128: SEXT and ZEXT keep bits [n:0] of each lane; BSWAP reverses the bytes of a lane, of a type whose lanes are wider than a byte;
the counts of leading zeros, trailing zeros and ones, told by what they count. -/
def Obligations.BitCountFamily : Prop :=
  AmountA .sext (fun ty x n => sext (tyWidth ty) x n) ∧ AmountA .zext (fun _ x n => x % 2 ^ (n + 1)) ∧
  BitsA .popc (fun ty x => (List.range (tyWidth ty)).countP fun i => x.testBit i) ∧
  BitsA .clz (fun ty x => tyWidth ty - (if x = 0 then 0 else Nat.log2 x + 1)) ∧
  BitsA .ctz (fun ty x => ((List.range (tyWidth ty)).find? fun i => x.testBit i).getD (tyWidth ty)) ∧
  BitsA .bswap (fun ty x => ofBytesLE (bytesLE (tyWidth ty / 8) x).reverse) ∧
  LegalFor .clz tyInt ∧ LegalFor .ctz tyInt ∧ LegalFor .popc tyInt ∧ LegalFor .bswap wide ∧
  (∀ n : Fin 64, LegalFor (fun h ty => .sext h ty n) (fun ty => tyInt ty && decide (n.val < tyWidth ty))) ∧
  (∀ n : Fin 64, LegalFor (fun h ty => .zext h ty n) (fun ty => tyInt ty && decide (n.val < tyWidth ty)))

/-- R132: an immediate form acts as its register form with the sign-extended immediate, or the amount, in every lane. R130, R135:
LEA forms an address modulo 2^64; MOVI, MOVHI and MOVX form constants. -/
def Obligations.IntegerImmediatesAndValues : Prop :=
  (ImmA .addi (fun _ x y => x + y) ∧ ImmA .andi (fun _ x y => x &&& y) ∧ ImmA .ori (fun _ x y => x ||| y) ∧
   ImmA .xori (fun _ x y => x ^^^ y) ∧
   AmountA .shli (fun ty x k => shl (tyWidth ty) x k) ∧ AmountA .shri (fun ty x k => shr (tyWidth ty) x k) ∧
   AmountA .srai (fun ty x k => sra (tyWidth ty) x k) ∧
   CompareImm .teqi (fun x y => decide (x = y)) ∧ CompareImm .tlti (fun x y => decide (x < y)) ∧
   CompareImm .tlei (fun x y => decide (x ≤ y))) ∧
  ((∀ (h : Hdr) (ty : Ty) (k : Fin 8) (off : BitVec 17) (s : State), Sane s → Fires h s.cur → IsData s.cur.a → IsData s.cur.b →
     exec (.lea h ty k off) s =
       .next (sent s (both s h .data (val s.cur.a + val s.cur.b <<< k.val + off.signExtend 64)))) ∧
   (∀ (h : Hdr) (ty : Ty) (imm : BitVec 20) (s : State), Sane s → Fires h s.cur →
     ∃ v, exec (.movi h ty imm) s = .next (sent s (both s h .data v)) ∧ Extended ty v ∧
       ∀ i, i < tyLanes ty → laneOf (tyWidth ty) i v = wrapInt (tyWidth ty) imm.toInt) ∧
   (∀ (h : Hdr) (ty : Ty) (imm : BitVec 20) (s : State), Sane s → Fires h s.cur → IsData s.cur.a →
     exec (.movhi h ty imm) s = .next (sent s (both s h .data
       (if ty = .s64 then (imm ++ (val s.cur.a).extractLsb' 0 20).signExtend 64
        else (imm ++ (val s.cur.a).extractLsb' 0 20).setWidth 64)))) ∧
   (∀ (h : Hdr) (ty : Ty) (v : Word) (s : State), Sane s → Fires h s.cur →
     exec (.movx h ty v) s = .next (sent s (both s h .data v))))

end

namespace Sys2Proof.Claim

open Sys2Proof Sys2Proof.Machine

/-- The state once the exception flags of the firing are raised (R82): into FLAGS of its context in a configuration, into the
flags of its instance in a block. -/
def flagged (s : State) (fl : FFlags) : State :=
  if fl = 0 then s
  else match s.cur.trestle with
    | none => { s with
        ctxs := tabSet Ctx.init s.cur.ctx { s.ctx s.cur.ctx with flags := (s.ctx s.cur.ctx).flags ||| fl } s.ctxs }
    | some t => match (s.core s.cur.core).trestle t with
      | .busy i => { s with
          cores := tabSet Core.init s.cur.core
            { s.core s.cur.core with
              trestles := tabSet .free t (.busy { i with flags := i.flags ||| fl }) (s.core s.cur.core).trestles } s.cores }
      | _ => s

/-- What a floating result sends (R77): DATA, or ERROR with the value of a where the exact result is undefined, and the flags it
raises. -/
def floated (s : State) (h : Hdr) (x : FRes) : State :=
  sent (flagged s x.fl) (match x.val with
    | some v => both s h .data v
    | none => both s h .error (val s.cur.a))

/-- The operand is DATA without a NaN code in a lane of the type (R139). -/
def IsNum (ty : Ty) (l : List Tok) : Prop := IsData l ∧ anyNaN ty (val l) = false

/-- A floating instruction on one, two or three numbers. -/
def FloatA (mk : Hdr → Ty → Instr) (g : Ty → Word → FRes) : Prop :=
  ∀ (h : Hdr) (ty : Ty) (s : State), Sane s → s.cur.ctx < 4096 → Fires h s.cur → IsNum ty s.cur.a →
    exec (mk h ty) s = .next (floated s h (g ty (val s.cur.a)))

def FloatAB (mk : Hdr → Ty → Instr) (g : Ty → Word → Word → FRes) : Prop :=
  ∀ (h : Hdr) (ty : Ty) (s : State), Sane s → s.cur.ctx < 4096 → Fires h s.cur → IsNum ty s.cur.a → IsNum ty s.cur.b →
    exec (mk h ty) s = .next (floated s h (g ty (val s.cur.a) (val s.cur.b)))

def FloatABP (mk : Hdr → Ty → Instr) (g : Ty → Word → Word → Word → FRes) : Prop :=
  ∀ (h : Hdr) (ty : Ty) (s : State), Sane s → s.cur.ctx < 4096 → h.pm = .always →
    IsNum ty s.cur.a → IsNum ty s.cur.b → IsNum ty s.cur.p →
    exec (mk h ty) s = .next (floated s h (g ty (val s.cur.a) (val s.cur.b) (val s.cur.p)))

/-- Lane by lane: the exact value of the lanes, rounded once to the type's format (R79, R142). -/
def roundA (r : Round) (e : FVal → EVal) (ty : Ty) (a : Word) : FRes :=
  packRes ty ((List.range (tyLanes ty)).map fun i =>
    roundTo (tyFmt ty) r.mode r.sat (e (decodeLane ty (laneOf (tyWidth ty) i a))))

def roundAB (r : Round) (e : FVal → FVal → EVal) (ty : Ty) (a b : Word) : FRes :=
  packRes ty ((List.range (tyLanes ty)).map fun i => roundTo (tyFmt ty) r.mode r.sat
    (e (decodeLane ty (laneOf (tyWidth ty) i a)) (decodeLane ty (laneOf (tyWidth ty) i b))))

def roundABP (r : Round) (e : FVal → FVal → FVal → EVal) (ty : Ty) (a b p : Word) : FRes :=
  packRes ty ((List.range (tyLanes ty)).map fun i => roundTo (tyFmt ty) r.mode r.sat
    (e (decodeLane ty (laneOf (tyWidth ty) i a)) (decodeLane ty (laneOf (tyWidth ty) i b))
      (decodeLane ty (laneOf (tyWidth ty) i p))))

/-- A floating instruction that raises no flag and works on the codes of the lanes. -/
def CodesA (mk : Hdr → Ty → Instr) (f : Ty → Nat → Nat) : Prop :=
  ∀ (h : Hdr) (ty : Ty) (s : State), Sane s → Fires h s.cur → IsNum ty s.cur.a →
    ∃ v, exec (mk h ty) s = .next (sent s (both s h .data v)) ∧ Extended ty v ∧
      ∀ i, i < tyLanes ty → laneOf (tyWidth ty) i v = f ty (bits ty i s.cur.a) % 2 ^ tyWidth ty

def CodesAB (mk : Hdr → Ty → Instr) (f : Ty → Nat → Nat → Nat) : Prop :=
  ∀ (h : Hdr) (ty : Ty) (s : State), Sane s → Fires h s.cur → IsNum ty s.cur.a → IsNum ty s.cur.b →
    ∃ v, exec (mk h ty) s = .next (sent s (both s h .data v)) ∧ Extended ty v ∧
      ∀ i, i < tyLanes ty → laneOf (tyWidth ty) i v = f ty (bits ty i s.cur.a) (bits ty i s.cur.b) % 2 ^ tyWidth ty

/-- A floating compare. -/
def FloatCompare (mk : Hdr → Ty → Instr) (f : FVal → FVal → Bool) : Prop :=
  ∀ (h : Hdr) (ty : Ty) (s : State), Sane s → Fires h s.cur → IsNum ty s.cur.a → IsNum ty s.cur.b →
    ∃ v, exec (mk h ty) s = .next (sent s (both s h .data v)) ∧
      (tyLanes ty = 1 → v = if f (decodeLane ty (bits ty 0 s.cur.a)) (decodeLane ty (bits ty 0 s.cur.b)) then 1 else 0) ∧
      (1 < tyLanes ty → ∀ i, i < tyLanes ty → laneOf (tyWidth ty) i v =
        if f (decodeLane ty (bits ty i s.cur.a)) (decodeLane ty (bits ty i s.cur.b)) then 2 ^ tyWidth ty - 1 else 0)

/-- Place of two values in the total order of R93. -/
def below (x y : FVal) : Bool := ordLt x y

/-! ## Loop windows (R55, R56) -/

/-- The window of the current firing's unit at its ITER node. -/
def window (s : State) : Win := winOf ((s.core s.cur.core).pe s.cur.x s.cur.y) s.cur.ctx s.cur.tag.slot s.cur.tag.unit

/-- The state with that window set, listed first. -/
def withWindow (s : State) (w : Win) : State :=
  { s with
    cores := tabSet Core.init s.cur.core
      { s.core s.cur.core with
        pes := tabSet Pe.init (16 * s.cur.y + s.cur.x) (setWin ((s.core s.cur.core).pe s.cur.x s.cur.y) w)
          (s.core s.cur.core).pes } s.cores }

/-- Instructions of two operands, by constructor, that R46 applies to without an exception. -/
def twoOperand : List (Hdr → Ty → Instr) :=
  [.add, .sub, .adds, .subs, .mul, .mulh, .div, .rem, .min, .max, .and, .or, .xor, .andn, .shl, .shr, .sra, .rol, .teq, .tne,
    .tlt, .tle, .crd]

/-- And of one operand. -/
def oneOperand : List (Hdr → Ty → Instr) := [.neg, .abs, .not, .clz, .ctz, .popc, .bswap]

end Sys2Proof.Claim

section

open Sys2Proof Sys2Proof.Machine Sys2Proof.Claim

/-- R63, R67: MOV, FAN3 and FAN4 send a DATA a to every target, NUL sends NULL, TAGGET sends the tag of a as a 32-bit value. R65: STEER
sends a, DATA or ERROR, to t0 when a DATA b is not zero and to t1 when it is; GATE sends it to both or to none; `.n` sends NULL to what
gets nothing. MERGE passes its one token unchanged with its own tag. Tokens leave in target order. R66: a NULL at a or b of STEER or GATE
sends NULL to both targets; an ERROR at b counts as false and makes what goes to t1 of STEER an ERROR with the value of a; GATE then sends
nothing. R67: ITERX and TAGSET give a the iteration, or the unit and iteration, of a DATA b, or the immediate; SLOTSET replaces the slot;
a keeps its kind and value. -/
def Obligations.TokenMoves : Prop :=
  ((∀ (h : Hdr) (s : State), Sane s → Fires h s.cur → IsData s.cur.a →
     exec (.mov h) s = .next (sent s (toAll s [h.t0, h.t1] .data (val s.cur.a)))) ∧
   (∀ (h : Hdr) (t2 : Target) (s : State), Sane s → Fires h s.cur → IsData s.cur.a →
     exec (.fan3 h t2) s = .next (sent s (toAll s [h.t0, h.t1, t2] .data (val s.cur.a)))) ∧
   (∀ (h : Hdr) (t2 t3 : Target) (s : State), Sane s → Fires h s.cur → IsData s.cur.a →
     exec (.fan4 h t2 t3) s = .next (sent s (toAll s [h.t0, h.t1, t2, t3] .data (val s.cur.a)))) ∧
   (∀ (h : Hdr) (s : State), Sane s → Fires h s.cur → exec (.nul h) s = .next (sent s (toAll s [h.t0, h.t1] .null 0))) ∧
   (∀ (h : Hdr) (s : State), Sane s → Fires h s.cur → IsData s.cur.a →
     exec (.tagget h) s = .next (sent s (toAll s [h.t0, h.t1] .data
       (0#32 ++ ((opTok s.cur.a).tag.slot ++ (opTok s.cur.a).tag.unit ++ (opTok s.cur.a).tag.iter)))))) ∧
  (((∀ (h : Hdr) (n : Bool) (s : State), Sane s → Fires h s.cur → ((opTok s.cur.a).kind = .data ∨ (opTok s.cur.a).kind = .error) →
      IsData s.cur.b →
      exec (.steer h n) s = .next (sent s (
        if val s.cur.b ≠ 0 then toAll s [h.t0] (opTok s.cur.a).kind (val s.cur.a) ++ (if n then toAll s [h.t1] .null 0 else [])
        else (if n then toAll s [h.t0] .null 0 else []) ++ toAll s [h.t1] (opTok s.cur.a).kind (val s.cur.a)))) ∧
    (∀ (h : Hdr) (n : Bool) (s : State), Sane s → Fires h s.cur → ((opTok s.cur.a).kind = .data ∨ (opTok s.cur.a).kind = .error) →
      IsData s.cur.b →
      exec (.gate h n) s = .next (sent s (
        if val s.cur.b ≠ 0 then both s h (opTok s.cur.a).kind (val s.cur.a) else if n then both s h .null 0 else []))) ∧
    (∀ (h : Hdr) (s : State), Sane s → h.pm = .always → ∀ t : Tok, (s.cur.a = [t] ∧ s.cur.b = [] ∨ s.cur.a = [] ∧ s.cur.b = [t]) →
      exec (.merge h) s = .next (sent s (bothTag h t.tag t.kind t.value)))) ∧
   ((∀ (h : Hdr) (n : Bool) (s : State), Sane s → Fires h s.cur →
      ((opTok s.cur.a).kind = .null ∨ (opTok s.cur.b).kind = .null) →
      exec (.steer h n) s = .next (sent s (both s h .null 0)) ∧ exec (.gate h n) s = .next (sent s (both s h .null 0))) ∧
    (∀ (h : Hdr) (s : State), Sane s → Fires h s.cur → IsData s.cur.a → (opTok s.cur.b).kind = .error →
      exec (.steer h false) s = .next (sent s (toAll s [h.t1] .error (val s.cur.a))) ∧
      exec (.gate h false) s = .next (sent s [])))) ∧
  ((∀ (h : Hdr) (k : BitVec 16) (s : State), Sane s → Fires h s.cur →
     exec (.iterx h (some k)) s =
       .next (sent (retagged s) (bothTag h { s.cur.tag with iter := k } (opTok s.cur.a).kind (val s.cur.a)))) ∧
   (∀ (h : Hdr) (s : State), Sane s → Fires h s.cur → IsData s.cur.b →
     exec (.iterx h none) s = .next (sent (retagged s)
       (bothTag h { s.cur.tag with iter := (val s.cur.b).extractLsb' 0 16 } (opTok s.cur.a).kind (val s.cur.a)))) ∧
   (∀ (h : Hdr) (s : State), Sane s → Fires h s.cur → IsData s.cur.b →
     exec (.tagset h) s = .next (sent (retagged s)
       (bothTag h ⟨s.cur.tag.slot, (val s.cur.b).extractLsb' 16 13, (val s.cur.b).extractLsb' 0 16⟩
         (opTok s.cur.a).kind (val s.cur.a)))) ∧
   (∀ (h : Hdr) (n : Fin 7) (s : State), Sane s → Fires h s.cur →
     exec (.slotset h n) s = .next (sent (retagged s)
       (bothTag h { s.cur.tag with slot := BitVec.ofNat 3 n.val } (opTok s.cur.a).kind (val s.cur.a)))))

/-- R69, R71: STICKY sends a with action sticky; PURGE sends PURGE tokens with action purge; STOP sends a stop of its level with the value
of a; STOPT sends a stop of the level or higher to t1 and everything else to t0. R56: an ITER whose window, taken from the entering
iteration when it is empty, has room issues the next iteration with a's kind and value and moves top to it; with the window full the token
is held. A retirement of an iteration from base to top sets its bit; of base itself, it moves base past it, and past top the window is
empty. (A token held at either port is left out here.) -/
def Obligations.TokenActionsAndWindow : Prop :=
  ((∀ (h : Hdr) (s : State), Sane s → Fires h s.cur → ((opTok s.cur.a).kind = .data ∨ (opTok s.cur.a).kind = .error) →
     exec (.sticky h) s = .next (sent s
       [⟨h.t0, (opTok s.cur.a).kind, val s.cur.a, s.cur.tag, .sticky, false⟩,
        ⟨h.t1, (opTok s.cur.a).kind, val s.cur.a, s.cur.tag, .sticky, false⟩])) ∧
   (∀ (h : Hdr) (s : State), Sane s → Fires h s.cur → (opTok s.cur.a).kind ≠ .null →
     exec (.purge h) s = .next (sent s
       [⟨h.t0, .purge, 0, s.cur.tag, .purge, false⟩, ⟨h.t1, .purge, 0, s.cur.tag, .purge, false⟩])) ∧
   (∀ (h : Hdr) (l : Fin 4) (s : State), Sane s → Fires h s.cur → (opTok s.cur.a).kind ≠ .null →
     exec (.stop h l) s = .next (sent s (both s h (.stop l) (val s.cur.a)))) ∧
   (∀ (h : Hdr) (l k : Fin 4) (s : State), Sane s → Fires h s.cur → (opTok s.cur.a).kind = .stop k →
     exec (.stopt h l) s = .next (sent s (toAll s [if l ≤ k then h.t1 else h.t0] (.stop k) (val s.cur.a)))) ∧
   (∀ (h : Hdr) (l : Fin 4) (s : State), Sane s → Fires h s.cur → (∀ k, (opTok s.cur.a).kind ≠ .stop k) →
     exec (.stopt h l) s = .next (sent s (toAll s [h.t0] (opTok s.cur.a).kind (val s.cur.a))))) ∧
  (∀ (h : Hdr) (size : Fin 1024) (s : State) (t : Tok), Sane s → (window s).held = none → (window s).heldB = none →
     ((s.cur.a = [t] ∧ s.cur.b = [] ∧ s.cur.p = []) →
       let w := window s
       let base := if w.empty then t.tag.iter else w.base
       let top := if w.empty then t.tag.iter else w.top
       let n := t.tag.iter + 1
       ((n - base).toNat < size.val + 1 →
         exec (.iter h size) s = .next (sent
           (withWindow (retagged s) { w with base := base, top := n, empty := false }) (bothTag h { t.tag with iter := n } t.kind t.value))) ∧
       (size.val + 1 ≤ (n - base).toNat → (n - base).toNat < 32768 →
         exec (.iter h size) s = .next (withWindow (retagged s) { w with base := base, top := top, held := some t }))) ∧
     ((s.cur.a = [] ∧ s.cur.b = [t]) → (window s).empty = false →
       (t.tag.iter - (window s).base).toNat ≤ ((window s).top - (window s).base).toNat →
       (window s).retired.contains (window s).base = false →
       let w := window s
       (t.tag.iter ≠ w.base → w.retired.contains t.tag.iter = false →
         exec (.iter h size) s = .next (withWindow (retagged s) { w with retired := t.tag.iter :: w.retired })) ∧
       (t.tag.iter = w.base → w.base = w.top →
         exec (.iter h size) s = .next (withWindow (retagged s)
           { w with retired := w.retired.filter (· ≠ w.base), base := w.base + 1, empty := true })) ∧
       (t.tag.iter = w.base → w.base ≠ w.top → w.retired.contains (w.base + 1) = false →
         exec (.iter h size) s = .next (withWindow (retagged s)
           { w with retired := w.retired.filter (· ≠ w.base), base := w.base + 1 }))))

/-- R45: a predicate of the other truth consumes the operands and emits nothing; NULL at p sends NULL and a stop at p that stop, to each
target; an ERROR at p under `?t` emits nothing, and under `?f` every token of the firing is ERROR with the value of p. R46: a NULL operand
makes both tokens NULL, before all else; then a stop makes them the stop of the highest level, with the value of the first stop; then an
ERROR makes them ERROR with the value of the first one. -/
def Obligations.OperandRules : Prop :=
  (∀ (h : Hdr) (ty : Ty) (s : State), Sane s → ∀ mk ∈ twoOperand, h.pm ≠ .always →
     ((opTok s.cur.p).kind = .data → ((opTok s.cur.p).value = 0 ↔ h.pm = .onTrue) → exec (mk h ty) s = .next (sent s [])) ∧
     ((opTok s.cur.p).kind = .null → exec (mk h ty) s = .next (sent s (both s h .null 0))) ∧
     (∀ l, (opTok s.cur.p).kind = .stop l → exec (mk h ty) s = .next (sent s (both s h (.stop l) (val s.cur.p)))) ∧
     ((opTok s.cur.p).kind = .error → h.pm = .onTrue → exec (mk h ty) s = .next (sent s [])) ∧
     ((opTok s.cur.p).kind = .error → h.pm = .onFalse → IsData s.cur.a → IsData s.cur.b →
       exec (mk h ty) s = .next (sent s (both s h .error (val s.cur.p))))) ∧
  ((∀ (h : Hdr) (ty : Ty) (s : State), Sane s → Fires h s.cur → ∀ mk ∈ twoOperand,
     ((opTok s.cur.a).kind = .null ∨ (opTok s.cur.b).kind = .null → exec (mk h ty) s = .next (sent s (both s h .null 0))) ∧
     (∀ k l, (opTok s.cur.a).kind = .stop k → (opTok s.cur.b).kind = .stop l →
       exec (mk h ty) s = .next (sent s (both s h (.stop (max k l)) (val s.cur.a)))) ∧
     (∀ k, (opTok s.cur.a).kind = .stop k → ((opTok s.cur.b).kind = .data ∨ (opTok s.cur.b).kind = .error) →
       exec (mk h ty) s = .next (sent s (both s h (.stop k) (val s.cur.a)))) ∧
     (∀ k, ((opTok s.cur.a).kind = .data ∨ (opTok s.cur.a).kind = .error) → (opTok s.cur.b).kind = .stop k →
       exec (mk h ty) s = .next (sent s (both s h (.stop k) (val s.cur.b)))) ∧
     ((opTok s.cur.a).kind = .error → ((opTok s.cur.b).kind = .data ∨ (opTok s.cur.b).kind = .error) →
       exec (mk h ty) s = .next (sent s (both s h .error (val s.cur.a)))) ∧
     (IsData s.cur.a → (opTok s.cur.b).kind = .error → exec (mk h ty) s = .next (sent s (both s h .error (val s.cur.b))))) ∧
   (∀ (h : Hdr) (ty : Ty) (s : State), Sane s → Fires h s.cur → ∀ mk ∈ oneOperand,
     ((opTok s.cur.a).kind = .null → exec (mk h ty) s = .next (sent s (both s h .null 0))) ∧
     (∀ l, (opTok s.cur.a).kind = .stop l → exec (mk h ty) s = .next (sent s (both s h (.stop l) (val s.cur.a)))) ∧
     ((opTok s.cur.a).kind = .error → exec (mk h ty) s = .next (sent s (both s h .error (val s.cur.a))))))

/-- R142, R149: a floating arithmetic instruction forms the exact result of each lane and rounds it once; the flags of all lanes are
raised; an undefined lane makes the token ERROR with the value of a. R144, R146: FMIN and FMAX choose a lane by the total order, FABS,
FNEG and FCPS act on the sign bit alone, the compares write 0 or 1 or a mask; none raises a flag. -/
def Obligations.FloatElements : Prop :=
  (∀ r : Round,
     FloatAB (fun h ty => .fadd h ty r) (roundAB r addVal) ∧
     FloatAB (fun h ty => .fsub h ty r) (roundAB r fun x y => addVal x y.negate) ∧
     FloatAB (fun h ty => .fmul h ty r) (roundAB r fun x y => match mulVal x y with | some z => z.exact | none => .undef) ∧
     FloatAB (fun h ty => .fdiv h ty r) (roundAB r divVal) ∧
     FloatA (fun h ty => .fsqrt h ty r) (roundA r sqrtVal) ∧
     FloatA (fun h ty => .frcp h ty r) (roundA r (divVal (.fin false 1 0))) ∧
     FloatA (fun h ty => .frsq h ty r) (roundA r rsqrtVal) ∧
     FloatABP (fun h ty => .fma h ty r) (roundABP r mulAddVal) ∧
     FloatABP (fun h ty => .fms h ty r) (roundABP r fun x y z => mulAddVal x y z.negate) ∧
     FloatABP (fun h ty => .fnma h ty r) (roundABP r fun x y z => mulAddVal x.negate y z)) ∧
  (CodesAB .fmin (fun ty x y => if below (decodeLane ty y) (decodeLane ty x) then y else x) ∧
   CodesAB .fmax (fun ty x y => if below (decodeLane ty x) (decodeLane ty y) then y else x) ∧
   CodesA .fabs (fun ty x => x % 2 ^ (tyWidth ty - 1)) ∧
   CodesA .fneg (fun ty x => x ^^^ 2 ^ (tyWidth ty - 1)) ∧
   CodesAB .fcps (fun ty x y => x % 2 ^ (tyWidth ty - 1) + y / 2 ^ (tyWidth ty - 1) * 2 ^ (tyWidth ty - 1)) ∧
   FloatCompare .tfeq valEq ∧ FloatCompare .tflt (fun x y => below x y && !valEq x y) ∧
   FloatCompare .tfle (fun x y => below x y || valEq x y) ∧
   (∀ (h : Hdr) (ty : Ty) (s : State), Sane s → Fires h s.cur → IsNum ty s.cur.a → IsNum ty s.cur.b →
     exec (.tfun h ty) s = .next (sent s (both s h .data 0))))

/-- R151, R153, R154, R159, R161, R162: FEXP2, FRND, CVT without E2M1, FSUM, FDOT, PEXP and PMAC send the value that their rule's
procedure forms, with its flags. R79: the magnitude m · 2^e is rounded to a multiple of 2^q, with q above e: toward zero, down or up by
the sign, or to the nearest multiple, a tie going to the even one under rne and away from zero under rna. It is inexact exactly when it is
no multiple. Rounding to P4 below 2^-62 (log 16) and the lanes read for NaN (log 22) are the model's readings. -/
def Obligations.RoundingAndProcedures : Prop :=
  ((∀ r : Round,
     FloatA (fun h ty => .fexp2 h ty r) (fun ty a => vFexp2 ty r a) ∧
     FloatA (fun h ty => .frnd h ty r) (fun ty a => vFrnd ty r a) ∧
     (∀ w, FloatA (fun h ty => .fsum h ty r w) (fun ty a => vFsum ty r w a)) ∧
     (∀ w, FloatAB (fun h ty => .fdot h ty r w) (fun ty a b => vFdot ty r w a b)) ∧
     (∀ (h : Hdr) (ty : Ty) (s : State), Sane s → s.cur.ctx < 4096 → h.pm = .always → IsData s.cur.a →
       nanWeights ty (val s.cur.a) = false → IsNum ty s.cur.b → IsNum ty s.cur.p →
       exec (.pmac h ty r) s = .next (floated s h (vPmac ty r (val s.cur.a) (val s.cur.b) (val s.cur.p)))) ∧
     (∀ (h : Hdr) (dty sty : Ty) (q : Fin 8) (s : State), Sane s → s.cur.ctx < 4096 → Fires h s.cur → IsNum sty s.cur.a →
       sty ≠ .e2m1x16 → dty ≠ .e2m1x16 →
       exec (.cvt h dty sty r q) s = .next (floated s h (vCvt dty sty r q.val (val s.cur.a))))) ∧
   (∀ (h : Hdr) (ty : Ty) (s : State), Sane s → s.cur.ctx < 4096 → Fires h s.cur → IsNum ty s.cur.a → IsNum .f32 s.cur.b →
     exec (.pexp h ty) s = .next (floated s h (vPexp ty (val s.cur.a) (val s.cur.b))))) ∧
  (∀ (mode : RMode) (neg : Bool) (m : Nat) (e : Int) (k : Nat), 0 < k →
     let r := (roundAt mode neg m e false (e + k)).1
     ((roundAt mode neg m e false (e + k)).2 = true ↔ m % 2 ^ k ≠ 0) ∧
     (mode = .rtz → r * 2 ^ k ≤ m ∧ m < (r + 1) * 2 ^ k) ∧
     (mode = .rdn → if neg then m ≤ r * 2 ^ k ∧ r * 2 ^ k < m + 2 ^ k else r * 2 ^ k ≤ m ∧ m < (r + 1) * 2 ^ k) ∧
     (mode = .rup → if neg then r * 2 ^ k ≤ m ∧ m < (r + 1) * 2 ^ k else m ≤ r * 2 ^ k ∧ r * 2 ^ k < m + 2 ^ k) ∧
     (mode = .rne → 2 * (r * 2 ^ k) ≤ 2 * m + 2 ^ k ∧ 2 * m ≤ 2 * (r * 2 ^ k) + 2 ^ k ∧
       ((2 * (r * 2 ^ k) = 2 * m + 2 ^ k ∨ 2 * m = 2 * (r * 2 ^ k) + 2 ^ k) → r % 2 = 0)) ∧
     (mode = .rna → 2 * (r * 2 ^ k) ≤ 2 * m + 2 ^ k ∧ 2 * m < 2 * (r * 2 ^ k) + 2 ^ k))

end

namespace Sys2Proof.Claim

open Sys2Proof Sys2Proof.Machine

/-! ## Parts of the state replaced -/

def withCore (s : State) (c : Nat) (f : Core → Core) : State := { s with cores := tabSet Core.init c (f (s.core c)) s.cores }
def withCluster (s : State) (c : Nat) (f : Cluster → Cluster) : State :=
  { s with clusters := tabSet Cluster.init c (f (s.cluster c)) s.clusters }
def withDie (s : State) (d : Nat) (f : Die → Die) : State := { s with dies := tabSet Die.init d (f (s.die d)) s.dies }
def withLine (s : State) (n : Nat) (f : Line → Line) : State := { s with lines := tabSet Line.init n (f (s.line n)) s.lines }
def withFrame (s : State) (n : Nat) (f : FrameSt → FrameSt) : State :=
  { s with frames := tabSet FrameSt.init n (f (s.frame n)) s.frames }
def withCtx (s : State) (c : Nat) (f : Ctx → Ctx) : State := { s with ctxs := tabSet Ctx.init c (f (s.ctx c)) s.ctxs }
def withQueue (s : State) (q : Nat) (f : Queue → Queue) : State :=
  { s with queues := tabSet Queue.init q (f (s.queue q)) s.queues }
def withGroup (s : State) (g : Nat) (f : Group → Group) : State :=
  { s with groups := tabSet Group.init g (f (s.group g)) s.groups }
def withLink (s : State) (p : Nat) (f : Link → Link) : State := { s with links := tabSet Link.init p (f (s.link p)) s.links }
def withMgmt (s : State) (f : Mgmt → Mgmt) : State := { s with mgmt := f s.mgmt }
def withReq (s : State) (id : Nat) (f : Req → Req) : State :=
  { s with reqs := s.reqs.map fun q => if q.id = id then f q else q }

def withPe (s : State) (c x y : Nat) (f : Pe → Pe) : State :=
  withCore s c fun k => { k with pes := tabSet Pe.init (16 * y + x) (f (k.pe x y)) k.pes }
def withTrestle (s : State) (c t : Nat) (f : Trestle → Trestle) : State :=
  withCore s c fun k => { k with trestles := tabSet .free t (f (k.trestle t)) k.trestles }
def withMatrix (s : State) (c : Nat) (f : MTile → MTile) : State := withCore s c fun k => { k with matrix := f k.matrix }
def withJob (s : State) (d e : Nat) (f : Job → Job) : State :=
  withDie s d fun k => { k with jobs := tabSet Job.init e (f (k.job e)) k.jobs }
def withRegion (s : State) (d n : Nat) (f : Region → Region) : State :=
  withDie s d fun k => { k with regions := tabSet Region.init n (f (k.region n)) k.regions }

/-- The state in which a PE's next firing executes: it leaves the ready list with the tokens it consumes, and it is current. -/
def issued (s : State) (f : Firing) : State :=
  { withCore (withPe s f.core f.x f.y fun p => Pe.reopen
      { p with ready := p.ready.filter (· ≠ f), store := p.store.filter fun e => !consumedBy f e,
               spill := p.spill.filter fun e => !consumedBy f e })
      f.core (fun k => { k with quiet := k.quiet.filter (· ≠ f.ctx) }) with
    cur := f }


end Sys2Proof.Claim

section

open Sys2Proof Sys2Proof.Machine Sys2Proof.Claim

/-! ## Decoding, and the machine's steps -/

/-- Words that the spec works out decode to the instructions they stand for, and its worked illegal word is refused. -/
def Obligations.WorkedWords : Prop :=
  let one (k : Slot) (n : Fin 128) : Hdr := ⟨.always, some ⟨k, n⟩, none⟩
  let two (k : Slot) (n : Fin 128) (l : Slot) (m : Fin 128) : Hdr := ⟨.always, some ⟨k, n⟩, some ⟨l, m⟩⟩
  decode false 0 0x160811B0A0000000 0 = .ok (.mul (two .b 10 .a 13) .s32) ∧
  decode false 0 0x11081188B0000000 0 = .ok (.sub (two .a 11 .a 12) .s32) ∧
  decode false 0 0x30080008400FFFFD 0 = .ok (.addi (one .a 4) .s32 (-3)) ∧
  decode false 0 0x1C0400089007FFF8 0 = .ok (.lea (one .a 9) .z64 3 (-8)) ∧
  decode false 0 0x02003198BC780000 0x190 = .ok (.fan4 (two .p 11 .p 12) (some ⟨.p, 15⟩) (some ⟨.p, 16⟩)) ∧
  decode false 0 0x5532000860800002 0 = .ok (.cvt (one .a 6) .e4m3x8 .f32 ⟨.rne, true⟩ 2) ∧
  decode false 0 0xC000000830000001 0 = .ok (.read (one .a 3) 1) ∧
  decode false 0 0xC280000000000006 0 = .ok (.bro ⟨.onFalse, none, none⟩ 6) ∧
  decode false 0 0xB204400840E00000 0 = .ok (.dld (one .a 4) .z64 ⟨false, false, .acq, 1, 6, 0⟩) ∧
  decode false 0 0x6408800000600000 0 = .ok (.st ⟨.always, none, none⟩ .s32 ⟨false, false, .rel, 0, 6, 0⟩) ∧
  decode true 0 0x830450E860000000 0 = .ok (.mrg (two .a 6 .a 7) .z64 true) ∧
  decode true 0 0xD000000840000005 0 = .ok (.launch (one .a 4) 5) ∧
  decode true 1 0xED00000840000006 0 = .ok (.tlbinv (one .a 4) 6) ∧
  decode false 2 0xF0C0000000000000 0 = .error .illegalOp

/-- The decoder reads back every operand of the word that the encoder writes, in each container and at each level
that accept the instruction. -/
def Obligations.DecodeOfEncode : Prop :=
  ∀ (cfg : Bool) (lvl : Nat) (i : Instr) (w e : Nat), encode i = some (w, e) → wordOk cfg lvl i = true →
    w < 2 ^ 64 ∧ e < 2 ^ 64 ∧ decode cfg lvl w e = .ok i

/-- An accepted word has no bit that its instruction does not tell: encoding what was decoded gives the word again, with its
extension word if it has one. -/
def Obligations.EncodeOfDecode : Prop :=
  ∀ (cfg : Bool) (lvl w e : Nat) (i : Instr), w < 2 ^ 64 → e < 2 ^ 64 → decode cfg lvl w e = .ok i →
    encode i = some (w, if isExtended (w / 2 ^ 56 % 2 ^ 8) then e else 0)

/-- A step whose move is a PE's issue executes the instruction that the word at the place of the PE's next firing decodes to, on the
state in which that firing has left its PE and is current. -/
def Obligations.StepRunsDecoded : Prop :=
  ∀ (s : State) (core x y : Nat) (l : List Move) (f : Firing) (i : Instr),
    s.agenda = .issue core x y :: l → s.mgmt.stopped = false → nextReady s ((s.core core).pe x y) = some f → f.core < 128 →
    decode f.trestle.isNone 2 ((wordsAt s f).getD f.idx 0) ((wordsAt s f).getD (f.idx + 1) 0) = .ok i →
    step s = exec i (issued { s with agenda := l } f)

/-- A step whose move is an event is that event; an issue at a PE with nothing ready changes nothing; with stopped cores only the clock
and what needs no core goes on (R512). With an empty agenda the clock counts one clk; where no queue, trestle or migration waits for it,
nothing else changes. R41, R42: a token in flight enters the input buffer of its PE's operand port when no earlier token of its route and
target is under way and that port holds fewer than four; else it stays where it is. The agenda (log 1), the buffer of each operand slot
and its four places (log 6), and what goes on with stopped cores (log 38) are the model's choices. -/
def Obligations.StepRunsEventsAndMoves : Prop :=
  (((∀ (s : State) (i : Instr) (l : List Move), s.agenda = .event i :: l → toRaw i = none →
      (s.mgmt.stopped = false ∨ runsStopped i = true) → step s = exec i { s with agenda := l }) ∧
    (∀ (s : State) (core x y : Nat) (l : List Move), s.agenda = .issue core x y :: l →
      nextReady s ((s.core core).pe x y) = none → step s = .next { s with agenda := l }) ∧
    (∀ (s : State) (core x y : Nat) (l : List Move), s.agenda = .issue core x y :: l → s.mgmt.stopped = true →
      step s = .next { s with agenda := l })) ∧
   (∀ s : State, s.agenda = [] → s.queues = [] → s.cores = [] → s.frames = [] → step s = .next { s with clk := s.clk + 1 })) ∧
  (∀ (s : State) (core n x y : Nat) (l : List Move) (t : Flight), core < 128 → s.agenda = .deliver core n :: l →
     s.mgmt.stopped = false →
     (s.core core).flights[n]? = some t → t.dest = .pe x y → t.tok.kind ≠ .marker → repairHolds (s.core core) t = false →
     ((s.core core).pe x y).marked.contains t.ctx = false →
     (routeFirst (s.core core) n t = true → (((s.core core).pe x y).bufs.filter fun b => b.tok.slot = t.tok.slot).length < 4 →
       step s = .next (withPe (withCore { s with agenda := l } core fun k =>
         { k with flights := k.flights.eraseIdx n, quiet := k.quiet.filter (· ≠ t.ctx) }) core x y fun p =>
           { p with bufs := p.bufs ++ [⟨t.tok, t.ctx, false⟩] })) ∧
     ((routeFirst (s.core core) n t = false ∨ 4 ≤ (((s.core core).pe x y).bufs.filter fun b => b.tok.slot = t.tok.slot).length) →
       step s = .next { s with agenda := l }))

/-! ## Every step -/

/-- Every table of a sound state keeps its canonical form and its bounds through every step: memory lists no byte twice, none out of
the address space and no zero (R5, R15, R16). -/
def Obligations.StepKeepsSound : Prop := ∀ s t : State, s.Sound → step s = .next t → t.Sound

/-- The state after reset is sound. -/
def Obligations.ResetSound : Prop := State.reset.Sound

/-- No instruction and no event stops the machine, turns its clock back or changes the agenda, and no request number is given
twice. -/
def Obligations.EveryInstructionAnswers : Prop :=
  ∀ (i : Instr) (s : State), ∃ t, exec i s = .next t ∧ t.agenda = s.agenda ∧ s.clk ≤ t.clk ∧ s.nextId ≤ t.nextId

/-- R505: after a cold reset memory reads zero, context 0 alone exists, at monitor level, every queue is Disabled and every port Down, no
unit, request or group is live, the ticks are zero and READY is clear. Where the spec names no value, none or zero is the model's choice
(log 2). -/
def Obligations.ResetValues : Prop :=
  (∀ a, State.reset.byte a = 0) ∧ (∀ c, c ≠ 0 → (State.reset.ctx c).st = .absent ∧ (State.reset.ctx c).valid = false) ∧
  (State.reset.ctx 0).st = .idle ∧ (State.reset.ctx 0).priv = .monitor ∧ (State.reset.ctx 0).valid = true ∧
  (∀ q, (State.reset.queue q).st = .disabled) ∧ (∀ p, (State.reset.link p).st = .down) ∧
  (∀ g, (State.reset.group g).used = false) ∧ State.reset.works = [] ∧ State.reset.reqs = [] ∧
  (∀ c, (State.reset.core c).pts = 0 ∧ (State.reset.core c).strands = [] ∧ (State.reset.core c).bindings = []) ∧
  State.reset.mgmt.tf = 0 ∧ State.reset.mgmt.m = 0 ∧ State.reset.mgmt.ready = false ∧ State.reset.mgmt.owned = false

end

namespace Sys2Proof.Claim

open Sys2Proof Sys2Proof.Machine

/-! ## Requests -/

/-- Tokens of a firing that is not current join its core's tokens in flight. -/
def sentBy (s : State) (f : Firing) (l : List Send) : State :=
  withCore s f.core fun k => { k with flights := k.flights ++ l.filterMap (flightOf s f) }

/-- The two tokens of a firing; under `?f` with ERROR at p both are ERROR with the value of p, but for a NULL or a stop (R45). -/
def tokens (h : Hdr) (f : Firing) (k0 : Kind) (v0 : Word) (k1 : Kind) (v1 : Word) (carry : Bool) : List Send :=
  let l : List Send := [⟨h.t0, k0, v0, f.tag, .consume, carry⟩, ⟨h.t1, k1, v1, f.tag, .consume, carry⟩]
  if h.pm = .onFalse ∧ (opTok f.p).kind = .error then
    l.map fun x => if x.kind = .data ∨ x.kind = .error then { x with kind := .error, value := (opTok f.p).value } else x
  else l

/-- Requests without one number. -/
def without (s : State) (id : Nat) : State := { s with reqs := s.reqs.filter (·.id ≠ id) }

/-- What an LSID of the firing's instance notes changes; a configuration has none. -/
def onLsid (s : State) (k : Nat) (g : LState → LState) : State :=
  match s.cur.trestle with
  | none => s
  | some t => match (s.core s.cur.core).trestle t with
    | .busy i => withTrestle s s.cur.core t fun _ =>
        .busy { i with lsids := tabSet LState.init k (g (tabGet LState.init k i.lsids)) i.lsids }
    | _ => s

/-- An instruction of the LSID has fired. -/
def fired (s : State) (k : Nat) : State := onLsid s k fun l => { l with fired := true }

/-- Nothing stands before the firing's access: no operand is poisoned or carries a completion, and no request of its source is held
by a fault (R175). -/
def Calm (s : State) (src : ReqSrc) : Prop :=
  s.cur.carry = false ∧ s.cur.poison = false ∧
    ∀ q ∈ s.reqs, q.firing.core = s.cur.core → q.src = src → (src = .walker → q.firing.ctx = s.cur.ctx) → q.id < s.nextId → q.stage ≠ .held

/-- The TLBs once they have taken the translation of an address, and the translation. -/
def walked (s : State) (va : Nat) : State := (Machine.translate (R.start s) s.cur.core s.cur.ctx va).1.s
def found (s : State) (va : Nat) : WalkRes := (Machine.translate (R.start s) s.cur.core s.cur.ctx va).2

/-- An access of some size at an address passes every check of R173, at a physical address, through a leaf; `bias` says that it must
not meet host bias (R364). -/
def Passes (s : State) (k : Acc3) (bias : Bool) (ea size pa : Nat) (leaf : Word) : Prop :=
  ea < 2 ^ 48 ∧ ea % size = 0 ∧ permOk s s.cur.ctx k leaf = true ∧
    ∃ p level entry, found s ea = .ok p leaf level entry ∧ pa = localPa s p ∧
      (bias = true → (s.frame (pa / 2 ^ 16)).hostBias = true → isRemote s p = true)

/-- The request of a memory instruction that has passed its checks and waits for its order. -/
def request (s : State) (i : Instr) (src : ReqSrc) (op : AccOp) (ty : Ty) (m : Mem) (va pa : Nat) (leaf : Word) : Req :=
  { Req.new s.nextId i s.cur src op with
      va := va, pa := pa, size := accSize ty, ty := ty, scope := m.scope.val, acq := decide (m.order = .acq),
      rel := decide (m.order = .rel), ordd := m.ord, lsid := m.lsid.val, own := ownOf s s.cur, translated := true, leaf := leaf }

/-- The state in which a request stands under the next number. -/
def standing (s : State) (q : Req) : State :=
  { s with reqs := (s.reqs ++ [q]).map fun x => if x.id = s.nextId then q else x, nextId := s.nextId + 1 }

/-- The state in which a request's access is held to the commit of its block, and counted (R170, R206). -/
def heldBack (s : State) (q : Req) (t : Nat) : State :=
  { withTrestle s s.cur.core t (fun x => match x with
      | .busy i => .busy { i with
          held := i.held ++ [q]
          lsids := tabSet LState.init q.lsid
            { tabGet LState.init q.lsid i.lsids with counted := (tabGet LState.init q.lsid i.lsids).counted ++ [s.cur.idx] } i.lsids }
      | x => x) with
    reqs := s.reqs.filter (·.id ≠ s.nextId), nextId := s.nextId + 1 }

/-- A numbered instruction of a configuration that performs no access reports to the port chains in its place (R286). -/
def skipped (s : State) (own : Nat) (i : Instr) : State :=
  if own = 0 then s
  else { s with reqs := s.reqs ++ [{ Req.new s.nextId i s.cur (reqSrcOf s.cur) .report with own := own }], nextId := s.nextId + 1 }

/-- The firing belongs to a mapped instance, or to a configuration. -/
def Placed (s : State) : Prop := ∀ t, s.cur.trestle = some t → ∃ i, (s.core s.cur.core).trestle t = .busy i

/-- What a memory instruction that passes its checks becomes: a request of its source, or an access held to the commit of its block. -/
def Requests (i : Instr) (m : Mem) (ty : Ty) (op : AccOp) (ea : Word) (k : Acc3) (bias : Bool) (held : Bool) (s : State) : Prop :=
  Calm s (reqSrcOf s.cur) → Placed s →
    let u := fired s m.lsid.val
    ∀ pa leaf, Passes u k bias ea.toNat (accSize ty) pa leaf →
      let q := request s i (reqSrcOf s.cur) op ty m ea.toNat pa leaf
      exec i s = .next (match s.cur.trestle with
        | some t => if held then heldBack (walked u ea.toNat) q t else standing (walked u ea.toNat) q
        | none => standing (walked u ea.toNat) q)

/-- The atomics but AMOCAS with their numbers. -/
def atomics : List ((Hdr → Ty → Mem → Instr) × Nat) :=
  [(.amoadd, 0), (.amoand, 1), (.amoor, 2), (.amoxor, 3), (.amomin, 4), (.amomax, 5), (.amoswp, 6), (.amofadd, 8)]

end Sys2Proof.Claim

section

open Sys2Proof Sys2Proof.Machine Sys2Proof.Claim

/-! ## Memory -/

/-- R165, R167, R173, R176, R182, R194: a load, prefetch, WAITA or WAKE that passes its checks becomes a request for its address,
translated, with its order and scope. R170, R179: a store that passes its checks becomes a request, or in a block is held to the commit
and counted; it stores the low bytes of its data, and an ERROR datum the error image of its type. -/
def Obligations.LoadsAndStoresRequest : Prop :=
  (∀ (h : Hdr) (ty : Ty) (m : Mem) (s : State), Sane s → Fires h s.cur → IsData s.cur.a →
     Requests (.ld h ty m) m ty .load (val s.cur.a + m.off.signExtend 64) .rd false false s ∧
     Requests (.ldt h ty m) m ty .loadTracked (val s.cur.a + m.off.signExtend 64) .rd false false s ∧
     (IsData s.cur.b → Requests (.ldx h ty m) m ty .load
       (val s.cur.a + val s.cur.b * BitVec.ofNat 64 (accSize ty) + m.off.signExtend 64) .rd false false s) ∧
     Requests (.pref h m) m .z8x8 (.prefetch m.scope.val)
       (BitVec.ofNat 64 ((val s.cur.a + m.off.signExtend 64).toNat / 8 * 8)) .rd false false s ∧
     (IsData s.cur.b → Requests (.waita h ty m) m ty (.waita (val s.cur.b)) (val s.cur.a + m.off.signExtend 64) .rd true false s) ∧
     Requests (.wake h m) m .z64 .wake (val s.cur.a + m.off.signExtend 64) .rd true false s) ∧
  (∀ (h : Hdr) (ty : Ty) (m : Mem) (s : State), Sane s → Fires h s.cur → IsData s.cur.a →
     ((IsData s.cur.b ∨ (opTok s.cur.b).kind = .error) →
       Requests (.st h ty m) m ty (.store (storeBytes ty (opTok s.cur.b))) (val s.cur.a + m.off.signExtend 64) .wr false true s) ∧
     (h.pm = .always → IsData s.cur.b → (IsData s.cur.p ∨ (opTok s.cur.p).kind = .error) →
       Requests (.stx h ty m) m ty (.store (storeBytes ty (opTok s.cur.p)))
         (val s.cur.a + val s.cur.b * BitVec.ofNat 64 (accSize ty) + m.off.signExtend 64) .wr false true s) ∧
     (IsData s.cur.b → storeBytes ty (opTok s.cur.b) = bytesLE (accSize ty) ((val s.cur.b).toNat % 2 ^ (8 * accSize ty))))

end

namespace Sys2Proof.Claim

open Sys2Proof Sys2Proof.Machine

/-- The memory instructions whose operands decide before any access. -/
def memOps : List (Hdr → Ty → Mem → Instr) :=
  [.ld, .ldx, .ldl, .ldt, .st, .stx, .stl, .kvld, .kvst, .waita, .amoadd, .amoand, .amoor, .amoxor, .amomin, .amomax, .amoswp, .amocas,
    .amofadd]

/-- The request of a number in a state is performed with a kind and values for t0 and t1. -/
def Performed (s : State) (id : Nat) (k : Kind) (v v2 : Word) (carry : Bool) : Prop :=
  ∃ q ∈ s.reqs, q.id = id ∧ q.stage = .performed ∧ q.rk = k ∧ q.rv = v ∧ q.rv2 = v2 ∧ q.carry = carry

/-- Memory after l has been written at pa, and nothing else. -/
def Wrote (s t : State) (pa : Nat) (l : List Byte) : Prop :=
  ∀ a, t.byte a = if pa ≤ a ∧ a < pa + l.length then l.getD (a - pa) 0 else s.byte a

/-- A request that its home can perform now: issued, of this module's memory, and nothing makes it wait (R354, R365, R404, R412). -/
def AtHome (s : State) (id : Nat) (q : Req) : Prop :=
  getReq s id = some q ∧ q.stage = .issued ∧ isLocal q.instr = false ∧ homeGate s q = .go ∧ q.firing.core < 128 ∧
    q.pa + q.size ≤ 2 ^ 52 ∧ badBytes s q.pa q.size = false

/-- No copy of a line stands in the core's L1 or its die's replicas. -/
def Uncopied (s : State) (q : Req) : Prop :=
  findCopy (s.core q.firing.core).l1 (q.pa / 128) = none ∧
    findCopy (s.die (dieOfCore q.firing.core)).replicas (q.pa / 128) = none

end Sys2Proof.Claim

section

open Sys2Proof Sys2Proof.Machine Sys2Proof.Claim

/-- R177, R198: a load performed at its home answers the bytes of memory at its physical address, read as its type says, and memory is
unchanged. (With no copy of the line in its core or die; a copy may answer an older value, R399.) R179, R198, R400: a store performed at
its home writes its bytes at its physical address and no other byte, and its token carries the completion and the address. R183, R198: an
atomic that is not ordered reads its old value and writes the new one at its home, in one step, and no other byte; in host bias its final
fault stops it (R364). -/
def Obligations.HomeAccesses : Prop :=
  (∀ (s : State) (id : Nat) (q : Req), AtHome s id q → (q.op = .load ∨ q.op = .loadTracked) → Uncopied s q → q.firing.trestle = none →
     q.pa % 128 + q.size ≤ 128 →
     ∃ t, exec (.homeAccess id) s = .next t ∧ (∀ a, t.byte a = s.byte a) ∧
       Performed t id (readValue q.ty (s.bytes q.pa q.size)).1 (readValue q.ty (s.bytes q.pa q.size)).2
         (readValue q.ty (s.bytes q.pa q.size)).2 false) ∧
  (∀ (s : State) (id : Nat) (q : Req) (l : List Byte), AtHome s id q → q.op = .store l → q.size = l.length →
     (leafT q.leaf = true ∨ (s.ctx q.firing.ctx).tmen = false) →
     ∃ t, exec (.homeAccess id) s = .next t ∧ Wrote s t q.pa l ∧
       Performed t id .data (BitVec.ofNat 64 q.va) (BitVec.ofNat 64 q.va) true) ∧
  (∀ (s : State) (id : Nat) (q : Req) (op : Nat) (b p : Word), AtHome s id q → q.op = .atomic op b p → q.ordd = false →
     q.firing.trestle = none → (leafT q.leaf = true ∨ (s.ctx q.firing.ctx).tmen = false) → (s.frame (q.pa / 2 ^ 16)).hostBias = false →
     q.size = accSize q.ty →
     ∃ t, exec (.homeAccess id) s = .next t ∧
       Wrote s t q.pa (bytesLE q.size (atomicNew op q.ty (s.nat q.pa q.size) b p).1) ∧
       Performed t id (readValue q.ty (s.bytes q.pa q.size)).1 (readValue q.ty (s.bytes q.pa q.size)).2
         (readValue q.ty (s.bytes q.pa q.size)).2 true)

/-- R206, R286: a memory instruction whose predicate is false notes it in its LSID and accesses nothing; one with NULL at a sends NULL to
its targets and nulls its LSID. In a configuration a numbered one still reports to its port. R166: a local load or store at an address
within a buffer tile of its context, aligned to its size, becomes a request or a held access for that tile, without a translation. R166: a
local access reads or writes its bytes in its buffer tile; memory is untouched. -/
def Obligations.LocalAndAbsentAccesses : Prop :=
  (∀ (h : Hdr) (ty : Ty) (m : Mem) (s : State), Sane s → s.cur.carry = false → ∀ mk ∈ memOps,
     (h.pm ≠ .always → (opTok s.cur.p).kind = .data → ((opTok s.cur.p).value = 0 ↔ h.pm = .onTrue) →
       exec (mk h ty m) s = .next (skipped (onLsid s m.lsid.val fun l => { l with dropped := s.cur.idx :: l.dropped })
         (ownOf s s.cur) (mk h ty m))) ∧
     (Fires h s.cur → (opTok s.cur.a).kind = .null →
       exec (mk h ty m) s = .next (skipped (onLsid (sent s (both s h .null 0)) m.lsid.val fun l => { l with fired := true, nulled := true })
         (ownOf s s.cur) (mk h ty m)))) ∧
  ((∀ (h : Hdr) (ty : Ty) (m : Mem) (s : State), Sane s → Fires h s.cur → IsData s.cur.a → Calm s (reqSrcOf s.cur) → Placed s →
      let ea := (val s.cur.a + m.off.signExtend 64).toNat
      let u := fired s m.lsid.val
      let t := (s.core s.cur.core).tile (ea / 2 ^ 16)
      ea + accSize ty ≤ 2 ^ 21 → t.role = 1 → t.owner.map Prod.fst = some s.cur.ctx → ea % accSize ty = 0 →
      exec (.ldl h ty m) s = .next (standing u (request s (.ldl h ty m) (reqSrcOf s.cur) .load ty m ea ea 0)) ∧
      (IsData s.cur.b →
        let q := request s (.stl h ty m) (reqSrcOf s.cur) (.store (storeBytes ty (opTok s.cur.b))) ty m ea ea 0
        exec (.stl h ty m) s = .next (match s.cur.trestle with | some t => heldBack u q t | none => standing u q))) ∧
   (∀ (s : State) (id : Nat) (q : Req), getReq s id = some q → q.stage = .issued → isLocal q.instr = true → q.firing.core < 128 →
      q.firing.trestle = none →
      (q.op = .load → exec (.homeAccess id) s = .next (withReq s id fun x =>
        let y := readValue q.ty (tileBytes s q.firing.core q.pa q.size)
        { x with stage := .performed, rk := y.1, rv := y.2, rv2 := y.2, carry := false })) ∧
      (∀ l, q.op = .store l → q.pa % 2 ^ 16 + l.length ≤ 2 ^ 16 →
        ∃ t, exec (.homeAccess id) s = .next t ∧ t.mem = s.mem ∧ Performed t id .data (BitVec.ofNat 64 q.va) (BitVec.ofNat 64 q.va) true ∧
          ∀ a, tabGet 0 a ((t.core q.firing.core).tile (q.pa / 2 ^ 16)).bytes =
            if q.pa % 2 ^ 16 ≤ a ∧ a < q.pa % 2 ^ 16 + l.length then l.getD (a - q.pa % 2 ^ 16) 0
            else tabGet 0 a ((s.core q.firing.core).tile (q.pa / 2 ^ 16)).bytes)))

/-- R171, R286: an access of a configuration whose turn has come is issued to its home; one whose turn has not come, or that stands behind
a held request of its source, waits. R175, R180, R184: a performed request emits its tokens to t0 and t1 and ends; nothing else changes.
R286: the report of a numbered access enters the chain of its unit, whose oldest unresolved iteration moves past those that are complete;
without a chain it counts at once; 64 or more iterations ahead it waits. That a held request holds back those behind it is the model's
reading (log 25). -/
def Obligations.AccessesAndReports : Prop :=
  ((∀ (s : State) (id : Nat) (q : Req) (h : Hdr) (ty : Ty) (m : Mem), getReq s id = some q → q.stage = .blocked → q.translated = true →
      q.firing.trestle = none → ctxMoves s q.firing.ctx = true → (q.op = .load ∨ (∃ l, q.op = .store l) ∨ (∃ n b p, q.op = .atomic n b p)) →
      (heldAhead s q = false → (if q.own = 0 then plainOk s q else chainOk s q) = true →
        exec (.portAccessIssue id) s = .next (withReq s id fun x => { x with stage := .issued })) ∧
      ((heldAhead s q = true ∨ (if q.own = 0 then plainOk s q else chainOk s q) = false) → exec (.portAccessIssue id) s = .next s)) ∧
   (∀ (s : State) (id : Nat) (q : Req), getReq s id = some q → q.stage = .performed → q.firing.core < 128 →
      exec (.accessCompletion id) s = .next (sentBy (without s id) q.firing
        (tokens (hdrOfInstr q.instr) q.firing q.rk q.rv q.rk q.rv2 q.carry)))) ∧
  (∀ (s : State) (id : Nat) (q : Req), getReq s id = some q → q.own ≠ 0 → q.reported = false → ctxMoves s q.firing.ctx = true →
     q.firing.core < 128 → q.op ≠ .report →
     (chainOf (s.core q.firing.core) q.firing.ctx q.firing.tag.unit = none →
       exec (.portReport id) s = .next (withReq s id fun x => { x with reported := true })) ∧
     (∀ c, chainOf (s.core q.firing.core) q.firing.ctx q.firing.tag.unit = some c →
       c.reps.contains (q.firing.tag.iter.toNat, q.own) = false →
       ((q.firing.tag.iter - c.oldest).toNat < 64 →
         exec (.portReport id) s = .next (withReq (withCore s q.firing.core fun k => { k with
           chains := k.chains.map fun c => if c.ctx = q.firing.ctx ∧ c.unit = q.firing.tag.unit then
             advanceChain (chainLength k c) 65 { c with reps := (q.firing.tag.iter.toNat, q.own) :: c.reps } else c })
           id fun x => { x with reported := true })) ∧
       (64 ≤ (q.firing.tag.iter - c.oldest).toNat → (q.firing.tag.iter - c.oldest).toNat < 2 ^ 15 →
         exec (.portReport id) s = .next s)))

/-- R189, R190: a FENCE at scope 0 answers at once; at any other scope it becomes a request that orders the accesses before it, after it,
or both. R194: a waiter without a table entry reads its word again after 512 clk; while the word differs it waits another 512. R186, R187:
an ordered atomic that arrives ahead of the number its lane expects is buffered, or with no room refused, and tries again after its
backoff. R196: RETRY of a handle that names a held request reissues it from its translation and answers 1; of any other handle it answers
0. -/
def Obligations.FencesAndRetries : Prop :=
  (∀ (h : Hdr) (m : Mem) (s : State), Sane s → Fires h s.cur → IsData s.cur.a → s.cur.carry = false → Placed s →
     (m.scope = 0 → exec (.fence h m) s =
       .next (skipped (fired (sent s (both s h .data 0)) m.lsid.val) (ownOf s s.cur) (.fence h m))) ∧
     (m.scope ≠ 0 → exec (.fence h m) s = .next { fired s m.lsid.val with
       reqs := s.reqs ++ [{ Req.new s.nextId (.fence h m) s.cur (reqSrcOf s.cur) (.fence (decide (m.order ≠ .acq)) (decide (m.order ≠ .rel))) with
         scope := m.scope.val, acq := decide (m.order ≠ .rel), rel := decide (m.order ≠ .acq), lsid := m.lsid.val,
         own := ownOf s s.cur, translated := true, rk := .data, rv := 0 }]
       nextId := s.nextId + 1 })) ∧
  ((∀ (s : State) (id : Nat) (q : Req) (b : Word), getReq s id = some q → q.stage = .polling → q.op = .waita b → q.aux = 0 → q.acq = false →
      (q.since + 512 ≤ s.clk → s.nat q.pa q.size ≠ b.toNat % 2 ^ (8 * q.size) →
        exec (.waitaPoll id) s = .next (withReq s id fun x => { x with since := s.clk })) ∧
      (q.since + 512 ≤ s.clk → s.nat q.pa q.size = b.toNat % 2 ^ (8 * q.size) →
        ∃ t, exec (.waitaPoll id) s = .next t ∧ t.mem = s.mem ∧
          ∃ p ∈ t.reqs, p.id = id ∧ p.stage = .performed ∧ p.rk = .data ∧ p.rv = (readValue q.ty (s.bytes q.pa q.size)).2) ∧
      (s.clk < q.since + 512 → exec (.waitaPoll id) s = .next s)) ∧
   (∀ (s : State) (id : Nat) (q : Req), getReq s id = some q → inLane q = true → homeGate s q = .go → biasRefused s q = false →
      let l := findLane (s.homeSlice q.pa).lanes q.firing.ctx (q.pa / 8)
      q.firing.tag.iter ≠ l.n → aheadOf l.n q.firing.tag.iter = true → mayBuffer (s.homeSlice q.pa) l q.firing.tag.iter = false →
      let t := withReq s id fun x =>
        { x with stage := .laneRefused, since := s.clk, aux := if x.aux = 0 then 16 else min 1024 (2 * x.aux) }
      (q.stage = .issued → exec (.orderedAtomicArrival id) s = .next t) ∧
      (q.stage = .laneRefused → q.since + q.aux ≤ s.clk → exec (.orderedAtomicRetry id) s = .next t) ∧
      (q.stage = .laneRefused → s.clk < q.since + q.aux → exec (.orderedAtomicRetry id) s = .next s)) ∧
   (∀ (h : Hdr) (s : State), Sane s → Fires h s.cur → IsData s.cur.a → s.cur.carry = false →
      let v := (val s.cur.a).toNat
      ((v / 2 ^ 28 ≠ 0 ∨ v % 8 ≠ 0) → exec (.retry h) s = .next (sent s (both s h .data 0))) ∧
      (v / 2 ^ 28 = 0 → v % 8 = 0 → governs s s.cur.ctx (v / 2 ^ 16) = true → heldOf s v = none →
        exec (.retry h) s = .next (sent s (both s h .data 0))) ∧
      (∀ q k ty m, ∀ mk ∈ memOps, v / 2 ^ 28 = 0 → v % 8 = 0 → governs s s.cur.ctx (v / 2 ^ 16) = true → ctxMoves s (v / 2 ^ 16) = true →
        heldOf s v = some q → q.instr = mk k ty m →
        exec (.retry h) s = .next (sent (withReq s q.id fun x => { x with stage := .blocked, translated := false }) (both s h .data 1)))))

end

namespace Sys2Proof.Claim

open Sys2Proof Sys2Proof.Machine

/-! ## Blocks -/

/-- The current firing is an instruction of the instance i, which trestle t of its core runs. -/
def InBlock (s : State) (t : Nat) (i : Inst) : Prop := s.cur.trestle = some t ∧ (s.core s.cur.core).trestle t = .busy i

/-- The firing's operands are neither poisoned nor carry a completion. -/
def Plain (s : State) : Prop := s.cur.carry = false ∧ s.cur.poison = false

/-- A register as a block reads it (R216): register 0 is 0, an absent one is ERROR, an erroneous one ERROR with its value. -/
def registerOf (fr : Frame) (g : Nat) : Kind × Word :=
  if g = 0 then (.data, 0)
  else if fr.pres.getLsbD g = false then (.error, 0)
  else (if fr.err.getLsbD g then .error else .data, tabGet 0 g fr.regs)

/-- Exits with one operand at a, or none: the instruction, what it chooses, and the values of a that it takes. -/
def exits (h : Hdr) (off : BitVec 28) (a : Word) : List (Instr × ExitKind × Prop) :=
  [(.bri h, .bri a, a.toNat < 2 ^ 48 ∧ a.toNat % 16 = 0), (.call h off, .call off a, a.toNat < 2 ^ 48 ∧ a.toNat % 64 = 0),
    (.ret h, .ret a, True)]

/-- Instructions that act at the commit of their block with an operand at a, and those that take b as well. -/
def actsOne (h : Hdr) (q : Fin 16384) (sc : Fin 8) (n : BitVec 12) (x : Bool) : List Instr :=
  [.launch h q, .unitend h, .yield h, .engpost h, .tlbinva h sc, .csrwr h n x]
def actsTwo (h : Hdr) (sc : Fin 8) : List Instr :=
  [.tlbinv h sc, .biasreq h, .pgmig h, .eret h, .mark h, .barinit h, .baradd h, .bararr h]

/-- A block's taken exit, as the block pointer that its strand goes on at. -/
def nextBlock (i : Inst) : ExitKind → Option Word
  | .bro off => some (BitVec.ofNat 64 i.hdr + off.signExtend 64 * 16)
  | .bri a => some a
  | _ => none

end Sys2Proof.Claim

section

open Sys2Proof Sys2Proof.Machine Sys2Proof.Claim

/-! ## Blocks -/

/-- R216: READ sends its register as it stood when the block was mapped; WRITE is counted with its kind and value, and with NULL nulls its
register. Nothing else changes. R206, R218: an exit that fires is noted with its operand, one with NULL at a is nulled, and one whose
predicate is false does nothing. -/
def Obligations.RegistersAndExitsOfABlock : Prop :=
  (∀ (h : Hdr) (g : Fin 64) (s : State) (t : Nat) (i : Inst), Sane s → Fires h s.cur → Plain s → InBlock s t i →
     (∀ x, strandOf (s.core s.cur.core) s.cur.ctx s.cur.tag.unit = some x →
       exec (.read h g) s = .next (sent s (both s h (registerOf x.frame g.val).1 (registerOf x.frame g.val).2))) ∧
     ((IsData s.cur.a ∨ (opTok s.cur.a).kind = .error) →
       exec (.write h g) s = .next (withTrestle s s.cur.core t fun _ => .busy { i with
         wregs := tabSet WState.init g.val { tabGet WState.init g.val i.wregs with
           counted := (tabGet WState.init g.val i.wregs).counted ++ [(s.cur.idx, (opTok s.cur.a).kind, val s.cur.a)] } i.wregs })) ∧
     ((opTok s.cur.a).kind = .null →
       exec (.write h g) s = .next (withTrestle s s.cur.core t fun _ => .busy { i with
         wregs := tabSet WState.init g.val { tabGet WState.init g.val i.wregs with nulled := true } i.wregs }))) ∧
  (∀ (h : Hdr) (off : BitVec 28) (s : State) (t : Nat) (i : Inst), Sane s → Plain s → InBlock s t i →
     let taken (k : ExitKind) : State := withTrestle s s.cur.core t fun _ => .busy { i with exits := i.exits ++ [(s.cur.idx, k)] }
     (Fires h s.cur → exec (.bro h off) s = .next (taken (.bro off)) ∧ exec (.halt h) s = .next (taken .halt)) ∧
     (∀ e ∈ exits h off (val s.cur.a), Fires h s.cur →
       (IsData s.cur.a → e.2.2 → exec e.1 s = .next (taken e.2.1)) ∧
       ((opTok s.cur.a).kind = .null →
         exec e.1 s = .next (withTrestle s s.cur.core t fun _ => .busy { i with nulledExits := i.nulledExits + 1 }))) ∧
     (h.pm ≠ .always → (opTok s.cur.p).kind = .data → ((opTok s.cur.p).value = 0 ↔ h.pm = .onTrue) →
       ∀ x ∈ [.bro h off, .bri h, .call h off, .ret h, .halt h], exec x s = .next s))

/-- R243, R327, R369, R481: in a block these instructions do nothing but wait, with their operands, for the commit. -/
def Obligations.ActsWaitForCommit : Prop :=
  ∀ (h : Hdr) (q : Fin 16384) (sc : Fin 8) (n : BitVec 12) (x : Bool) (s : State) (t : Nat) (i : Inst),
    Sane s → Fires h s.cur → s.cur.carry = false → InBlock s t i → IsData s.cur.a →
    let waits (e : Instr) : State := withTrestle s s.cur.core t fun _ => .busy { i with acts := i.acts ++ [⟨s.cur.idx, e, s.cur⟩] }
    (∀ e ∈ actsOne h q sc n x, exec e s = .next (waits e)) ∧
    (IsData s.cur.b → ∀ e ∈ actsTwo h sc, exec e s = .next (waits e))

/-- R203, R202, R204: a free trestle goes to the strand whose turn it is; a block that a trestle kept, still equal to its image in memory,
is mapped again without a fetch. R209, R210: an instance that reaches its context's limit unsettled is discarded: its trestle is free,
none of its tokens is in flight, and its strand is Trapped at the same block. R208, R219: a settled block that stored nothing and whose
exit is BRO or BRI commits: its registers and flags, its step, and its strand at the next block, ready behind the others; the trestle is
free, and memory and requests are as they were. That a strand is ready behind the others is the model's reading (log 26). -/
def Obligations.BlocksBeginAndEnd : Prop :=
  ((∀ (s : State) (core t : Nat) (x : Strand), core < 128 → strandOf (s.core core) x.ctx x.unit = some x →
      (t < 16 → (readyStrands s core).contains x = true → grantTurn s core x = true → x.kept = none → (s.core core).trestle t = .free →
        exec (.trestleGrant core x.ctx x.unit.toNat t) s = .next (withCore s core fun k =>
          { k with trestles := tabSet .free t (.fetching x.ctx x.unit) k.trestles
                   strands := k.strands.map fun z => if z.ctx = x.ctx ∧ z.unit = x.unit then { z with st := .fetching } else z })) ∧
      (∀ i, frontHeld s core t = false → (s.core core).trestle t = .busy i → i.mapped = false → i.ctx = x.ctx → i.unit = x.unit →
        x.st = .fetching → ctxMoves s x.ctx = true → keptSame s i = true →
        ∃ u, exec (.blockMap core t) s = .next u ∧ u.mem = s.mem ∧
          (u.core core).trestle t = .busy (newInst i.ctx i.unit i.hdr i.h0 i.h1 i.words i.imgPa false) ∧
          (u.core core).strands = (s.core core).strands.map fun z =>
            if z.ctx = x.ctx ∧ z.unit = x.unit then { z with st := .running, kept := none } else z)) ∧
   (∀ (s : State) (core t : Nat) (i : Inst) (x : Strand), core < 128 → (s.core core).trestle t = .busy i → i.mapped = true →
      ctxMoves s i.ctx = true → (s.ctx i.ctx).wdog.toNat ≤ i.count → (settled s core t i && commitDue i) = false →
      strandOf (s.core core) i.ctx i.unit = some x →
      ∃ u, exec (.watchdog core t) s = .next u ∧ (u.core core).trestle t = .free ∧
        strandOf (u.core core) i.ctx i.unit = some { x with st := .trapped, rerun := 0 } ∧
        (∀ f ∈ (u.core core).flights, isBlockTok i.ctx i.unit f.ctx f.tok.tag = false))) ∧
  (∀ (s : State) (core t : Nat) (i : Inst) (x : Strand) (e : Nat × ExitKind) (bp : Word), core < 128 → i.ctx < 2 ^ 12 →
     (s.core core).trestle t = .busy i → ctxMoves s i.ctx = true → settled s core t i = true → commitDue i = true →
     strandOf (s.core core) i.ctx i.unit = some x → i.held = [] → i.acts = [] → i.exits = [e] → nextBlock i e.2 = some bp →
     i.trapAfter = false → (i.h0.testBit 48 = true → bp.toNat ≠ i.hdr) →
     (s.reqs.any fun q => decide (q.firing.core = core ∧ q.src = .front t)) = false →
     ∃ u, exec (.blockSettlement core t) s = .next u ∧ u.mem = s.mem ∧ u.reqs = s.reqs ∧ (u.core core).trestle t = .free ∧
       u.ctx i.ctx = { s.ctx i.ctx with flags := (s.ctx i.ctx).flags ||| i.flags } ∧
       (u.core core).strands = (s.core core).strands.filter (fun z => ¬(z.ctx = i.ctx ∧ z.unit = i.unit)) ++
         [{ x with frame := commitFrame i x.frame, steps := x.steps + 1, rerun := 0, bp := bp, st := .ready, kept := none }])

end

namespace Sys2Proof.Claim

open Sys2Proof Sys2Proof.Machine

/-! ## Instructions that act at their firing -/

/-- The current firing executes: no failed check at its PE, its predicate lets it, and no operand carries a completion. -/
def Runs (h : Hdr) (s : State) : Prop := Sane s ∧ Fires h s.cur ∧ s.cur.carry = false

/-- No request of a source that a fault holds stands before the current firing's (R175, R385). -/
def Unheld (s : State) (src : ReqSrc) : Prop :=
  ∀ q ∈ s.reqs, q.firing.core = s.cur.core → q.src = src → (src = .walker → q.firing.ctx = s.cur.ctx) → q.id < s.nextId → q.stage ≠ .held

/-- The state once an instruction that used a request number has sent its tokens. -/
def answered (s : State) (l : List Send) : State :=
  { sent s l with reqs := s.reqs.filter (·.id ≠ s.nextId), nextId := s.nextId + 1 }

/-- The state in which an instruction waits as a request of its source. -/
def waits (s : State) (i : Instr) (src : ReqSrc) : State :=
  { s with reqs := s.reqs ++ [Req.new s.nextId i s.cur src .ctl], nextId := s.nextId + 1 }

/-- The tokens of the current firing have joined those in flight at its core. -/
def SentTo (s t : State) (l : List Send) : Prop :=
  (t.core s.cur.core).flights = (s.core s.cur.core).flights ++ l.filterMap (flightOf s s.cur)

/-- 1 for true. -/
def bit (b : Bool) : Nat := if b then 1 else 0

/-- The registers of a context as a core reads them (R461 to R464). -/
def registers (s : State) (core c : Nat) : List (Nat × Nat) :=
  let x := s.ctx c
  [(0x000, x.flags.toNat), (0x001, c + privCode x.priv * 2 ^ 12 + core * 2 ^ 14),
    (0x002, x.gov.toNat * 2 ^ 52 + privCode x.priv * 2 ^ 50 + bit x.valid * 2 ^ 49 + bit x.det * 2 ^ 48 + x.lease.toNat * 2 ^ 40 +
      bit x.tmen * 2 ^ 39 + bit x.brk * 2 ^ 38), (0x003, x.wdog.toNat), (0x010, x.ptroot.toNat), (0x011, x.kvBase.toNat),
    (0x012, x.kvCnt.toNat), (0x013, x.ovfBase.toNat), (0x014, x.ovfCnt.toNat), (0x018, x.frBase.toNat), (0x019, x.frSize.toNat),
    (0x01A, x.saveBase.toNat), (0x030, x.qsel.toNat), (0x021, s.mgmt.rplctl.toNat)]

/-- What writing v does to a register of a context: the values it takes, and the change (R461, R463). -/
def registerWrites (v : Nat) : List (Nat × Bool × (Ctx → Ctx)) :=
  [(0x000, true, fun x => { x with flags := x.flags &&& ~~~BitVec.ofNat 5 v }),
    (0x003, decide (v < 2 ^ 32), fun x => { x with wdog := BitVec.ofNat 32 (max 256 v) }),
    (0x010, decide (v < 2 ^ 52 ∧ v % 2 ^ 11 = 0), fun x => { x with ptroot := BitVec.ofNat 52 v }),
    (0x011, decide (v % 64 = 0), fun x => { x with kvBase := BitVec.ofNat 64 v }),
    (0x012, decide (v ≤ 2 ^ 20), fun x => { x with kvCnt := BitVec.ofNat 21 v }),
    (0x013, decide (v % 4096 = 0), fun x => { x with ovfBase := BitVec.ofNat 64 v }),
    (0x014, decide (v < 2 ^ 16), fun x => { x with ovfCnt := BitVec.ofNat 16 v }),
    (0x018, decide (v < 2 ^ 52 ∧ v % 64 = 0), fun x => { x with frBase := BitVec.ofNat 52 v }),
    (0x019, decide (4 ≤ v ∧ v ≤ 16), fun x => { x with frSize := BitVec.ofNat 5 v }),
    (0x01A, decide (v < 2 ^ 52 ∧ v % 4096 = 0), fun x => { x with saveBase := BitVec.ofNat 52 v }),
    (0x030, decide (v < 2 ^ 14), fun x => { x with qsel := BitVec.ofNat 14 v })]

/-- A fault record's 64 bytes (R466): cause, flags, context, core, source, index, tag, number, handle 0, and its words. -/
def record (s : State) (f : Firing) (cause source : Nat) (w : List Nat) : List Byte :=
  let idx := if f.tag.slot = 7 then f.idx else f.tag.slot.toNat * 32 + f.idx
  let tag := f.tag.slot.toNat * 2 ^ 29 + f.tag.unit.toNat * 2 ^ 16 + f.tag.iter.toNat
  bytesLE 1 cause ++ bytesLE 1 (bit f.poison * 4) ++ bytesLE 2 (f.ctx % 2 ^ 12) ++ bytesLE 1 f.core ++ bytesLE 1 source ++
    bytesLE 2 idx ++ bytesLE 4 tag ++ bytesLE 4 (s.ctx f.ctx).seq.toNat ++ bytesLE 8 0 ++
    (List.range 5).flatMap fun i => bytesLE 8 (w.getD i 0)

end Sys2Proof.Claim

section

open Sys2Proof Sys2Proof.Machine Sys2Proof.Claim

/-! ## Status and registers -/

/-- R416, R300, R245, R328, R372, R451: what TICKRD, SPOS, GRPCNT, ENGQRY, PGQRY and DRVSTAT tell, to both targets; nothing
else changes. -/
def Obligations.StatusReads : Prop :=
  ∀ (h : Hdr) (s : State), Runs h s → IsData s.cur.a →
    let v := (val s.cur.a).toNat
    let out (n : Nat) : List Send := both s h .data (BitVec.ofNat 64 n)
    let tf := s.mgmt.tf
    let m := s.mgmt
    exec (.tickrd h 0) s = .next (sent s (out (tf % 2 ^ 16 * 2 ^ 16 + max (s.core s.cur.core).pts tf % 2 ^ 16))) ∧
    exec (.tickrd h 3) s = .next (sent s (out (tf % 2 ^ 16 * 2 ^ 16 + m.m % 2 ^ 16))) ∧
    (∀ p sc t, namedStream s s.cur (val s.cur.a) = some (p, sc, t) →
      exec (.spos h) s = .next (sent s (out (bit (t.st = .closed) * 2 ^ 63 + bit (t.st = .held) * 2 ^ 62 + bit t.overrun * 2 ^ 61 +
        bit t.error * 2 ^ 60 + t.done % 2 ^ 32)))) ∧
    (v / 2 ^ 36 = 0 → v / 2 ^ 21 % 8 ≤ 4 → (v / 2 ^ 24 % 2 ^ 12 = s.cur.ctx ∨ (s.ctx s.cur.ctx).priv ≠ .user) →
      (∀ w, itemOf s v = .unit w → exec (.grpcnt h) s = .next (sent s (out (2 ^ 61 + 1)))) ∧
      (itemOf s v = .gone → exec (.grpcnt h) s = .next (sent s (out (2 ^ 63 + 2 ^ 61)))) ∧
      (∀ g, itemOf s v = .group g → let y := s.group g
        exec (.grpcnt h) s = .next (sent s (out (bit y.done * 2 ^ 63 + bit y.cancelled * 2 ^ 62 + bit (y.closed || y.done) * 2 ^ 61 +
          y.counter % 2 ^ 32))))) ∧
    (∀ level final e, walk s s.cur.ctx v = .fault final level e → exec (.pgqry h) s = .next (sent s (out (7 * 2 ^ 61)))) ∧
    (Unheld s (reqSrcOf s.cur) → v / 2 ^ 36 = 0 → v % 2 ^ 8 = 0 → (v / 2 ^ 24 % 2 ^ 12 = s.cur.ctx ∨ (s.ctx s.cur.ctx).priv ≠ .user) →
      let j := (s.die (v / 2 ^ 22 % 4)).job (v / 2 ^ 14 % 2 ^ 8)
      let known := j.used && decide (j.gen = v / 2 ^ 8 % 2 ^ 6 ∧ j.ctx = v / 2 ^ 24 % 2 ^ 12)
      (known = true → (s.ctx s.cur.ctx).det = false →
        exec (.engqry h) s = .next (answered s (out (jobCode j.st * 2 ^ 56 + j.cause * 2 ^ 48 + j.landed % 2 ^ 48)))) ∧
      (known = false → exec (.engqry h) s = .next (answered s (out (3 * 2 ^ 56))))) ∧
    (Unheld s (reqSrcOf s.cur) → drvReserved v = false → liveRegion s s.cur.ctx v = none →
      exec (.drvstat h) s = .next (answered s (out 0)))

/-- R461, R462, R484: CSRRD answers a register of its own context, or with X of the context at b, when its issuer governs that context;
else it is refused with ERROR and no register is read. R461, R484: CSRWR in a configuration answers the old value; a value that the
register takes replaces it, in FLAGS clears the bits given, and any other value is ignored. Nothing else changes. R460, R461: a context is
created by a write of CTXCFG with valid set, by an issuer of supervisor level or more, whose governor the issuer becomes; REGISTER_WRITE
writes a register as CSRWR does. R405: TICKBASE is ignored for an issuer that is not monitor. R479: the scrubber passes once every 2^24
clk. That a write of FLAGS clears bits and that reserved bits are ignored are the model's readings (log 35). -/
def Obligations.ContextRegisters : Prop :=
  ((∀ (h : Hdr) (n : BitVec 12) (x : Bool) (s : State), Runs h s → IsData s.cur.a →
      let c := if x then (val s.cur.b).toNat else s.cur.ctx
      (x = true → IsData s.cur.b ∧ c < 2 ^ 12) → n.toNat < 0x031 →
      (governs s s.cur.ctx c = true → (s.ctx c).st ≠ .absent → ∀ r ∈ registers s s.cur.core c, n.toNat = r.1 →
        exec (.csrrd h n x) s = .next (sent s (both s h .data (BitVec.ofNat 64 r.2)))) ∧
      (governs s s.cur.ctx c = true → (s.ctx c).st = .absent → n.toNat < 0x020 → exec (.csrrd h n x) s = .next (sent s (both s h .data 0))) ∧
      (governs s s.cur.ctx c = false → s.cur.trestle = none →
        ∃ t, exec (.csrrd h n x) s = .next t ∧ SentTo s t (both s h .error (val s.cur.a)))) ∧
   (∀ (h : Hdr) (n : BitVec 12) (x : Bool) (s : State), Runs h s → IsData s.cur.a → s.cur.trestle = none → Unheld s (reqSrcOf s.cur) →
      let c := if x then (val s.cur.b).toNat else s.cur.ctx
      (x = true → IsData s.cur.b) → c < 2 ^ 12 → governs s s.cur.ctx c = true → (s.ctx c).st ≠ .absent →
      ∀ w ∈ registerWrites (val s.cur.a).toNat, n.toNat = w.1 →
        ∀ old, (w.1, old) ∈ registers s s.cur.core c →
          exec (.csrwr h n x) s = .next (answered (if w.2.1 then withCtx s c w.2.2 else s) (both s h .data (BitVec.ofNat 64 old))))) ∧
  (∀ s : State,
     (∀ iss c (v : Word), c < 2 ^ 12 → (s.ctx iss).st ≠ .absent → (s.ctx c).st = .absent → v.getLsbD 49 = true → 1 ≤ privCode (s.ctx iss).priv →
       ∃ p, exec (.contextCreate iss c v) s = .next (withCtx s c fun _ =>
         { Ctx.init with gov := BitVec.ofNat 12 iss, priv := p, valid := true, st := .idle }) ∧ privCode p ≤ privCode (s.ctx iss).priv) ∧
     (∀ iss c, iss ≠ c → c ≠ 0 → c < 2 ^ 12 → (s.ctx iss).st ≠ .absent → governs s iss c = true → ((s.ctx c).st = .idle ∨ (s.ctx c).st = .saved) →
       ∃ t, exec (.contextDestroy iss c) s = .next t ∧ t.ctx c = Ctx.init ∧ ∀ w ∈ t.works, w.ctx ≠ c) ∧
     (∀ c d (n : BitVec 12) (v : Word), d < 2 ^ 12 → (s.ctx c).st ≠ .absent → (s.ctx d).st ≠ .absent → governs s c d = true →
       1 ≤ privCode (s.ctx c).priv → ∀ w ∈ registerWrites v.toNat, n.toNat = w.1 →
         exec (.registerWrite (.ctx c) (.csr d n) v) s = .next (if w.2.1 then withCtx s d w.2.2 else s)) ∧
     (∀ iss (v : Word), (s.ctx iss).priv ≠ .monitor → exec (.tickbaseWrite iss v) s = .next s) ∧
     (∀ iss (v : Word), (s.ctx iss).priv = .monitor → ticksFree s iss = true →
       ∃ t, exec (.tickbaseWrite iss v) s = .next t ∧ t.mgmt.tf = v.toNat % 2 ^ 16 ∧ t.mgmt.m = v.toNat % 2 ^ 16 ∧ t.mem = s.mem) ∧
     (s.mgmt.scrubClk + 2 ^ 24 ≤ s.clk → exec .scrub s = .next (withMgmt s fun m => { m with scrubClk := s.clk })) ∧
     (s.clk < s.mgmt.scrubClk + 2 ^ 24 → exec .scrub s = .next s))

/-! ## Taking a fault, and the return from it -/

/-- R465, R466, R468, R482: TRAP in a configuration writes its record at the tail of its context's ring, whose tail moves, and a goes on;
no other byte changes. R482, R483: TRAP in a block discards it and its strand is Trapped; BREAK passes a on while CTXCFG.BRK is clear and
else holds a at its PE; ERET makes a Trapped strand Ready, at the block pointer given if it is not 0, and answers 1, or 0 when nothing is
Trapped. -/
def Obligations.TrapsAndReturns : Prop :=
  (∀ (h : Hdr) (code : BitVec 16) (s : State), Runs h s → IsData s.cur.a → s.cur.trestle = none → s.cur.ctx < 2 ^ 12 →
     (s.ctx s.cur.ctx).det = false → (s.ctx s.cur.ctx).frBase ≠ 0 →
     let fb := (s.ctx s.cur.ctx).frBase.toNat
     let n := 2 ^ (s.ctx s.cur.ctx).frSize.toNat
     let tail := s.nat fb 4
     fb + 64 + 64 * n ≤ 2 ^ 52 → (tail + 2 ^ 32 - s.nat (fb + 8) 4) % 2 ^ 32 ≠ n →
     let slot := fb + 64 + 64 * (tail % n)
     let b := record s s.cur 0x40 (if s.cur.tag.slot = 7 then 1 else 0) [(val s.cur.a).toNat, code.toNat]
     ∃ t, exec (.trap h code) s = .next t ∧ SentTo s t (both s h .data (val s.cur.a)) ∧ (t.ctx s.cur.ctx).seq = (s.ctx s.cur.ctx).seq + 1 ∧
       b.length = 64 ∧ ∀ a, t.byte a =
         if slot ≤ a ∧ a < slot + 64 then b.getD (a - slot) 0
         else if fb ≤ a ∧ a < fb + 4 then (bytesLE 4 ((tail + 1) % 2 ^ 32)).getD (a - fb) 0
         else s.byte a) ∧
  (∀ (h : Hdr) (code : BitVec 16) (s : State), Runs h s → IsData s.cur.a →
     (∀ t i x, InBlock s t i → strandOf (s.core s.cur.core) i.ctx i.unit = some x →
       ∃ u, exec (.trap h code) s = .next u ∧ (u.core s.cur.core).trestle t = .free ∧
         strandOf (u.core s.cur.core) i.ctx i.unit = some { x with st := .trapped, rerun := 0 }) ∧
     ((s.ctx s.cur.ctx).brk = false → exec (.brk h) s = .next (sent s (both s h .data (val s.cur.a)))) ∧
     ((s.ctx s.cur.ctx).brk = true → s.cur.trestle = none →
       ∃ u, exec (.brk h) s = .next u ∧ SentTo s u [] ∧
         ((u.core s.cur.core).pe s.cur.x s.cur.y).breaks = ((s.core s.cur.core).pe s.cur.x s.cur.y).breaks ++ [⟨s.cur, h⟩]) ∧
     (IsData s.cur.b → s.cur.trestle = none → Unheld s (reqSrcOf s.cur) →
       let v := (val s.cur.a).toNat
       let b := val s.cur.b
       let c := v / 2 ^ 24 % 2 ^ 12
       let core := v / 2 ^ 14 % 2 ^ 7
       let u := BitVec.ofNat 13 (v / 2 % 2 ^ 13)
       v / 2 ^ 36 = 0 → v / 2 ^ 21 % 8 = 0 → v % 2 = 0 → b.toNat % 16 = 0 → b.toNat < 2 ^ 48 → governs s s.cur.ctx c = true →
       ctxMoves s c = true → (∀ q ∈ s.reqs, q.id ≠ s.nextId ∧ (q.firing.core = s.cur.core → q.stage = .performed)) →
       ∀ x, strandOf (s.core core) c u = some x →
         (x.st = .trapped → exec (.eret h) s = .next (answered (withCore s core fun k => { k with
           strands := k.strands.filter (fun z => ¬(z.ctx = c ∧ z.unit = u)) ++
             [{ x with st := .ready, bp := if b = 0 then x.bp else b, rerun := 0 }] }) (both s h .data 1))) ∧
         (x.st ≠ .trapped → exec (.eret h) s = .next (answered s (both s h .data 0)))))

end

namespace Sys2Proof.Claim

open Sys2Proof Sys2Proof.Machine

/-! ## Queues, units and groups -/

/-- No page operation holds the frame and no host owns a line of the bytes. -/
def Unowned (s : State) (pa n : Nat) : Prop :=
  frameWaits s pa = false ∧ ∀ l, pa / 128 ≤ l → l ≤ (pa + n) / 128 → (s.line l).half0 < 2 ∧ (s.line l).half1 < 2

/-- Units that a failed load left unplaced may be placed again (R264). -/
def placeable (s : State) (q : Nat) : State :=
  { s with works := s.works.map fun w => if (s.group w.group).queue = q then { w with stalled := false } else w }

/-- The units of a launch record y in group g of context c, as they wait (R232, R233). -/
def unitsOf (s : State) (c g cls : Nat) (y : LRec) : List Work :=
  (List.range (y.nx * y.ny * y.nz)).map (unitOf s c g cls s.order y)

/-- Group entry g is the first of its die's that a record may take: every one before it is in use and not done, and it is unused, or done
and no queue's current group (R229). -/
def FirstFree (s : State) (die g : Nat) : Prop :=
  die * 8192 ≤ g ∧ g < die * 8192 + 8192 ∧ (∀ i, die * 8192 ≤ i → i < g → (s.group i).used = true ∧ (s.group i).done = false) ∧
    ((s.group g).used = false ∨ (s.group g).done = true ∧
      ∀ e ∈ s.queues, e.2.cur2 ≠ some g ∧ e.2.cur3 ≠ some g ∧ e.2.cur4 ≠ some g)

/-- The current firing's item at a, which its context may name (R240, R245). -/
def Names (s : State) (v : Nat) (x : GItem) : Prop :=
  v / 2 ^ 36 = 0 ∧ v / 2 ^ 21 % 8 ≤ 4 ∧ (v / 2 ^ 24 % 2 ^ 12 = s.cur.ctx ∨ (s.ctx s.cur.ctx).priv ≠ .user) ∧ itemOf s v = x

end Sys2Proof.Claim

section

open Sys2Proof Sys2Proof.Machine Sys2Proof.Claim

/-! ## Queues, units and groups -/

/-- R224, R225: a doorbell sets the tail of a queue that is not Disabled, and one too far from head stops it; State written 01 enables a
queue, from Disabled with head, tail and open records cleared; State written 00 drains it, or with no launch open disables it. R226 to
R230, R232: the one enabled queue of a die whose head is a dispatchable launch record has it taken: its head moves, a group entry holds
the launch with its count, and its units wait, each at the core that R233 gives. R231, R234, R235, R264: the strand unit whose turn it is
takes a place, once its cluster can be fused as it asks; its strand is Ready at its entry and its context runs. A halted strand with
nothing outstanding leaves its core and its launch counts it; with its counter at 0 a closed launch is done and its queue no longer waits
for it. When a queue counts as enabled anew is the model's reading (log 30). -/
def Obligations.QueuesAndUnits : Prop :=
  ((∀ (s : State) (q : Nat), q < 2 ^ 14 →
      let x := s.queue q
      (∀ v : Word, let tail : BitVec 32 := v.setWidth 32
        (x.st = .disabled → exec (.doorbell q v) s = .next s) ∧
        (x.st ≠ .disabled → (tail - x.head).toNat ≤ 16 * 2 ^ x.size.toNat →
          exec (.doorbell q v) s = .next (withQueue s q fun y => { y with tail := tail })) ∧
        ((x.st = .enabled ∨ x.st = .stopped) → 16 * 2 ^ x.size.toNat < (tail - x.head).toNat →
          ∃ t, exec (.doorbell q v) s = .next t ∧ t.queue q = { x with st := .stopped, cause := 0x02, since := none })) ∧
      (x.st = .disabled → exec (.queueEnable q) s = .next (placeable (withQueue s q fun y =>
        { y with st := .enabled, cause := 0, head := 0, tail := 0, open_ := [], since := none }) q)) ∧
      (x.st = .stopped → exec (.queueEnable q) s = .next (placeable (withQueue s q fun y =>
        { y with st := .enabled, cause := 0, since := none }) q)) ∧
      ((x.st = .enabled ∨ x.st = .draining) → exec (.queueEnable q) s = .next s) ∧
      ((x.st = .enabled ∨ x.st = .stopped) → exec (.queueDisable q) s = .next (withQueue s q fun y =>
        { y with st := if y.open_.all fun e => (s.group e.2).level ≠ 1 then .disabled else .draining, cause := 0, since := none })) ∧
      ((x.st = .disabled ∨ x.st = .draining) → exec (.queueDisable q) s = .next s)) ∧
   (∀ (s : State) (die q pa g : Nat) (leaf : Word), die < 4 → q < 2 ^ 14 → queuesOf s die = [q] →
      let x := s.queue q
      let c := x.ctx.toNat
      let y := lrecOf (s.bytes pa 64)
      x.st = .enabled → x.head ≠ x.tail → ctxMoves s c = true → checkWalk s c (x.slotVa x.head.toNat) 64 .rd false = .ok pa leaf →
      Unowned s pa 64 → y.kind = 0 → y.bad x = false → dispatchable x y = true → y.caddr = 0 →
      x.cur2 = none → x.cur3 = none → x.cur4 = none → FirstFree s die g →
      ∃ t, exec (.recordTake die) s = .next t ∧ t.mem = s.mem ∧ t.cores = s.cores ∧ t.ctxs = s.ctxs ∧ t.reqs = s.reqs ∧
        t.queue q = { x with head := x.head + 1, since := none, open_ := x.open_ ++ [(x.head.toNat, g)] } ∧
        t.group g = ⟨true, if (s.group g).used then ((s.group g).gen + 1) % 64 else 0, 1, c, none, y.nx * y.ny * y.nz, true, false, false,
          y.cvalue, 0, q⟩ ∧
        t.works = s.works ++ unitsOf s c g (agedClass s q) y ∧ t.order = s.order + 1)) ∧
  (∀ (s : State) (core : Nat) (w : Work), core < 128 → w.core = core → w.ctx < 2 ^ 12 → w.strand = true → ctxMoves s w.ctx = true →
     (leastBy workBefore (s.works.filter fun z => decide (z.core = core ∧ z.st = .waiting) && ctxMoves s z.ctx) = some w →
       w.stalled = false → (∀ z ∈ s.works, z.core = core → z.ctx = w.ctx → z.num = w.num → z.st ≠ .live) →
       ((s.cluster (core / 4)).fused = w.fuse ∨ ∀ z ∈ s.works, z.core / 4 = core / 4 → z.st ≠ .live) →
       (s.core core).strands.length < 64 →
       ∃ t, exec (.unitTakesPlace core) s = .next t ∧ t.mem = s.mem ∧ t.reqs = s.reqs ∧
         (t.core core).strands = (s.core core).strands ++
           [⟨w.ctx, w.num, BitVec.ofNat 64 w.frame, BitVec.ofNat 64 w.entry, .ready, Frame.init, none, w.steps, none, 0⟩] ∧
         t.works = s.works.map (fun z => if z = w then { z with st := .live } else z) ∧ (t.ctx w.ctx).st = .running ∧
         (t.cluster (core / 4)).fused = w.fuse) ∧
     (∀ (u : Nat) (x : Strand), w.num = BitVec.ofNat 13 u → w.group < 2 ^ 15 →
       s.works.find? (fun z => decide (z.ctx = w.ctx ∧ z.num = BitVec.ofNat 13 u ∧ z.core = core ∧ z.st = .live)) = some w → w.ended = false →
       strandOf (s.core core) w.ctx w.num = some x → x.st = .halted → unitBusy s core w.ctx w.num = false →
       let g := s.group w.group
       ∃ t, exec (.unitCompletion core w.ctx u) s = .next t ∧ t.works = s.works.erase w ∧
         (t.core core).strands = (s.core core).strands.filter (fun z => ¬(z.ctx = w.ctx ∧ z.unit = w.num)) ∧
         (2 ≤ g.counter → t.mem = s.mem ∧ t.group w.group = { g with counter := g.counter - 1 }) ∧
         (g.counter = 1 → g.used = true → g.closed = true → g.done = false → g.caddr = 0 → g.parent = none → g.queue < 2 ^ 14 →
           t.mem = s.mem ∧ t.group w.group = { g with counter := 0, done := true } ∧
             (t.queue g.queue).open_ = (s.queue g.queue).open_.filter fun e => e.2 ≠ w.group)))

/-- R243 to R246, R240: LAUNCH of a configuration copies its record to the ring slot at the queue's tail, moves tail and answers the old
one; UNITEND answers 1 and counts its unit as complete, or 0 when it is not live; YIELD lets a pass; GRPWAIT answers the status of an item
that is done, and waits for one that is not; GRPCAN answers a done item's status, and drops a unit that has no place yet. What UNITEND
removes is the model's reading (log 30). -/
def Obligations.LaunchAndGroups : Prop :=
  ∀ (h : Hdr) (s : State), Runs h s → IsData s.cur.a → s.cur.trestle = none → Unheld s (reqSrcOf s.cur) →
    (∀ q ∈ s.reqs, q.firing.core = s.cur.core → q.stage = .performed) →
    let v := (val s.cur.a).toNat
    (∀ (n : Fin 16384) (r0 r1 r2 : R s) (l : List Byte) (p : Nat × Word), let x := s.queue n.val
      v % 64 = 0 → (x.ctx.toNat = s.cur.ctx ∨ (s.ctx s.cur.ctx).priv ≠ .user) → x.st = .enabled → ctxMoves s x.ctx.toNat = true →
      (x.tail - x.head).toNat ≠ 16 * 2 ^ x.size.toNat → r0.s = waits s (.launch h n) (reqSrcOf s.cur) →
      vRead r0 s.cur.core s.cur.ctx v 64 64 = (r1, .val l) →
      vPrep r1 s.cur.core x.ctx.toNat (x.base.toNat / 64 * 64 + 64 * (x.tail.toNat % (16 * 2 ^ x.size.toNat))) 64 64 .wr = (r2, .val p) →
      p.1 + l.length ≤ 2 ^ 52 →
      ∃ t, exec (.launch h n) s = .next t ∧ Wrote s t p.1 l ∧ t.queue n.val = { x with tail := x.tail + 1 } ∧
        SentTo s t (both s h .data (x.tail.setWidth 64)) ∧ ∀ q ∈ t.reqs, q.id ≠ s.nextId) ∧
    (workOf s s.cur.core s.cur.ctx s.cur.tag.unit = none → exec (.unitend h) s = .next (answered s (both s h .data 0))) ∧
    (∀ w, workOf s s.cur.core s.cur.ctx s.cur.tag.unit = some w → w.strand = true → w.group < 2 ^ 15 → 2 ≤ (s.group w.group).counter →
      ∃ t, exec (.unitend h) s = .next t ∧ t.mem = s.mem ∧ SentTo s t (both s h .data 1) ∧
        t.works = s.works.map (fun x => if x = w then { x with ended := true } else x) ∧
        t.group w.group = { s.group w.group with counter := (s.group w.group).counter - 1 }) ∧
    exec (.yield h) s = .next (answered s (both s h .data (val s.cur.a))) ∧
    (∀ x, Names s v x → itemDone s x = true →
      (∃ t, exec (.grpwait h) s = .next t ∧ t.mem = s.mem ∧ SentTo s t (both s h .data (BitVec.ofNat 64 (itemStatus s x)))) ∧
      exec (.grpcan h) s = .next (answered s (both s h .data (BitVec.ofNat 64 (itemStatus s x))))) ∧
    (∀ x, Names s v x → itemDone s x = false → insideItem s s.cur x = false →
      exec (.grpwait h) s = .next (waits s (.grpwait h) (reqSrcOf s.cur))) ∧
    (∀ w, Names s v (.unit w) → insideItem s s.cur (.unit w) = false → w.st = .waiting → w.ended = false →
      (s.ctx (v / 2 ^ 24 % 2 ^ 12)).st ≠ .cutting → w.group < 2 ^ 15 → 2 ≤ (s.group w.group).counter →
      exec (.grpcan h) s = .next (answered { withGroup s w.group (fun g => { g with counter := g.counter - 1, cancelled := true }) with
        works := s.works.erase w } (both s h .data (BitVec.ofNat 64 (2 ^ 61 + 1)))))

end

namespace Sys2Proof.Claim

open Sys2Proof Sys2Proof.Machine

/-! ## Barriers and jobs -/

/-- A barrier instruction whose operand's address passes its checks becomes a request that orders itself as `rel` says. -/
def Stands (s : State) (i : Instr) (op : AccOp) (rel : Bool) : Prop :=
  ∀ pa leaf, Passes s .rw true (val s.cur.a).toNat 16 pa leaf →
    exec i s = .next (standing (walked s (val s.cur.a).toNat) { Req.new s.nextId i s.cur (reqSrcOf s.cur) op with
      va := (val s.cur.a).toNat, pa := pa, size := 16, rel := rel, translated := true, leaf := leaf })

/-- A barrier at the start of its next phase (R316). -/
def phaseAfter (b : Bar) (pb : Nat) (n : Int) (st : Nat) : Bar := ⟨n, (b.phase + 1) % 2 ^ 32, st, pb, b.resv⟩

/-- State of a Counting phase with n pending: 2 Complete at 0, 3 Broken below (R316). -/
def counted (n : Int) : Nat := if n = 0 then 2 else if n < 0 then 3 else 1

/-- The status of a barrier (R328). -/
def barWord (st ph : Nat) (refused : Bool) : Word := BitVec.ofNat 64 (st * 2 ^ 62 + bit refused * 2 ^ 61 + ph % 2 ^ 32)

/-- A request of a barrier that its home can perform, with the barrier's reserved bits clear. -/
def AtBarrier (s : State) (id : Nat) (q : Req) (op : AccOp) : Prop :=
  AtHome s id q ∧ q.op = op ∧ q.size = 16 ∧ (s.frame (q.pa / 2 ^ 16)).hostBias = false ∧ (barOf (s.bytes q.pa 16)).resv = 0 ∧
    (leafT q.leaf = true ∨ (s.ctx q.firing.ctx).tmen = false)

/-- The home performs a barrier operation: the barrier's new bytes, and its status. -/
def Barred (s : State) (id : Nat) (q : Req) (b : Bar) (refused : Bool) : Prop :=
  ∃ t, exec (.homeAccess id) s = .next t ∧ Wrote s t q.pa b.bytes ∧
    Performed t id .data (barWord b.state b.phase refused) (barWord b.state b.phase refused) false

/-- A job that is running, or posted, at a die's engines and whose context moves. -/
def JobIn (s : State) (die e : Nat) (st : JobSt) : Prop :=
  die < 4 ∧ ((s.die die).job e).used = true ∧ ((s.die die).job e).st = st ∧ ctxMoves s ((s.die die).job e).ctx = true

end Sys2Proof.Claim

section

open Sys2Proof Sys2Proof.Machine Sys2Proof.Claim

/-! ## Barriers and jobs -/

/-- R329, R330: in a configuration BARINIT, BARADD and BARARR become requests for the sixteen bytes at a with b signed, BARARR a release;
BARWT, with the phase in b, and BARTST become requests in blocks too. R316, R328 to R330: what BARINIT n, BARADD n and BARARR n do to a
barrier, with their status; a BARWT for the phase before answers Complete or Broken, and one for a phase that is not over sleeps; BARTST
answers the status and the pending count. -/
def Obligations.Barriers : Prop :=
  (∀ (h : Hdr) (s : State), Sane s → Fires h s.cur → IsData s.cur.a → Calm s (reqSrcOf s.cur) →
     (s.cur.trestle = none → IsData s.cur.b →
       Stands s (.barinit h) (.barrier 0 (val s.cur.b).toInt) false ∧ Stands s (.baradd h) (.barrier 1 (val s.cur.b).toInt) false ∧
       Stands s (.bararr h) (.barrier 2 (val s.cur.b).toInt) true) ∧
     (IsData s.cur.b → Stands s (.barwt h) (.barwt ((val s.cur.b).toNat % 2 ^ 32)) false) ∧
     Stands s (.bartst h) .bartst false) ∧
  (∀ (s : State) (id : Nat) (q : Req) (n : Int), let b := barOf (s.bytes q.pa 16)
     (0 ≤ n → AtBarrier s id q (.barrier 0 n) →
       (b.state = 1 → Barred s id q b true) ∧
       (b.state ≠ 1 → Barred s id q (phaseAfter b (bit (b.state = 3)) n (if n = 0 then 2 else 1)) false)) ∧
     (AtBarrier s id q (.barrier 1 n) →
       (b.state = 1 → -2 ^ 63 ≤ b.pending + n → b.pending + n < 2 ^ 63 →
         Barred s id q { b with pending := b.pending + n, state := counted (b.pending + n) } false) ∧
       (b.state = 2 → 0 < n → Barred s id q (phaseAfter b 0 n 1) false) ∧
       ((b.state = 0 ∨ b.state = 3 ∨ (b.state = 2 ∧ n ≤ 0)) → Barred s id q b true)) ∧
     (0 < n → AtBarrier s id q (.barrier 2 n) → let d := max (b.pending - n) (-2 ^ 63)
       (b.state = 1 → Barred s id q { b with pending := d, state := counted d } false) ∧
       (b.state = 2 → Barred s id q (phaseAfter b 0 (-n) 3) false) ∧
       ((b.state = 0 ∨ b.state = 3) → Barred s id q { b with pending := d, state := 3 } false)) ∧
     (∀ p, AtBarrier s id q (.barwt p) → p < 2 ^ 32 →
       (b.phase = (p + 1) % 2 ^ 32 → ∃ t, exec (.homeAccess id) s = .next t ∧ t.mem = s.mem ∧
         Performed t id .data (barWord (if b.pb = 1 then 3 else 2) p false) (barWord (if b.pb = 1 then 3 else 2) p false) false) ∧
       (b.phase = p → b.state < 2 → ∃ t, exec (.homeAccess id) s = .next t ∧ t.mem = s.mem ∧
         ∃ x ∈ t.reqs, x.id = id ∧ (x.stage = .sleeping ∨ x.stage = .polling))) ∧
     (AtBarrier s id q .bartst → (s.ctx q.firing.ctx).det = false → ∃ t, exec (.homeAccess id) s = .next t ∧ t.mem = s.mem ∧
       Performed t id .data (barWord b.state b.phase false) (BitVec.ofInt 64 b.pending) false))

/-- R318, R331: ENGPOST in a configuration reads its card, enters a job for it in its die's inbox, and answers the job's handle; its
arrival gives the job its place in order, waiting where an earlier job's footprint meets its own. -/
def Obligations.JobsArePosted : Prop :=
  ∀ s : State,
    (∀ (h : Hdr) (r0 r1 : R s) (card : List Byte) (e : Nat), Runs h s → IsData s.cur.a → s.cur.trestle = none → s.cur.poison = false →
      Unheld s (reqSrcOf s.cur) → (∀ q ∈ s.reqs, q.firing.core = s.cur.core → q.stage = .performed) →
      (val s.cur.a).toNat % 128 = 0 → r0.s = waits s (.engpost h) (reqSrcOf s.cur) →
      vRead r0 s.cur.core s.cur.ctx (val s.cur.a).toNat 128 128 = (r1, .val card) → cardCollective card = false → cardOk card [] = true →
      let d := cardDie card
      let j := (s.die d).job e
      let gen := if j.used then (j.gen + 1) % 64 else 0
      freeInbox (s.die d) = some e →
      ∃ t l k p, exec (.engpost h) s = .next t ∧ t.mem = s.mem ∧
        SentTo s t (both s h .data (BitVec.ofNat 64 (s.cur.ctx * 2 ^ 24 + d * 2 ^ 22 + e * 2 ^ 14 + gen * 2 ^ 8))) ∧
        (t.die d).job e = { Job.init with
          used := true, gen := gen, st := .posted, ctx := s.cur.ctx, card := card, launch := l, unit := s.cur.tag.unit.toNat, key := k, jts := p }) ∧
    (∀ die n, die < 4 → ((s.die die).job n).used = true → ((s.die die).job n).st = .posted → ((s.die die).job n).order = 0 →
      let j := (s.die die).job n
      let k := (s.die die).jobSeq + 1
      ((∀ x ∈ (s.die die).jobs, x.2.open? = true → x.2.ctx = j.ctx → 0 < x.2.order → footEdge x.2.card j.card = false) →
        exec (.jobArrival die n) s = .next (withDie s die fun d =>
          { d with jobSeq := k, jobs := tabSet Job.init n { j with order := k } d.jobs })) ∧
      (∀ x ∈ (s.die die).jobs, x.1 ≠ n → x.2.open? = true → x.2.ctx = j.ctx → 0 < x.2.order → x.2.order < k → footEdge x.2.card j.card = true →
        ∃ t, exec (.jobArrival die n) s = .next t ∧ (t.die die).job n = { j with order := k, st := .waiting }))

/-- R320, R321, R323: a job that nothing holds back translates its barrier, completion word and reply and runs, or fails with the first
fault's cause; a fill lands its next bytes up to a line's end, arrives at its barrier with their count, and completes once all have
landed. R500, R501: a chunk that a ring's member receives at a step that adds nothing is stored with its stamps and counted; an abort, or
a neighbour silent for longer than its port's timeout, breaks the ring: the job fails with RING_BROKEN. How many bytes land in one step is
the model's reading (log 31). -/
def Obligations.JobsAndRings : Prop :=
  (∀ (s : State) (die e : Nat), let j := (s.die die).job e
     ((JobIn s die e .posted ∨ JobIn s die e .waiting) → 0 < j.order → jobWaits s die e = false → jobBehind s die e = false → j.collective = false →
       let l := startChecks s j.ctx j.card
       (l.findSome? resCode = none → exec (.jobStart die e) s = .next (withJob s die e fun x =>
         { x with st := .running, started := true, barPa := resPa (l.getD 0 none), cwPa := resPa (l.getD 1 none), rpPa := resPa (l.getD 2 none),
                  since := s.clk })) ∧
       (∀ c, l.findSome? resCode = some c → ∃ t, exec (.jobStart die e) s = .next t ∧ ((t.die die).job e).st = .failed ∧
         ((t.die die).job e).cause = c)) ∧
     (JobIn s die e .running → j.collective = false →
       (cardTotal j.card ≤ j.landed → j.cwPa = 0 → cardReply j.card = 0 →
         exec (.jobLanding die e) s = .next (withJob s die e fun x => { x with st := .complete, cause := 0 })) ∧
       (∀ pa leaf, let va := (cardDst j.card + j.landed) % 2 ^ 64
         let n := min (128 - va % 128) (cardTotal j.card - j.landed)
         let l := (List.range n).map fun i => BitVec.ofNat 8 (cardSrc j.card / 2 ^ (8 * ((j.landed + i) % 8)))
         cardOp j.card = 2 → j.landed < cardTotal j.card → jobAccess (R.start s) die e va n true false = (R.start s, .ok (pa, leaf)) →
         leafT leaf = true → pa + n ≤ 2 ^ 52 → j.barPa + 16 ≤ 2 ^ 52 →
         (j.barPa = 0 ∨ Unowned s j.barPa 16 ∧ (pa + n ≤ j.barPa ∨ j.barPa + 16 ≤ pa)) →
         ∃ t, exec (.jobLanding die e) s = .next t ∧ ((t.die die).job e).st = .running ∧ ((t.die die).job e).landed = j.landed + n ∧
           ∀ a, t.byte a =
             if j.barPa ≠ 0 ∧ j.barPa ≤ a ∧ a < j.barPa + 16 then (((barOf (s.bytes j.barPa 16)).arrive n).bytes).getD (a - j.barPa) 0
             else if pa ≤ a ∧ a < pa + n then l.getD (a - pa) 0 else s.byte a))) ∧
  (∀ (s : State) (die e : Nat), let j := (s.die die).job e
     JobIn s die e .running → j.collective = true →
     (∃ t, exec (.abortFlit die e) s = .next t ∧ ((t.die die).job e).st = .failed ∧ ((t.die die).job e).cause = 0x31) ∧
     (j.step < ringSteps j →
       (∀ n ∈ j.neighbours, j.since + (s.link (portTo s (die * 32) n)).cto.toNat * 2100 < s.clk →
         ∃ t, exec (.ringTimeout die e) s = .next t ∧ ((t.die die).job e).st = .failed ∧ ((t.die die).job e).cause = 0x31) ∧
       ((∀ n ∈ j.neighbours, s.clk ≤ j.since + (s.link (portTo s (die * 32) n)).cto.toNat * 2100) →
         exec (.ringTimeout die e) s = .next s)) ∧
     (∀ (v : List Byte) rg ks (r2 r3 : R s), ringRecv j = some (rg, ks, false) → v.length = rg.2 → j.step < ringSteps j → j.got = false →
       j.barPa = 0 → ringStore (R.start s) die e (cutRange (cardDst j.card + rg.1) rg.2) v = (r2, .ok ()) →
       ringStore r2 die e (ks.flatMap fun k => cutRange (fieldLE j.ring 8 8 + 4 * k) 4) (ks.flatMap fun _ => bytesLE 4 (j.step + 1)) =
         (r3, .ok ()) →
       ∃ t, exec (.collectiveFlit die e v) s = .next t ∧ t.mem = r3.s.mem ∧ ((t.die die).job e).landed = ((r3.s.die die).job e).landed + rg.2))

end

namespace Sys2Proof.Claim

open Sys2Proof Sys2Proof.Machine

/-! ## Configurations -/

/-- The current firing executes with DATA at a, and no fault holds its source. -/
def Asks (h : Hdr) (s : State) : Prop := Runs h s ∧ IsData s.cur.a ∧ Unheld s (reqSrcOf s.cur)

/-- Every request of the current firing's core is performed, and every request's number is below the next one. -/
def Settled (s : State) : Prop := ∀ q ∈ s.reqs, q.id < s.nextId ∧ (q.firing.core = s.cur.core → q.stage = .performed)

/-- The request as which an instruction of the current firing stands. -/
def asking (s : State) (i : Instr) : Req := Req.new s.nextId i s.cur (reqSrcOf s.cur) .ctl

/-- A request is over: it has left, and its tokens have set out. -/
def ended (s : State) (q : Req) (k : Kind) (v : Word) (carry : Bool := false) : State :=
  sentBy (without s q.id) q.firing (tokens (hdrOfInstr q.instr) q.firing k v k v carry)

/-- An instruction that stands as a request reads n bytes at va, at a multiple of al: they are l, and the TLBs are those of u. -/
def Reads (s : State) (i : Instr) (va n al : Nat) (u : R s) (l : List Byte) : Prop :=
  ∀ r : R s, r.s = waits s i (reqSrcOf s.cur) → vRead r s.cur.core s.cur.ctx va n al = (u, .val l)

/-- The request of a CFGDRAIN that waits, with the binding it names. -/
def Drains (s : State) (id : Nat) (q : Req) (core cfgid : Nat) : Prop :=
  getReq s id = some q ∧ (∃ h, q.instr = .cfgdrain h) ∧ q.aux = 1 ∧ q.firing.core < 128 ∧
    (opTok q.firing.a).value.toNat = core * 2 ^ 32 + cfgid ∧ core < 128 ∧ cfgid < 2 ^ 32

/-- A binding's state changes. -/
def withBinding (s : State) (core c cfgid : Nat) (f : Binding → Binding) : State :=
  withCore s core fun k => { k with bindings := k.bindings.map fun b => if b.cfg.ctx = c ∧ b.cfg.cfgid = cfgid then f b else b }

end Sys2Proof.Claim

section

open Sys2Proof Sys2Proof.Machine Sys2Proof.Claim

/-! ## Configurations -/

/-- R274 to R280: CFGQRY answers where a tile stands, a binding's state, a cache entry's state and the failed PEs. CFGDRAIN answers 6 for
no binding, 7 for its own, 4 for one in repair, 5 for one that is not quiet with b = 0, puts it into Draining with b ≠ 0, and leaves a
quiet one Drained. CFGPIN pins or unpins the entry of its descriptor. CFGLD begins a load of a descriptor that is not in the cache, and
answers 1 for one that is. CFGSWAP binds the new configuration in the place of the old one. The cfgid in a status and the answer to a pin
over its limit are the model's readings (log 29). -/
def Obligations.ConfigurationInstructions : Prop :=
  ∀ (h : Hdr) (s : State), Asks h s →
    let v := (val s.cur.a).toNat
    let core := v / 2 ^ 32 % 2 ^ 7
    let id := v % 2 ^ 32
    let own := s.cur.core / 4
    let done (n : Nat) : Host.Outcome State Fault Refusal := .next (answered s (both s h .data (BitVec.ofNat 64 n)))
    let told (n : Nat) : Host.Outcome State Fault Refusal := .next (sent s (both s h .data (BitVec.ofNat 64 n)))
    (∀ x y, tilePos (v / 32) (v % 32) = some (x, y) → v < 2 ^ 8 → exec (.cfgqry h 0) s = told (x * 16 + y)) ∧
    (v < 2 ^ 39 → bindingOf s core s.cur.ctx id = none → exec (.cfgqry h 2) s = told 0) ∧
    (∀ b, v < 2 ^ 39 → bindingOf s core s.cur.ctx id = some b → (∀ w ∈ s.works, w.core = core → w.strand = true) →
      exec (.cfgqry h 2) s = told (bindCode b.st)) ∧
    (∀ n, n < 32 → id = 2 ^ n → exec (.cfgqry h 3) s = told (match cacheFind s n s.cur.ctx (v / 2 ^ 32) with
      | some e => cfgCode e.st
      | none => 0)) ∧
    (IsData s.cur.b → v < 2 ^ 39 →
      (bindingOf s core s.cur.ctx id = none → exec (.cfgdrain h) s = done (6 * 2 ^ 56 + id)) ∧
      ∀ b, bindingOf s core s.cur.ctx id = some b →
        (runsUnder s s.cur core b = true → exec (.cfgdrain h) s = done (7 * 2 ^ 56 + id)) ∧
        (runsUnder s s.cur core b = false →
          (b.st = .repairing → exec (.cfgdrain h) s = done (4 * 2 ^ 56 + id)) ∧
          ((b.st = .live ∨ b.st = .idle) →
            (bindingLive s core b.cfg = true ∨ bindingQuiet s core b.cfg = false →
              (val s.cur.b = 0 → exec (.cfgdrain h) s = done (5 * 2 ^ 56 + id)) ∧
              (val s.cur.b ≠ 0 → exec (.cfgdrain h) s = .next (withReq (withBinding (waits s (.cfgdrain h) (reqSrcOf s.cur)) core s.cur.ctx id
                fun x => { x with st := .draining, prior := b.st }) s.nextId fun x => { x with aux := 1, since := s.clk }))) ∧
            (bindingLive s core b.cfg = false → bindingQuiet s core b.cfg = true →
              ∃ u, exec (.cfgdrain h) s = .next (ended u (asking s (.cfgdrain h)) .data 0) ∧ u.mem = s.mem ∧ (u.core core).bindings =
                ((withBinding s core s.cur.ctx id fun x => { x with st := .drained, prior := b.st }).core core).bindings)))) ∧
    (IsData s.cur.b → val s.cur.b = 0 → ∀ (pin : Bool) (u : R s) (l : List Byte) (e : CacheEnt), Reads s (.cfgpin h pin) v 128 128 u l →
      cacheFind u.s own s.cur.ctx (cfgDesc l).cfgid = some e → e.cfg.digest = (cfgDesc l).digest →
      (pin = true ∧ e.st = .resident ∧ (∀ x ∈ (u.s.cluster own).cache, x.st ≠ .pinned) ∧ e.size ≤ 1792 ∨ pin = false ∧ e.st = .pinned) →
      exec (.cfgpin h pin) s = .next (ended (withCluster u.s own fun k => { k with
        cache := k.cache.map fun x => if x = e then { x with st := if pin then .pinned else .resident } else x })
          (asking s (.cfgpin h pin)) .data 0)) ∧
    (IsData s.cur.b → val s.cur.b = 0 → v % 128 = 0 → Settled s → ∀ (r u : R s) (l : List Byte),
      r.s = waits s (.cfgld h false) (reqSrcOf s.cur) → vRange r s.cur.core s.cur.ctx 128 3 v = (u, .val l) →
      (∀ e, cacheFind u.s own s.cur.ctx (cfgDesc l).cfgid = some e → e.st = .resident → e.cfg.digest = (cfgDesc l).digest →
        exec (.cfgld h false) s = .next (ended u.s (asking s (.cfgld h false)) .data (BitVec.ofNat 64 (2 ^ 56 + (cfgDesc l).cfgid)))) ∧
      (∀ w x, cacheFind u.s own s.cur.ctx (cfgDesc l).cfgid = none → (u.s.cluster own).cache.length < 32 →
        ((u.s.cluster own).cache.map CacheEnt.size).foldl (· + ·) 0 + (cfgDesc l).count ≤ 2048 → (cfgDesc l).count ≤ 1792 →
        readConfig u s.cur.core s.cur.ctx v l = (w, .val x) →
        exec (.cfgld h false) s = .next (withReq (withCluster w.s own fun k => { k with
          cache := ⟨x.1, .loading, (w.s.cluster own).useClk, x.2, s.cur.core, s.nextId⟩ :: k.cache }) s.nextId fun y =>
            { y with aux := (cfgDesc l).cfgid }))) ∧
    (IsData s.cur.b → v < 2 ^ 39 →
      (bindingOf s core s.cur.ctx id = none → exec (.cfgswap h) s = done (6 * 2 ^ 56 + id)) ∧
      ∀ (b : Binding) (u : R s) (l : List Byte) (e : CacheEnt), bindingOf s core s.cur.ctx id = some b → (b.st = .idle ∨ b.st = .drained) →
        runsUnder s s.cur core b = false → bindingQuiet s core b.cfg = true → Reads s (.cfgswap h) (val s.cur.b).toNat 128 128 u l →
        cacheFind u.s (core / 4) s.cur.ctx (cfgDesc l).cfgid = some e → e.st ≠ .loading → e.cfg.digest = (cfgDesc l).digest →
        (∀ x ∈ (s.core core).bindings, ¬(x.cfg.ctx = s.cur.ctx ∧ x.cfg.cfgid = id) → conflicts x.cfg e.cfg = false) →
        (u.s.core core).failed = [] →
        ∃ w, exec (.cfgswap h) s = .next (ended w (asking s (.cfgswap h)) .data 0) ∧ w.mem = s.mem ∧ (w.core core).bindings =
          (s.core core).bindings.filter (fun x => ¬(x.cfg.ctx = b.cfg.ctx ∧ x.cfg.cfgid = b.cfg.cfgid)) ++ [⟨e.cfg, .idle, .idle, []⟩])

/-- R259, R262, R270 to R272, R278: a load without a fault leaves its entry Resident and one with a fault leaves none; a drain that waits
ends when its binding is quiet, with status 0, or once b clk have passed, with status 5 and the binding as before; a repair moves the
images of the binding Repairing for a failed PE to its spare. -/
def Obligations.ConfigurationEvents : Prop :=
  ∀ s : State,
    (∀ cl n e, cl < 32 → (s.cluster cl).cache[n]? = some e →
      (e.st ≠ .loading → exec (.configLoad cl n) s = .next s) ∧
      (e.st = .loading → e.bad = none → getReq s e.by_ = none → exec (.configLoad cl n) s = .next (withCluster s cl fun k => { k with
        cache := k.cache.map fun x => if x = e then { x with st := .resident, by_ := 0 } else x })) ∧
      (∀ q h, e.st = .loading → e.bad = none → getReq s e.by_ = some q → q.instr = .cfgld h false →
        exec (.configLoad cl n) s = .next (withReq (withCluster s cl fun k => { k with
          cache := k.cache.map fun x => if x = e then { x with st := .resident, by_ := 0 } else x }) q.id
            fun x => { x with marks := cl :: x.marks })) ∧
      (∀ v, e.st = .loading → e.bad = some v → waitingFor s cl e.cfg.ctx e.cfg.addr = [] →
        ∃ t, exec (.configLoad cl n) s = .next t ∧ (t.cluster cl).cache = (s.cluster cl).cache.erase e ∧ t.works = s.works)) ∧
    (∀ id q core cfgid, Drains s id q core cfgid →
      let b := (opTok q.firing.b).value.toNat
      (s.clk < q.since + b → exec (.drainTimeout id) s = .next s) ∧
      (q.since + b ≤ s.clk → ctxMoves s q.firing.ctx = true → otherDrain s q = false →
        exec (.drainTimeout id) s = .next (ended (withBinding s core q.firing.ctx cfgid fun x =>
          if x.st = .draining then { x with st := x.prior } else x) q .data (BitVec.ofNat 64 (5 * 2 ^ 56 + cfgid)))) ∧
      (bindingOf s core q.firing.ctx cfgid = none →
        exec (.drainComplete id) s = .next (ended s q .data (BitVec.ofNat 64 (6 * 2 ^ 56 + cfgid)))) ∧
      (∀ x, bindingOf s core q.firing.ctx cfgid = some x → ctxMoves s q.firing.ctx = true →
        ((x.st = .draining ∧ (bindingLive s core x.cfg = true ∨ bindingQuiet s core x.cfg = false)) → exec (.drainComplete id) s = .next s) ∧
        ((x.st = .draining ∧ bindingLive s core x.cfg = false ∧ bindingQuiet s core x.cfg = true) →
          ∃ u, exec (.drainComplete id) s = .next (ended u q .data 0) ∧ u.mem = s.mem ∧ (u.core core).bindings =
            ((withBinding s core q.firing.ctx cfgid fun x => { x with st := .drained }).core core).bindings))) ∧
    (∀ core x y, core < 128 → (s.core core).failed.contains (x, y) = false → (∀ b ∈ (s.core core).bindings, b.st = .repairing) →
      (s.core core).bindings ≠ [] → exec (.spareRepair core x y) s = .next s) ∧
    (∀ core x y b a c, core < 128 → (s.core core).failed.contains (x, y) = true → (s.core core).bindings = [b] → b.st = .repairing →
      b.prior ≠ .repairing → (b.cfg.images.any fun i => i.x = x ∧ i.y = y) = true → spareFor (s.core core) b x y = some (a, c) →
      (s.core core).refused = [] → tagsAt ((s.core core).pe x y) b.cfg.ctx = [] → (∀ z ∈ (s.core core).strands, z.rerun ≠ 1) →
      ∃ t, exec (.spareRepair core x y) s = .next t ∧ t.mem = s.mem ∧ (t.core core).bindings = [{ moveImages b x y a c with st := b.prior }])

end

namespace Sys2Proof.Claim

open Sys2Proof Sys2Proof.Machine

/-! ## Pages -/

/-- Every request is performed, and no block holds a store. -/
def Still (s : State) : Prop :=
  (∀ q ∈ s.reqs, q.stage = .performed) ∧ ∀ k ∈ s.cores, ∀ t ∈ k.2.trestles, ∀ i, t.2 = .busy i → i.held = []

/-- The TLBs of a scope have dropped what an invalidation names, and no other TLB has dropped anything (R359, R370). -/
def Dropped (s u : State) (scope : Nat) (v : Inval) : Prop :=
  (∀ c, (u.core c).tlb = if c ∈ coresInScope s.cur.core scope then (s.core c).tlb.filter fun e => !v.tlb e else (s.core c).tlb) ∧
  ∀ k, (u.cluster k).tlb = if 4 ≤ scope ∧ 4 * k ∈ coresInScope s.cur.core scope then (s.cluster k).tlb.filter fun e => !v.tlb e
    else (s.cluster k).tlb

/-- A request with a number is no longer there. -/
def Gone (s : State) (id : Nat) : Prop := ∀ q ∈ s.reqs, q.id ≠ id

/-- No ordered atomic waits in a lane of a frame. -/
def NoLanes (s : State) (f : Nat) : Prop := ∀ q ∈ s.reqs, q.pa / 2 ^ 16 = f → q.stage ≠ .laneWait ∧ q.stage ≠ .laneRefused

/-- A mailbox whose command has ended with a status (R510). -/
def boxed (s : State) (m code : Nat) : State :=
  withMgmt s fun g =>
    let b := tabGet Mailbox.init m g.boxes
    { g with boxes := tabSet Mailbox.init m { b with bytes := tabSet 0 1 (BitVec.ofNat 8 code) b.bytes, pending := 0 } g.boxes }

end Sys2Proof.Claim

section

open Sys2Proof Sys2Proof.Machine Sys2Proof.Claim

/-! ## Pages -/

/-- R370 to R372, in a configuration: TLBINV and TLBINVA drop the translations they name from the TLBs of their scope, and with no access
under way answer a; BIASREQ answers 6 for no page, 4 for a frame that changes, 1 for the bias it has, and else changes the bias; PGMIG
answers 4, 13, 14 and 15 as R371 says, and else sets M in both leaves and copies; PGQRY answers the page word. The answers for a leaf with
M set and for both frames of a migration are the model's readings (log 34). -/
def Obligations.PageInstructions : Prop :=
  ∀ (h : Hdr) (s : State), Asks h s → s.cur.trestle = none →
    let v := (val s.cur.a).toNat
    let b := (val s.cur.b).toNat
    let ends (i : Instr) (n : Nat) : Host.Outcome State Fault Refusal :=
      .next (ended (waits s i (reqSrcOf s.cur)) (asking s i) .data (BitVec.ofNat 64 (n * 2 ^ 56)) true)
    (∀ sc : Fin 8, Still s → IsData s.cur.b → b < 2 ^ 12 → governs s s.cur.ctx b = true →
      ∃ u, exec (.tlbinv h sc) s = .next (ended u (asking s (.tlbinv h sc)) .data (val s.cur.a) true) ∧ u.mem = s.mem ∧
        Dropped s u sc.val ⟨some b, some v⟩) ∧
    (∀ sc : Fin 8, Still s → v < 2 ^ 12 → governs s s.cur.ctx v = true →
      ∃ u, exec (.tlbinva h sc) s = .next (ended u (asking s (.tlbinva h sc)) .data (val s.cur.a) true) ∧ u.mem = s.mem ∧
        Dropped s u sc.val ⟨some v, none⟩) ∧
    (∀ sc : Fin 8, Still s → v = 2 ^ 12 → (s.ctx s.cur.ctx).priv = .monitor →
      ∃ u, exec (.tlbinva h sc) s = .next (ended u (asking s (.tlbinva h sc)) .data (val s.cur.a) true) ∧ u.mem = s.mem ∧
        Dropped s u sc.val ⟨none, none⟩) ∧
    (IsData s.cur.b →
      (2 ≤ b → exec (.biasreq h) s = .next (answered s (both s h .error (val s.cur.a)))) ∧
      (b < 2 → leafAt s s.cur.ctx v = none → exec (.biasreq h) s = ends (.biasreq h) 6) ∧
      ∀ pa leaf level e, b < 2 → leafAt s s.cur.ctx v = some (pa, leaf, level, e) → pa < 2 ^ 52 → let x := s.frame (pa / 2 ^ 16)
        (x.st ≠ .stable → exec (.biasreq h) s = ends (.biasreq h) 4) ∧
        (x.st = .stable → x.hostBias = decide (b = 1) → exec (.biasreq h) s = ends (.biasreq h) 1) ∧
        (x.st = .stable → x.hostBias ≠ decide (b = 1) → NoLanes s (pa / 2 ^ 16) → (∀ l ∈ s.lines, l.2.half0 < 2 ∧ l.2.half1 < 2) →
          ∃ t, exec (.biasreq h) s = .next t ∧ (t.frame (pa / 2 ^ 16)).hostBias = decide (b = 1) ∧ (t.frame (pa / 2 ^ 16)).st = .stable ∧
            Gone t s.nextId)) ∧
    (IsData s.cur.b →
      (leafAt s s.cur.ctx v = none ∨ leafAt s s.cur.ctx b = none → exec (.pgmig h) s = ends (.pgmig h) 6) ∧
      ∀ pa la na ea pb lb nb eb, leafAt s s.cur.ctx v = some (pa, la, na, ea) → leafAt s s.cur.ctx b = some (pb, lb, nb, eb) →
        let f := pa / 2 ^ 16
        let g := pb / 2 ^ 16
        ((s.frame f).st ≠ .stable ∨ (s.frame g).st ≠ .stable → exec (.pgmig h) s = ends (.pgmig h) 4) ∧
        ((s.frame f).st = .stable → (s.frame g).st = .stable →
          (migLeaf la na = false ∨ migLeaf lb nb = false ∨ f = g → exec (.pgmig h) s = ends (.pgmig h) 13) ∧
          (migLeaf la na = true → migLeaf lb nb = true → f ≠ g →
            ((s.frame f).hostBias = true ∨ (s.frame g).hostBias = true → exec (.pgmig h) s = ends (.pgmig h) 14) ∧
            ((s.frame f).hostBias = false → (s.frame g).hostBias = false →
              (isRegistered s pa = true ∨ isRegistered s pb = true → exec (.pgmig h) s = ends (.pgmig h) 15) ∧
              (isRegistered s pa = false → isRegistered s pb = false → pa < 2 ^ 52 → pb < 2 ^ 52 → localPa s ea + 8 ≤ 2 ^ 52 →
                localPa s eb + 8 ≤ 2 ^ 52 →
                ∃ t, exec (.pgmig h) s = .next t ∧ (t.frame f).st = .copying ⟨g, s.nextId, s.cur.ctx, s.cur.core, v / 2 ^ 16 * 2 ^ 16,
                    b / 2 ^ 16 * 2 ^ 16, ea, eb, la.toNat + 2 ^ 10, lb.toNat + 2 ^ 10, 0⟩ ∧ (t.frame g).st = .staging s.nextId ∧
                  ∀ a, t.byte a =
                    if localPa s eb ≤ a ∧ a < localPa s eb + 8 then (bytesLE 8 (lb.toNat + 2 ^ 10)).getD (a - localPa s eb) 0
                    else if localPa s ea ≤ a ∧ a < localPa s ea + 8 then (bytesLE 8 (la.toNat + 2 ^ 10)).getD (a - localPa s ea) 0
                    else s.byte a))))) ∧
    (∀ pa leaf level e, leafAt s s.cur.ctx v = some (pa, leaf, level, e) → (s.frame (pa / 2 ^ 16)).st = .stable →
      let on (i k : Nat) : Nat := bit (leaf.getLsbD i) * 2 ^ k
      exec (.pgqry h) s = .next (sent s (both s h .data (BitVec.ofNat 64 (level * 2 ^ 61 + on 2 60 + on 3 59 + on 4 58 + on 5 57 + on 6 56 +
        on 7 55 + leafPolicy leaf * 2 ^ 53 + on 10 52 + on 52 51 + bit (s.frame (pa / 2 ^ 16)).hostBias * 2 ^ 49 +
        bit (isRegistered s pa) * 2 ^ 45 + stackOf (pa / 2 ^ 16 * 2 ^ 16) * 2 ^ 41 + Machine.homeSlice (pa / 2 ^ 16 * 2 ^ 16) * 2 ^ 32)))))

/-- R366, R367, R365, R510: a migration freezes once its 512 lines are copied; the end of freezing leaves both frames stable and its PGMIG
answered; a host's FLIP from the owner changes the bias of a stable frame, answers 1 for the bias it has and 6 for a frame that does not
exist; one that comes to a frame that changes waits. A FLIP to a frame that does not exist is the model's reading (log 34). -/
def Obligations.PageEvents : Prop :=
  ∀ s : State,
    (∀ id f m, migOf s id = some (f, m, false) → f < 2 ^ 36 →
      (m.next = 512 → exec (.copyingComplete id) s = .next (withFrame s f fun x => { x with st := .freezing m })) ∧
      (m.next ≠ 512 → exec (.copyingComplete id) s = .next s)) ∧
    (∀ id f m, migOf s id = some (f, m, true) → f < 2 ^ 36 → m.to_ < 2 ^ 36 →
      ∃ t, exec (.freezingComplete id) s = .next t ∧ (t.frame f).st = .stable ∧ (t.frame m.to_).st = .stable ∧ Gone t m.req) ∧
    (∀ m f host,
      (mayCommand s m = false ∨ (s.frame f).st ≠ .stable → exec (.flip m f host) s = .next s) ∧
      (mayCommand s m = true → (s.frame f).st = .stable →
        (576 * 2 ^ 14 ≤ f → exec (.flip m f host) s = .next (boxed s m 6)) ∧
        (f < 576 * 2 ^ 14 → (s.frame f).hostBias = host → exec (.flip m f host) s = .next (boxed s m 1)) ∧
        (f < 576 * 2 ^ 14 → (s.frame f).hostBias ≠ host → NoLanes s f → (∀ l ∈ s.lines, l.2.half0 < 2 ∧ l.2.half1 < 2) →
          ∃ t, exec (.flip m f host) s = .next t ∧ (t.frame f).hostBias = host ∧ (t.frame f).st = .stable ∧
            tabGet 0 1 (boxOf t m).bytes = 0)))

end

namespace Sys2Proof.Claim

open Sys2Proof Sys2Proof.Machine

/-! ## Hosts, resets and power -/

/-- The management state after a reset that keeps nothing, with a flash image that the boot ROM accepts or not (R505, R506). -/
def bootMgmt (flash : List Byte) : Mgmt :=
  { Mgmt.init with flash := flash, running := if imageAccepted flash then some flash else none, recovery := !imageAccepted flash }

/-- A cold reset: only the clock and the counters of the model go on. -/
def coldState (s : State) (flash : List Byte) : State :=
  { State.reset with clk := s.clk, agenda := s.agenda, freeCtr := s.freeCtr, nextId := s.nextId, order := s.order, mgmt := bootMgmt flash }

/-- A warm reset: what HBM holds, the firmware, ownership and the training of Active ports are kept (R505). -/
def warmState (s : State) : State :=
  { State.reset with
    clk := s.clk, agenda := s.agenda, freeCtr := s.freeCtr, nextId := s.nextId, order := s.order, mem := s.mem, bad := s.bad,
    saves := s.saves, links := keptLinks s.links
    mgmt := { Mgmt.init with
      flash := s.mgmt.flash, running := s.mgmt.running, owned := s.mgmt.owned, owner := s.mgmt.owner, epoch := s.mgmt.epoch,
      attached := s.mgmt.attached } }

end Sys2Proof.Claim

section

open Sys2Proof Sys2Proof.Machine Sys2Proof.Claim

/-! ## Hosts, resets and power -/

/-- R480, R514: the first CLAIM owns the module, and of two in one clk the lower master; the owner's HANDOVER gives it to an attached
successor, its DETACH and the lapse of its link end it; every change counts EPOCH. R508: QUOTE puts its record into the mailbox. R510,
R318: POST enters a context's job. The answers of a refused CLAIM and HANDOVER are the model's readings (log 20). -/
def Obligations.OwnershipAndHosts : Prop :=
  ∀ s : State,
    let g := s.mgmt
    let ps := portsOfMaster s g.owner.toNat
    (∀ m, m < 16 →
      (g.owned = false → exec (.claim m) s = .next (boxed (withMgmt s fun x => { x with
        owned := true, owner := BitVec.ofNat 4 m, epoch := x.epoch + 1, claimClk := some s.clk }) m 0)) ∧
      (g.owned = true → g.owner.toNat = m → exec (.claim m) s = .next (boxed s m 1)) ∧
      (g.owned = true → m < g.owner.toNat → g.claimClk = some s.clk → exec (.claim m) s =
        .next (boxed (boxed (withMgmt s fun x => { x with owner := BitVec.ofNat 4 m }) g.owner.toNat 4) m 0)) ∧
      (g.owned = true → g.owner.toNat ≠ m → (g.claimClk ≠ some s.clk ∨ g.owner.toNat < m) → exec (.claim m) s = .next (boxed s m 4))) ∧
    (∀ m succ,
      (mayCommand s m = false → exec (.handover m succ) s = .next s ∧ exec (.detach m) s = .next s) ∧
      (mayCommand s m = true →
        (succ < 16 → g.attached.getLsbD succ = true → exec (.handover m succ) s = .next (boxed (withMgmt s fun x => { x with
          owner := BitVec.ofNat 4 succ, epoch := x.epoch + 1, claimClk := none }) m 0)) ∧
        ((16 ≤ succ ∨ g.attached.getLsbD succ = false) → exec (.handover m succ) s = .next (boxed s m 6)) ∧
        exec (.detach m) s = .next (boxed (withMgmt s fun x => { x with
          owned := false, owner := 0, epoch := x.epoch + 1, claimClk := none, attached := x.attached &&& ~~~BitVec.ofNat 16 (2 ^ m) }) m 0))) ∧
    ((g.owned = true → ps ≠ [] → (∀ p ∈ ps, (s.link p).st = .down ∧ (s.link p).since + ctoClk s p < s.clk) →
        exec .ownershipLapse s = .next (withMgmt s fun x => { x with owned := false, owner := 0, epoch := x.epoch + 1, claimClk := none })) ∧
      ((g.owned = false ∨ ∃ p ∈ ps, (s.link p).st ≠ .down ∨ s.clk ≤ (s.link p).since + ctoClk s p) →
        exec .ownershipLapse s = .next s)) ∧
    (∀ m nonce,
      ((g.ready = false ∨ 16 ≤ m ∨ g.attached.getLsbD m = false) → exec (.quote m nonce) s = .next s) ∧
      (g.ready = true → m < 16 → g.attached.getLsbD m = true →
        ∃ t, exec (.quote m nonce) s = .next t ∧ tabGet 0 1 (boxOf t m).bytes = 0 ∧
          ∀ i, i < (quoteRecord s nonce).length → tabGet 0 (64 + i) (boxOf t m).bytes = (quoteRecord s nonce).getD i 0)) ∧
    (∀ m c (a : Word),
      ((mayCommand s m = false ∨ ctxMoves s c = false) → exec (.post m c a) s = .next s) ∧
      (mayCommand s m = true → ctxMoves s c = true →
        (a.toNat % 128 ≠ 0 → exec (.post m c a) s = .next (boxed s m 13)) ∧
        (∀ card e, a.toNat % 128 = 0 → walkRead s c 2 a.toNat = some card → cardCollective card = false → cardOk card [] = true →
          freeInbox (s.die (cardDie card)) = some e → cardDie card < 4 →
          ∃ t, exec (.post m c a) s = .next t ∧ tabGet 0 1 (boxOf t m).bytes = 0 ∧ t.mem = s.mem ∧
            ((t.die (cardDie card)).job e).used = true ∧ ((t.die (cardDie card)).job e).st = .posted ∧
            ((t.die (cardDie card)).job e).ctx = c ∧ ((t.die (cardDie card)).job e).card = card)))

/-- R505 to R507, R511, R512: power good and the owner's cold reset take every field to its Reset value with the flash's image verified; a
warm reset keeps what R505 names; firmware brings READY with context 0; STREAM of an accepted image resets with it; a step of accept each
21,000 clk; at 115 °C the cores stop. The digest is that of FIPS 180-4 and the signature is uninterpreted (log 4). -/
def Obligations.ResetsAndPower : Prop :=
  ∀ s : State, let g := s.mgmt
    exec .powerGood s = .next (coldState s g.flash) ∧
    (∀ m,
      (hostMayWrite s m = false → exec (.resetCold m) s = .next s ∧ exec (.resetWarm m) s = .next s) ∧
      (hostMayWrite s m = true → exec (.resetCold m) s = .next (coldState s g.flash) ∧
        (g.stopped = false → exec (.resetWarm m) s = .next (warmState s)) ∧ (g.stopped = true → exec (.resetWarm m) s = .next s))) ∧
    (g.ready = false → g.running ≠ none → ∃ t, exec .ready s = .next t ∧ t.mgmt = { g with ready := true, node := Config.nodeId } ∧
      (t.ctx 0).st = .idle ∧ (t.ctx 0).priv = .monitor ∧ (t.ctx 0).valid = true ∧ t.mem = s.mem) ∧
    ((g.ready = true ∨ g.running = none) → exec .ready s = .next s) ∧
    (∀ m len, let img := (List.range (min len (2 ^ 23))).map fun i => tabGet 0 i g.window
      ((g.owned = false ∨ g.owner.toNat ≠ m ∨ (boxOf s m).pending ≠ 0) → exec (.stream m len) s = .next s) ∧
      (g.owned = true → g.owner.toNat = m → (boxOf s m).pending = 0 →
        ((∃ x ∈ s.ctxs, ctxLive x.2 = true) → exec (.stream m len) s = .next (boxed s m 4)) ∧
        ((∀ x ∈ s.ctxs, ctxLive x.2 = false) →
          (len ≤ 2 ^ 23 → imageAccepted img = true → exec (.stream m len) s = .next (coldState s img)) ∧
          ((2 ^ 23 < len ∨ imageAccepted img = false) → exec (.stream m len) s = .next (boxed s m 3))))) ∧
    (∀ (w : BitVec 16) (tj : BitVec 8), let high := 2600 < w.toNat ∨ 105 ≤ tj.toNat
      let a := if high then g.accept.toNat - 1 else min 255 (g.accept.toNat + 1)
      (s.clk < g.thrClk + 21000 → exec (.throttleStep w tj) s = .next s) ∧
      (g.thrClk + 21000 ≤ s.clk → exec (.throttleStep w tj) s = .next (withMgmt s fun x => { x with
        watts := w, tj := tj, hot := decide (105 ≤ tj.toNat), accept := BitVec.ofNat 8 a, thr := decide (high ∨ a < 255), thrClk := s.clk }))) ∧
    ((g.tj.toNat < 115 ∨ g.stopped = true) → exec .thermalTrip s = .next s) ∧
    (115 ≤ g.tj.toNat → g.stopped = false → ∃ t, exec .thermalTrip s = .next t ∧ t.mgmt.stopped = true ∧ t.works = s.works ∧
      ((∀ x ∈ s.ctxs, ctxLive x.2 = false) → t = withMgmt s fun x => { x with stopped := true }))

end

namespace Sys2Proof.Claim

open Sys2Proof Sys2Proof.Machine

/-! ## Cuts -/

/-- No request has the next number. -/
def Fresh (s : State) : Prop := ∀ q ∈ s.reqs, q.id ≠ s.nextId

/-- Every frame's state is stable. -/
def StillPages (s : State) : Prop := ∀ x ∈ s.frames, x.2.st = .stable

/-- A context is Cutting for an operation, its sources on every core that holds something of it are stopped, and a MARKER is on its way to
each of its PEs there (R470, R471). -/
def CutBegins (s t : State) (c : Nat) (cut : Cut) : Prop :=
  (t.ctx c).st = .cutting ∧ (t.ctx c).cut = some cut ∧ t.mem = s.mem ∧ ∀ k ∈ coresOfCtx s c, k < 128 → c ∈ (t.core k).cutting ∧
    ∀ p ∈ pesOfCtx (s.core k) c, ∃ f ∈ (t.core k).flights, f.tok.kind = .marker ∧ f.ctx = c ∧ f.dest = .pe p.1 p.2

/-- The mailbox of a master whose command is under way. -/
def pending (s : State) (m cmd : Nat) : State :=
  withMgmt s fun g => { g with boxes := tabSet Mailbox.init m { tabGet Mailbox.init m g.boxes with pending := cmd } g.boxes }

/-- What keeps a context from being resumed: a live unit, an enabled queue, or no place for its image. -/
def Resumable (s : State) (c : Nat) : Prop :=
  ((s.ctx c).st = .idle ∨ (s.ctx c).st = .saved) ∧ (∀ w ∈ s.works, w.ctx ≠ c) ∧ (∀ q ∈ s.queues, q.2.ctx.toNat = c → q.2.st ≠ .enabled) ∧
    (s.ctx c).saveBase ≠ 0

end Sys2Proof.Claim

section

open Sys2Proof Sys2Proof.Machine Sys2Proof.Claim

/-! ## Cuts -/

/-- R470, R485, R510: MARK in a configuration, and the owner's CUT with operations 0, 1 and 2, answer 6 for an absent context, 7 for
MARK's own, 4 for one that moves between states and 1 for a cut of a Saved one; a cut or a checkpoint of an Idle or Running context makes
it Cutting and sends its MARKERs, and a resume makes it Resuming. R471 to R475: a cut completes once every PE of the context has met its
MARKER, no flight goes to one, and every access performed has delivered; then the context is Saving and nothing of it sleeps.
SAVE_IMAGE_WRITTEN keeps the image of that instant; a checkpointed context goes on, and one that was cut is Saved and has left the module.
A resume of no valid image leaves the context Saved; one of an image that finds its places brings its registers back and lets it go on.
Which PEs get a MARKER and which states a resume begins from are the model's readings (log 36). -/
def Obligations.Cuts : Prop :=
  ((∀ (h : Hdr) (s : State), Asks h s → s.cur.trestle = none → IsData s.cur.b → Fresh s →
     let a := (val s.cur.a).toNat
     let b := (val s.cur.b).toNat
     let x := s.ctx a
     let ends (n : Nat) : Host.Outcome State Fault Refusal :=
       .next (ended (waits s (.mark h) (reqSrcOf s.cur)) (asking s (.mark h)) .data (BitVec.ofNat 64 (n * 2 ^ 56)) true)
     ((2 ^ 12 ≤ a ∨ 2 ^ 5 ≤ b ∨ b % 4 = 3) → exec (.mark h) s = .next (answered s (both s h .error (val s.cur.a)))) ∧
     (a < 2 ^ 12 → b < 2 ^ 5 → b % 4 ≠ 3 → governs s s.cur.ctx a = true →
       (x.st = .absent → exec (.mark h) s = ends 6) ∧
       (x.st ≠ .absent → a = s.cur.ctx → exec (.mark h) s = ends 7) ∧
       (a ≠ s.cur.ctx →
         ((x.st = .cutting ∨ x.st = .saving ∨ x.st = .resuming) → exec (.mark h) s = ends 4) ∧
         (b % 4 = 2 → x.st = .running → exec (.mark h) s = ends 4) ∧
         (b % 4 = 2 → Resumable s a → exec (.mark h) s = .next (withCtx (withReq (waits s (.mark h) (reqSrcOf s.cur)) s.nextId fun y =>
           { y with aux := 1 }) a fun y => { y with st := .resuming, cut := some ⟨false, field b 4 2, some s.nextId, none⟩ })) ∧
         (b % 4 ≠ 2 → x.st = .saved → exec (.mark h) s = ends 1) ∧
         (b % 4 ≠ 2 → (x.st = .idle ∨ x.st = .running) → x.saveBase ≠ 0 → StillPages s → ∃ t, exec (.mark h) s = .next t ∧
           CutBegins s t a ⟨decide (b % 4 = 1), field b 4 2, some s.nextId, none⟩ ∧ ∃ q ∈ t.reqs, q.id = s.nextId)))) ∧
   (∀ (s : State) (m c cls : Nat), let x := s.ctx c
     ((mayCommand s m = false ∨ 4096 ≤ c ∨ 8 ≤ cls) →
       exec (.cut m c cls) s = .next s ∧ exec (.cutCheckpoint m c cls) s = .next s ∧ exec (.cutResume m c cls) s = .next s) ∧
     (mayCommand s m = true → c < 4096 → cls < 8 →
       (∀ n, (n = 6 ∧ x.st = .absent ∨ n = 4 ∧ (x.st = .cutting ∨ x.st = .saving ∨ x.st = .resuming)) →
         exec (.cut m c cls) s = .next (boxed s m n) ∧ exec (.cutCheckpoint m c cls) s = .next (boxed s m n) ∧
           exec (.cutResume m c cls) s = .next (boxed s m n)) ∧
       (x.st = .saved → exec (.cut m c cls) s = .next (boxed s m 1) ∧ exec (.cutCheckpoint m c cls) s = .next (boxed s m 1)) ∧
       (x.st = .running → exec (.cutResume m c cls) s = .next (boxed s m 4)) ∧
       (Resumable s c → exec (.cutResume m c cls) s = .next (withCtx (pending s m 4) c fun y =>
         { y with st := .resuming, cut := some ⟨false, cls, none, some m⟩ })) ∧
       ((x.st = .idle ∨ x.st = .running) → x.saveBase ≠ 0 → StillPages s →
         (∃ t, exec (.cut m c cls) s = .next t ∧ CutBegins s t c ⟨false, cls, none, some m⟩) ∧
         ∃ t, exec (.cutCheckpoint m c cls) s = .next t ∧ CutBegins s t c ⟨true, cls, none, some m⟩)))) ∧
  (∀ (s : State) (c : Nat), c < 4096 → let x := s.ctx c
     let isCut := x.st = .cutting ∧ pageBusy s c = false ∧ accessesCut s c = true ∧ ∀ k ∈ coresOfCtx s c, coreCut s c k = true
     (isCut → ∃ t, exec (.cutComplete c) s = .next t ∧ (t.ctx c).st = .saving ∧ (t.ctx c).cut = x.cut ∧ t.works = s.works) ∧
     (¬isCut → exec (.cutComplete c) s = .next s) ∧
     ((x.st ≠ .saving ∨ x.cut = none) → exec (.saveImageWritten c) s = .next s) ∧
     (∀ cut, x.st = .saving → x.cut = some cut → ∃ t, exec (.saveImageWritten c) s = .next t ∧ t.saves = imageOf s c :: s.saves ∧
       (t.ctx c).cut = none ∧
       (cut.checkpoint = true → (t.ctx c).st = (if s.works.any fun w => decide (w.ctx = c ∧ w.st = .live) then .running else .idle)) ∧
       (cut.checkpoint = false → (t.ctx c).st = .saved ∧ (∀ w ∈ t.works, w.ctx ≠ c) ∧ ∀ q ∈ t.reqs, q.firing.ctx ≠ c)) ∧
     ((x.st ≠ .resuming ∨ x.cut = none) → exec (.resumeComplete c) s = .next s) ∧
     (∀ cut, x.st = .resuming → x.cut = some cut →
       ((readImage s c = none ∨ x.ptroot = 0) → ∃ t, exec (.resumeComplete c) s = .next t ∧ (t.ctx c).st = .saved ∧ (t.ctx c).cut = none) ∧
       (∀ img r, readImage s c = some img → x.ptroot ≠ 0 → restoreCores c img.m img.cores (R.start s) = .ok r →
         ∃ t, exec (.resumeComplete c) s = .next t ∧ (t.ctx c).cut = none ∧ (t.ctx c).flags = img.regs.flags ∧
           (t.ctx c).priv = img.regs.priv ∧ (t.ctx c).wdog = img.regs.wdog ∧ ((t.ctx c).st = .running ∨ (t.ctx c).st = .idle))))

end

namespace Sys2Proof.Claim

open Sys2Proof Sys2Proof.Machine

/-! ## Events of the fabric -/

/-- A core that is no longer quiescent for a context. -/
def stirred (s : State) (core c : Nat) : State := withCore s core fun k => { k with quiet := k.quiet.filter (· ≠ c) }

/-- The PE accepts token b next, and it stands at instruction i. -/
def Heads (s : State) (core x y : Nat) (b : BufTok) (tr : Option Nat) (i : Instr) : Prop :=
  core < 128 ∧ nextHead s core x y = some b ∧ placeOf (s.core core) x y ((s.core core).pe x y) b = .at tr i

/-- No stored operand has the token's key, and no sticky token holds its place. -/
def KeyFree (p : Pe) (b : BufTok) : Prop :=
  ∀ e ∈ p.store ++ p.spill, stickyFor b.ctx b.tok e = false ∧ sameKey b.ctx b.tok e = false

/-- A PE without the token, which has gone where `f` says. -/
def moved (s : State) (core x y : Nat) (b : BufTok) (f : Pe → Pe) : State :=
  withPe (stirred s core b.ctx) core x y fun p => f { p with bufs := p.bufs.erase b }

/-- The routes of a core's images of a context at a PE, with their slots. -/
def routesAt (k : Core) (x y c : Nat) : List (Nat × Nat) :=
  k.bindings.flatMap fun b => if b.cfg.ctx = c then
    (b.cfg.images.filter fun i => decide (i.x = x ∧ i.y = y)).flatMap fun i => i.routes.map fun r => (i.slot, r)
  else []

end Sys2Proof.Claim

section

open Sys2Proof Sys2Proof.Machine Sys2Proof.Claim

/-! ## Events of the fabric -/

/-- R41 to R57: a PE with no head token that can act stays as it is. A PURGE removes the sticky token of its target, or waits there once;
a sticky token that meets a waiting PURGE goes with it; a token for an instruction that does not match makes it ready at once; a token
whose key or place is taken, or which lies 1,024 iterations from another of its slot and unit, stays in its buffer with TAG_ALIAS; any
other enters the store, and fires its instruction if it completes the operands; one with no entry and no overflow frame stops the PE. A
token without an image is discarded with SLOT_ABSENT. The port of an operand slot (log 6) and what the store counts (log 24) are the
model's choices. -/
def Obligations.TokensAreAccepted : Prop :=
  ∀ (s : State) (core x y : Nat), let p := (s.core core).pe x y
    (nextHead s core x y = none → exec (.tokenAccept core x y) s = .next s) ∧
    (∀ b, core < 128 → nextHead s core x y = some b → placeOf (s.core core) x y p b = .absent →
      ∃ t, exec (.tokenAccept core x y) s = .next t ∧ (t.core core).pe x y = { p with bufs := p.bufs.erase b } ∧ t.works = s.works) ∧
    (∀ b tr i, Heads s core x y b tr i → let sticky := (p.store ++ p.spill).any (stickyFor b.ctx b.tok)
      (b.tok.kind = .purge →
        (sticky = true → exec (.tokenAccept core x y) s = .next (moved s core x y b fun q => Pe.reopen { q with
          store := q.store.filter fun e => !stickyFor b.ctx b.tok e, spill := q.spill.filter fun e => !stickyFor b.ctx b.tok e })) ∧
        (sticky = false → exec (.tokenAccept core x y) s = .next (moved s core x y b fun q => { q with
          purges := if pkeyOf b.ctx b.tok ∈ q.purges then q.purges else q.purges ++ [pkeyOf b.ctx b.tok] }))) ∧
      (b.tok.kind ≠ .purge → nonMatching i = true → exec (.tokenAccept core x y) s = .next (moved s core x y b fun q => { q with
        ready := q.ready ++ [⟨core, x, y, b.ctx, tr, b.tok.tag, b.tok.idx, if b.tok.slot = .a then [b.tok] else [],
          if b.tok.slot = .a then [] else [b.tok], []⟩] })) ∧
      (b.tok.kind ≠ .purge → nonMatching i = false →
        (b.tok.action = .sticky → pkeyOf b.ctx b.tok ∈ p.purges → exec (.tokenAccept core x y) s = .next (moved s core x y b fun q =>
          { q with purges := q.purges.filter (· ≠ pkeyOf b.ctx b.tok) })) ∧
        (b.reported = false → (b.tok.action = .consume ∧ outOfWindow p b.ctx b.tok = true ∨
            (b.tok.action = .sticky → pkeyOf b.ctx b.tok ∉ p.purges) ∧ sticky = true) →
          ∃ t, exec (.tokenAccept core x y) s = .next t ∧ (t.core core).pe x y = { p with
            bufs := p.bufs.map fun z => if z = b then { z with reported := true } else z }) ∧
        (b.tok.action = .consume → outOfWindow p b.ctx b.tok = false → KeyFree p b →
          let new : Entry := ⟨b.ctx, [b.tok]⟩
          let f := readyFor (s.core core) { p with bufs := p.bufs.erase b, store := p.store ++ [new] } core x y b.ctx tr i b.tok.tag b.tok.idx
          (∀ g ∈ p.ready, ¬(g.ctx = b.ctx ∧ g.tag = b.tok.tag ∧ g.idx = b.tok.idx)) →
          (p.store.length < 64 ∨ f ≠ none → exec (.tokenAccept core x y) s = .next (moved s core x y b fun q => { q with
            store := q.store ++ [new], ready := q.ready ++ f.toList })) ∧
          (64 ≤ p.store.length → f = none → p.frames = [] → freeFrame s b.ctx = none → (s.ctx b.ctx).det = true →
            exec (.tokenAccept core x y) s = .next (withPe (stirred s core b.ctx) core x y fun q => { q with stopped := true })))))

/-- R52, R54, R58, R266, R271, R471, R479: a spilled operand comes back when the store has room; an assigned slot's image becomes
resident; a MARKER first on its way to a PE stops the PE's firings of its context, once, and goes on along every route of the context's
images there, while one at another tile but a FIFO ends there; a core that is not quiescent raises no fault; a compare of duplicated state
writes records and changes no agent. Where a MARKER ends is the model's reading (log 36). -/
def Obligations.FabricEvents : Prop :=
  ∀ (s : State) (core x y : Nat), core < 128 → let p := (s.core core).pe x y
    (p.spill = [] → exec (.spillRefill core x y) s = .next s) ∧
    (∀ e l, p.spill = e :: l → (s.ctx e.ctx).det = false → (64 ≤ p.store.length ∨ ctxMoves s e.ctx = false) →
      exec (.spillRefill core x y) s = .next s) ∧
    (∀ e l, p.spill = e :: l → (s.ctx e.ctx).det = false → p.store.length < 64 → ctxMoves s e.ctx = true →
      ∃ t, exec (.spillRefill core x y) s = .next t ∧ ((t.core core).pe x y).spill = l ∧ ((t.core core).pe x y).store = p.store ++ [e] ∧
        ((t.core core).pe x y).ready = p.ready) ∧
    (∀ n, (imageAt (s.core core) n x y = none ∨ p.resident.contains n = true → exec (.slotImageFetch core x y n) s = .next s) ∧
      (imageAt (s.core core) n x y ≠ none → p.resident.contains n = false →
        exec (.slotImageFetch core x y n) s = .next (withPe s core x y fun q => { q with resident := n :: q.resident }))) ∧
    (∀ n, (s.core core).flights.length ≤ n → exec (.markerArrival core n) s = .next s) ∧
    (∀ n f, (s.core core).flights[n]? = some f →
      let rest := withCore s core fun k => { k with flights := k.flights.eraseIdx n }
      (f.tok.kind ≠ .marker → exec (.markerArrival core n) s = .next s) ∧
      (f.tok.kind = .marker → f.dest = .pe x y → routeFirst (s.core core) n f = false → exec (.markerArrival core n) s = .next s) ∧
      (f.tok.kind = .marker → f.dest = .pe x y → routeFirst (s.core core) n f = true →
        (p.marked.contains f.ctx = true → exec (.markerArrival core n) s = .next rest) ∧
        (p.marked.contains f.ctx = false → ∃ t, exec (.markerArrival core n) s = .next t ∧
          (t.core core).pe x y = { p with marked := f.ctx :: p.marked } ∧ t.mem = s.mem ∧
          ∃ l, (t.core core).flights = (s.core core).flights.eraseIdx n ++ l ∧
            l.map (fun g => (g.tok.tag.slot.toNat, g.dest)) =
              ((routesAt (s.core core) x y f.ctx).filter (·.2 ≠ 0)).map fun r => (r.1 % 8, (routeDest r.2).1))) ∧
      (∀ cls m, f.tok.kind = .marker → f.dest = .tile cls m → cls ≠ 0 → exec (.markerArrival core n) s = .next rest) ∧
      (∀ m, f.tok.kind = .marker → f.dest = .port m → exec (.markerArrival core n) s = .next rest)) ∧
    (∀ c, (quiescentBut stalledReq s core c = false ∨ ctxMoves s c = false) → exec (.coreQuiescent core c) s = .next s) ∧
    (∀ c, quiescentBut stalledReq s core c = true → ctxMoves s c = true → c ∉ (s.core core).quiet → (s.core core).pes = [] →
      (s.core core).matrix.cmds = [] → (∀ q ∈ s.reqs, ¬(q.firing.core = core ∧ q.firing.ctx = c)) → (s.ctx c).pend = [] →
      exec (.coreQuiescent core c) s = .next (withCore s core fun k => { k with quiet := c :: k.quiet })) ∧
    (∀ c, quiescentBut stalledReq s core c = true → ctxMoves s c = true → ∃ t, exec (.coreQuiescent core c) s = .next t ∧
      c ∈ (t.core core).quiet ∧ (t.core core).flights = (s.core core).flights ∧ t.works = s.works) ∧
    (∀ cs, ∃ t, exec (.duplicatedStateCompare cs) s = .next t ∧ t.works = s.works ∧ t.queues = s.queues ∧
      (∀ k, (t.core k).pes = (s.core k).pes ∧ (t.core k).strands = (s.core k).strands) ∧
      ((∀ c ∈ cs, (s.ctx c).st = .absent) → t = s))

end

namespace Sys2Proof.Claim

open Sys2Proof Sys2Proof.Machine

/-! ## Leases, replicas and time -/

/-- The home slice of an address changes. -/
def withHome (s : State) (pa : Nat) (f : Slice → Slice) : State :=
  withDie s (homeDie pa) fun d => { d with slices := tabSet Slice.init (Machine.homeSlice pa) (f (d.slice (Machine.homeSlice pa))) d.slices }

/-- A load of one byte at a passes its checks of R173 at no address. -/
def Fails (s : State) : Prop := ∀ pa leaf, ¬ Passes s .rd false (val s.cur.a).toNat 1 pa leaf

/-- Status of RPLHINT: code and mask (R417). -/
def hinted (code mask : Nat) : Word := BitVec.ofNat 64 (code * 2 ^ 56 + mask % 16)

end Sys2Proof.Claim

section

open Sys2Proof Sys2Proof.Machine Sys2Proof.Claim

/-! ## Leases, replicas and time -/

/-- R415 to R418: LEASE answers a line's wts and an rts at or after its core's tick and the lease; TICKRD with selectors 1 and 2 answers
the ticks of the home line and of the core's copy; RPLHINT answers 14 for a frame in host bias, 4 for one that changes or when no entry is
to be had, and else withdraws a hold, adds its die to the replicas or collapses them; RPLCNT answers the tracker's word. Addresses that
fail a load's checks end in ERROR, in status 6 for RPLHINT. R397, R402, R404, R408: a core's tick moves by one, and with it the highest
tick, once every tickper × 64 clk while there is room for the tick; every tracker's counters are halved once every decay × 1,024 clk; a
rebase begins once a tick has come 28,672 past the floor, counts the reports of its scrubbers, and with the last of them raises the floor,
at home lines too. A tick is a natural number (log 11), and the tracker is that of the line's home slice (log 33). -/
def Obligations.TimeAndReplicas : Prop :=
  (∀ (h : Hdr) (s : State), Runs h s → IsData s.cur.a →
     let v := (val s.cur.a).toNat
     let core := s.cur.core
     let u := walked s v
     let told (w : State) (x : Word) : State := sent w (both s h .data x)
     let tick (hi lo : Nat) : Nat := hi % 2 ^ 16 * 2 ^ 16 + lo % 2 ^ 16
     (Fails s →
       (∀ x : Fin 4, x = 1 ∨ x = 2 → ∃ w, exec (.tickrd h x) s = .next (sent w (both s h .error (val s.cur.a))) ∧ w.mem = s.mem) ∧
       (∃ w, exec (.rplcnt h) s = .next (sent w (both s h .error (val s.cur.a))) ∧ w.mem = s.mem) ∧
       ∀ x, ∃ w, exec (.rplhint h x) s = .next (told w (hinted 6 0)) ∧ w.mem = s.mem) ∧
     (∀ pa leaf, Passes s .rd false v 1 pa leaf →
       let mts := max (s.homeSlice pa).mts s.mgmt.tf
       let line := s.line (pa / 128)
       let fr := s.frame (pa / 2 ^ 16)
       let cur := trackOf s pa
       let mask := match cur with
         | some t => t.mask
         | none => 0
       exec (.tickrd h 1) s = .next (told u (BitVec.ofNat 64 (if line.inL2 then 2 ^ 63 + tick line.wts line.rts else tick mts mts))) ∧
       (findCopy (s.core core).l1 (pa / 128) = none → exec (.tickrd h 2) s = .next (told u (BitVec.ofNat 64 (tick mts mts)))) ∧
       (∀ c, findCopy (s.core core).l1 (pa / 128) = some c → exec (.tickrd h 2) s = .next (told u (BitVec.ofNat 64 (2 ^ 63 +
         bit (decide (max (s.core core).pts s.mgmt.tf ≤ c.rts ∧ s.mgmt.tf ≤ c.wts)) * 2 ^ 62 + c.span % 2 ^ 16 * 2 ^ 32 + tick c.wts c.rts)))) ∧
       (cur = none → exec (.rplcnt h) s = .next (told u (BitVec.ofNat 64 (homeDie pa * 2 ^ 58 + 2 ^ 55)))) ∧
       (∀ t, cur = some t → let rd (d : Nat) : Nat := if d = homeDie pa then 0 else t.rd.getD d 0 % 256
         exec (.rplcnt h) s = .next (told u (BitVec.ofNat 64 (t.mask % 16 * 2 ^ 60 + homeDie pa * 2 ^ 58 +
           (1 + (List.range 4).countP fun d => t.mask.testBit d) * 2 ^ 55 + 2 ^ 54 + bit t.hold * 2 ^ 53 + t.wr % 256 * 2 ^ 40 +
           rd 3 * 2 ^ 32 + rd 2 * 2 ^ 24 + rd 1 * 2 ^ 16 + rd 0 * 2 ^ 8)))) ∧
       (fr.hostBias = true → ∀ x, exec (.rplhint h x) s = .next (told u (hinted 14 mask))) ∧
       (fr.hostBias = false → fr.st ≠ .stable → ∀ x, exec (.rplhint h x) s = .next (told u (hinted 4 mask))) ∧
       (fr.hostBias = false → fr.st = .stable →
         ((cur = none ∨ ∃ t, cur = some t ∧ t.hold = false) → exec (.rplhint h 0) s = .next (told u (hinted 1 mask))) ∧
         (∀ t, cur = some t → t.hold = true → homeDie pa < 4 → exec (.rplhint h 0) s = .next (told (withHome u pa fun x =>
           { x with tracks := setTrack x.tracks { t with hold := false } }) (hinted 0 mask))) ∧
         (trackEntry u pa = none → exec (.rplhint h 1) s = .next (told u (hinted 4 mask)) ∧
           exec (.rplhint h 2) s = .next (told u (hinted 4 mask))) ∧
         (∀ t l, trackEntry u pa = some (t, l) →
           ((leafRp leaf = false ∨ 2 ≤ leafPolicy leaf) → exec (.rplhint h 1) s = .next (told u (hinted 12 mask))) ∧
           (leafRp leaf = true → leafPolicy leaf < 2 →
             ((core / 32 = homeDie pa ∨ mask.testBit (core / 32) = true) → exec (.rplhint h 1) s = .next (told u (hinted 1 mask))) ∧
             (core / 32 ≠ homeDie pa → homeDie pa < 4 → mask.testBit (core / 32) = false → exec (.rplhint h 1) s = .next (told (withHome u pa fun x =>
               { x with tracks := setTrack l { t with hold := false, mask := t.mask ||| 2 ^ (core / 32) } })
                 (hinted 0 (t.mask ||| 2 ^ (core / 32)))))) ∧
           (homeDie pa < 4 → exec (.rplhint h 2) s = .next (told (withHome u pa fun x =>
             { x with tracks := setTrack l { t with hold := true, mask := 0, wr := 0 } }) (hinted 0 0)))))) ∧
     (IsData s.cur.b → Unheld s (reqSrcOf s.cur) → ∀ (n : Fin 256) (d : Bool),
       let len := if n.val = 0 then (s.ctx s.cur.ctx).lease.toNat else n.val
       let p := max (s.core core).pts s.mgmt.tf
       ((2 ^ 48 ≤ v ∨ 2 ^ 16 ≤ (val s.cur.b).toNat) → exec (.lease h n d) s = .next (answered s (both s h .error (val s.cur.a)))) ∧
       (v < 2 ^ 48 → (val s.cur.b).toNat < 2 ^ 16 → Fails s →
         ∃ w, exec (.lease h n d) s = .next (ended w (asking s (.lease h n d)) .error (val s.cur.a)) ∧ w.mem = s.mem) ∧
       (∀ pa leaf, (val s.cur.b).toNat < 2 ^ 16 → Passes s .rd false v 1 pa leaf → pa < 2 ^ 52 → Unowned s (pa / 128 * 128) 128 →
         p + len < s.mgmt.tf + 2 ^ 15 → ((s.ctx s.cur.ctx).det = false ∨ s.works = []) →
         ∃ t wts rts, exec (.lease h n d) s = .next t ∧ t.mem = s.mem ∧ SentTo s t (both s h .data (BitVec.ofNat 64 (tick wts rts))) ∧
           p + len ≤ rts ∧ Gone t s.nextId))) ∧
  (∀ s : State, let g := s.mgmt
     let tickper := g.rplctl.toNat / 2 ^ 32 % 2 ^ 16 * 64
     let decay := g.rplctl.toNat / 2 ^ 24 % 2 ^ 8 * 1024
     (∀ core, core < 128 → let k := s.core core
       let t := max k.pts g.tf + 1
       (tickper ≠ 0 → k.ptsClk + tickper ≤ s.clk → t < g.tf + 2 ^ 15 → exec (.ptsAdvance core) s = .next (withMgmt (withCore s core fun x =>
         { x with pts := t, ptsClk := x.ptsClk + tickper }) fun x => { x with m := max x.m t })) ∧
       ((tickper = 0 ∨ s.clk < k.ptsClk + tickper ∨ g.tf + 2 ^ 15 ≤ t) → exec (.ptsAdvance core) s = .next s)) ∧
     (decay ≠ 0 → g.decayClk + decay ≤ s.clk → ∃ t, exec .trackerDecay s = .next t ∧ t.mgmt = { g with decayClk := g.decayClk + decay } ∧
       t.mem = s.mem ∧ ∀ d n, d < 4 → ((t.die d).slice n).tracks = ((s.die d).slice n).tracks.map fun x =>
         { x with rd := x.rd.map (· / 2), wr := x.wr / 2 }) ∧
     ((decay = 0 ∨ s.clk < g.decayClk + decay) → exec .trackerDecay s = .next s) ∧
     (g.rebasing = none → g.tf + 28672 ≤ g.m → exec .rebase s = .next (withMgmt s fun x => { x with
       rebasing := some (max x.tf (x.m - 2 ^ 14)), scrubs := 0 })) ∧
     ((g.rebasing ≠ none ∨ (g.m < g.tf + 28672 ∧ ∀ q ∈ s.reqs, q.stage ≠ .issued ∧ q.stage ≠ .recalling)) → exec .rebase s = .next s) ∧
     (g.rebasing = none → exec .scrubReport s = .next s) ∧
     (∀ tf, g.rebasing = some tf →
       (g.scrubs + 1 < 1664 → exec .scrubReport s = .next (withMgmt s fun x => { x with scrubs := x.scrubs + 1 })) ∧
       (1664 ≤ g.scrubs + 1 → ∃ t, exec .scrubReport s = .next t ∧ t.mgmt = { g with tf := tf, rebasing := none, scrubs := 0 } ∧
         t.mem = s.mem ∧ ∀ n, n < 2 ^ 45 → t.line n = (if (s.line n).inL2 then
           { s.line n with wts := max (s.line n).wts tf, rts := max (s.line n).rts tf } else s.line n))))

end

namespace Sys2Proof.Claim

open Sys2Proof Sys2Proof.Machine

/-! ## Streams and merges -/

/-- A stream context of a port changes. -/
def withStream (s : State) (core p sc : Nat) (f : Stream → Stream) : State :=
  withCore s core fun k =>
    let y : PortTile := { k.port p with streams := tabSet Stream.init sc (f ((k.port p).stream sc)) (k.port p).streams }
    { k with ports := tabSet PortTile.init p y k.ports }

/-- A merge node changes. -/
def withNode (s : State) (core n : Nat) (f : MergeNode → MergeNode) : State :=
  withCore s core fun k => { k with nodes := tabSet MergeNode.init n (f (k.node n)) k.nodes }

/-- A memory tile changes. -/
def withTile (s : State) (core m : Nat) (f : MemTile → MemTile) : State :=
  withCore s core fun k => { k with tiles := tabSet MemTile.init m (f (k.tile m)) k.tiles }

/-- What a tile sends along a route entry: kind 00 leads to a PE and its operand slot, 01 to a tile, 10 to a port (R111). -/
def alongRoute (c : Nat) (src : Dest) (re : Nat) (t : Tok) : Flight :=
  ⟨{ t with slot := routeSlot re, idx := (routeDest re).2 }, c, src, (routeDest re).1⟩

/-- The state once a tile has sent a token. -/
def routed (s : State) (core c : Nat) (src : Dest) (re : Nat) (t : Tok) : State :=
  withCore s core fun k => { k with flights := k.flights ++ [alongRoute c src re t] }

/-- The state once the n-th flight of a core has entered a tile. -/
def landed (s : State) (core n c : Nat) : State :=
  withCore s core fun k => { k with flights := k.flights.eraseIdx n, quiet := k.quiet.filter (· ≠ c) }

/-- A stream's tag for its next token (R290). -/
def streamTag (t : Stream) : Tag := ⟨BitVec.ofNat 3 t.slot, t.unit, t.ibase + BitVec.ofNat 16 t.emitted⟩

/-- The stream that a descriptor's 128 bytes describe (R287, R288). -/
def described (l : List Byte) (c : Nat) (u : BitVec 13) (k : Nat) : Stream :=
  let ctl := fieldLE l 40 8
  { Stream.init with
    st := .running, ctx := c, unit := u, k := k, base := fieldLE l 0 8,
    counts := [fieldLE l 8 4, fieldLE l 12 4, fieldLE l 16 4, fieldLE l 20 4],
    strides := [sInt 32 (fieldLE l 24 4), sInt 32 (fieldLE l 28 4), sInt 32 (fieldLE l 32 4), sInt 32 (fieldLE l 36 4)],
    route := fieldLE l 48 4, croute := fieldLE l 52 4, cbase := fieldLE l 56 8, ustride := sInt 64 (fieldLE l 64 8),
    custride := sInt 64 (fieldLE l 72 8), ibase := BitVec.ofNat 16 (ctl / 2 ^ 48), ty := tyOf (ctl / 2 ^ 44 % 16), slot := ctl / 2 ^ 41 % 8,
    output := decide (ctl / 2 ^ 40 % 2 = 1), levels := ctl / 2 ^ 38 % 4, mode := ctl / 2 ^ 36 % 4,
    window := if ctl / 2 ^ 40 % 2 = 0 ∧ ctl / 2 ^ 28 % 256 = 0 then 32 else ctl / 2 ^ 28 % 256,
    burst := (match ctl / 2 ^ 24 % 4 with | 0 => 0 | 1 => 16 | 2 => 32 | _ => 64), pos := [0, 0, 0, 0] }

/-- A dense input stream without bursts passes the checks of R288. -/
def DenseInput (l : List Byte) : Prop :=
  let ctl := fieldLE l 40 8
  let levels := ctl / 2 ^ 38 % 4
  ctl / 2 ^ 40 % 2 = 0 ∧ ctl / 2 ^ 36 % 4 = 0 ∧ ctl / 2 ^ 24 % 4 = 0 ∧ ctl / 2 ^ 44 % 16 ≠ 14 ∧ ctl / 2 ^ 41 % 8 ≠ 7 ∧
    ctl / 2 ^ 26 % 4 = 0 ∧ ctl % 2 ^ 24 = 0 ∧ (∀ b ∈ l.drop 80, b = 0) ∧ fieldLE l 52 4 = 0 ∧
    (fieldLE l 48 4 / 2 ^ 30 % 4 = 0 ∨ fieldLE l 48 4 / 2 ^ 9 % 4 = 0) ∧
    (∀ j, j < 4 → levels < j → fieldLE l (8 + 4 * j) 4 = 0 ∧ fieldLE l (24 + 4 * j) 4 = 0) ∧
    fieldLE l 0 8 % accSize (tyOf (ctl / 2 ^ 44 % 16)) = 0

/-- The level-j run of a stream ends at its present element. -/
def RunEnds (t : Stream) (j : Nat) : Prop := ∀ i, i ≤ j → t.pos.getD i 0 + 1 = t.count i

/-- A dense stream of single elements, and the address of the element at its indices (R289). -/
def Dense (t : Stream) : Prop := t.mode = 0 ∧ t.ty ≠ .e2m1x16 ∧ t.pos.length = 4 ∧ t.levels < 4 ∧ ∀ j, j ≤ t.levels → t.pos.getD j 0 < t.count j
def elementVa (t : Stream) : Nat :=
  ((t.base + t.k * t.ustride + t.pos.getD 0 0 * t.strides.getD 0 0 + t.pos.getD 1 0 * t.strides.getD 1 0 +
    t.pos.getD 2 0 * t.strides.getD 2 0 + t.pos.getD 3 0 * t.strides.getD 3 0) % 2 ^ 64).toNat

/-- The stream of a context of a port moves: no fault holds the port, and its context runs. -/
def Streams (s : State) (core p sc : Nat) (t : Stream) (output : Bool) : Prop :=
  core < 128 ∧ ((s.core core).port p).stream sc = t ∧ t.st = .running ∧ t.output = output ∧ ctxMoves s t.ctx = true ∧
    ∀ q ∈ s.reqs, ¬(q.firing.core = core ∧ q.src = .port p ∧ q.stage = .held)

/-- A plain access of a stream, at an address within one line, passes the checks of R173 at pa. -/
def StreamPasses (s : State) (core c va n pa : Nat) (leaf : Word) (k : Acc3) : Prop :=
  va % 128 + n ≤ 128 ∧ pa % 128 + n ≤ 128 ∧ (checkAccess (R.start s) core c va n k false).2 = .ok pa leaf ∧ Unowned s pa n ∧ badBytes s pa n = false ∧
    pa + n ≤ 2 ^ 52 ∧ (leafT leaf = true ∨ (s.ctx c).tmen = false)

/-- A key stands before another (R299, R301): code 0 z32, 1 s32 and 2 f32 of bits [63:32], 3 z64. -/
def KeyBefore (key : Nat) (x y : Word) : Prop :=
  match key with
  | 0 => x.toNat / 2 ^ 32 < y.toNat / 2 ^ 32
  | 1 => sInt 32 (x.toNat / 2 ^ 32) < sInt 32 (y.toNat / 2 ^ 32)
  | 2 => ordLt (decodeFmt fmtF32 (x.toNat / 2 ^ 32)) (decodeFmt fmtF32 (y.toNat / 2 ^ 32)) = true
  | _ => x.toNat < y.toNat

/-- A node has tokens of its own unit at both heads, neither of them NULL. -/
def Decides (s : State) (core n : Nat) (a b : BufTok) (la lb : List BufTok) : Prop :=
  let nd := (s.core core).node n
  core < 128 ∧ nd.configured = true ∧ ctxMoves s nd.ctx = true ∧ nd.ina = a :: la ∧ nd.inb = b :: lb ∧ a.tok.kind ≠ .null ∧
    b.tok.kind ≠ .null ∧ a.ctx = nd.ctx ∧ b.ctx = nd.ctx ∧ a.tok.tag.unit = nd.unit ∧ b.tok.tag.unit = nd.unit

/-- What a node emits, with its next tag, and the heads it keeps. -/
def emits (s : State) (core n : Nat) (t : Tok) (la lb : List BufTok) : State :=
  let nd := (s.core core).node n
  routed (withNode s core n fun x => { x with emitted := x.emitted + 1, ina := la, inb := lb }) core nd.ctx (.tile 18 n) nd.route
    { t with action := .consume, tag := ⟨BitVec.ofNat 3 nd.slot, nd.unit, nd.ibase + BitVec.ofNat 16 nd.emitted⟩ }

end Sys2Proof.Claim

section

open Sys2Proof Sys2Proof.Machine Sys2Proof.Claim

/-! ## Streams and merges -/

/-- R287 to R292, R301: SOPEN opens a stream from its descriptor and answers its handle, and waits while the context holds one; SCLOSE
answers the elements moved and closes the stream, an input stream after its stop. An input stream emits the element at its indices, as far
as its window goes, owes the stop of the highest level whose run ends there, and closes at the stop of its top level. An output stream
takes a token, stores it at the element's address, and closes at a stop of its top level. The window's count and the answer of a Closed
stream's SCLOSE are the model's readings (log 27). -/
def Obligations.StreamsMove : Prop :=
  (∀ (h : Hdr) (s : State) (p : Fin 16) (sc : Fin 4), Runs h s → IsData s.cur.a → Unheld s (.port p.val) →
    let f := s.cur
    let t := ((s.core f.core).port p.val).stream sc.val
    ((t.st = .running ∨ t.st = .held) → exec (.sopen h p sc) s = .next (waits s (.sopen h p sc) (.port p.val))) ∧
    (t.st ≠ .running → t.st ≠ .held → ∀ (r u : R s) (l : List Byte), r.s = waits s (.sopen h p sc) (.port p.val) →
      vRead r f.core f.ctx (val f.a).toNat 128 128 = (u, .val l) → DenseInput l →
      exec (.sopen h p sc) s = .next (ended (withStream u.s f.core p.val sc.val fun _ =>
        described l f.ctx f.tag.unit (unitIndex s f.core f.ctx f.tag.unit)) (Req.new s.nextId (.sopen h p sc) f (.port p.val) .ctl) .data
          (BitVec.ofNat 64 (f.tag.unit.toNat * 2 ^ 16 + sc.val * 2 ^ 4 + p.val))))) ∧
  (∀ (h : Hdr) (s : State), Runs h s → IsData s.cur.a →
    (namedStream s s.cur (val s.cur.a) = none → exec (.sclose h) s = .next (sent s (both s h .error (val s.cur.a)))) ∧
    ∀ p sc t, namedStream s s.cur (val s.cur.a) = some (p, sc, t) →
      (t.st = .closed → t.output = false → exec (.sclose h) s = .next (sent s (both s h .data (BitVec.ofNat 64 t.done)))) ∧
      ((t.st = .running ∨ t.st = .held) → ∃ u, exec (.sclose h) s = .next u ∧ u.mem = s.mem ∧
        ((u.core s.cur.core).port p).stream sc = { t with st := .closed, early := [], early1 := [] } ∧
        (t.output = true → SentTo s u (both s h .data (BitVec.ofNat 64 t.done))) ∧
        (t.output = false → t.mode = 0 → (u.core s.cur.core).flights = (s.core s.cur.core).flights ++
          alongRoute t.ctx (.port (16 + 8 * p + 2 * sc)) t.route
            ⟨.stop (Fin.ofNat 4 t.levels), .consume, false, false, .a, 0, streamTag t, BitVec.ofNat 64 t.done⟩ ::
          (both s h .data (BitVec.ofNat 64 t.done)).filterMap (flightOf s s.cur)))) ∧
  (∀ (s : State) (core p sc : Nat) (t : Stream), Streams s core p sc t false → Dense t →
    (t.owed = none → unaccepted (s.core core) p sc t < t.window → ∀ pa leaf, StreamPasses s core t.ctx (elementVa t) (accSize t.ty) pa leaf .rd →
      ∃ u x, exec (.streamElement core p sc) s = .next u ∧ u.mem = s.mem ∧ ((u.core core).port p).stream sc = x ∧
        (u.core core).flights = (s.core core).flights ++ [alongRoute t.ctx (.port (16 + 8 * p + 2 * sc)) t.route
          ⟨(readValue t.ty (s.bytes pa (accSize t.ty))).1, .consume, false, false, .a, 0, streamTag t,
            (readValue t.ty (s.bytes pa (accSize t.ty))).2⟩] ∧
        x.done = t.done + 1 ∧ x.emitted = t.emitted + 1 ∧
        (¬ RunEnds t 0 → x.owed = none ∧ x.pos = t.pos.set 0 (t.pos.getD 0 0 + 1)) ∧
        (∀ j, j ≤ t.levels → RunEnds t j → (j = t.levels ∨ ¬ RunEnds t (j + 1)) → x.owed = some j ∧ (∀ i, i ≤ j → x.pos.getD i 0 = 0) ∧
          (j < t.levels → x.pos.getD (j + 1) 0 = t.pos.getD (j + 1) 0 + 1))) ∧
    (t.owed = none → t.window ≤ unaccepted (s.core core) p sc t → exec (.streamElement core p sc) s = .next s) ∧
    (∀ j, t.owed = some j → j < 4 →
      ∃ u, exec (.streamElement core p sc) s = .next u ∧ u.mem = s.mem ∧
        (u.core core).flights = (s.core core).flights ++ [alongRoute t.ctx (.port (16 + 8 * p + 2 * sc)) t.route
          ⟨.stop (Fin.ofNat 4 j), .consume, false, false, .a, 0, streamTag t, BitVec.ofNat 64 ((List.range (j + 1)).map t.count).prod⟩] ∧
        ((u.core core).port p).stream sc = (if j = t.levels then { t with owed := none, emitted := t.emitted + 1, st := .closed, early := [], early1 := [] }
          else { t with owed := none, emitted := t.emitted + 1 }))) ∧
  (∀ (s : State) (core p sc : Nat) (t : Stream) (b : BufTok), Streams s core p sc t true → t.mode = 0 → t.ty ≠ .e2m1x16 →
    t.early = [] → t.early1 = [] → (∀ x ∈ ((s.core core).port p).bufs, x.tok.idx ≠ 2 * sc + 1) →
    ((s.core core).port p).bufs.find? (fun x => x.tok.idx = 2 * sc) = some b → b.ctx = t.ctx → b.tok.tag.unit = t.unit →
    b.tok.tag.iter = t.ibase + BitVec.ofNat 16 t.emitted → b.tok.poison = false →
    let bufs := ((s.core core).port p).bufs.erase b
    (∀ l, b.tok.kind = .stop l → ∃ u, exec (.outputStreamToken core p sc) s = .next u ∧ u.mem = s.mem ∧ ((u.core core).port p).bufs = bufs ∧
      (t.levels ≤ l.val → (((u.core core).port p).stream sc).st = .closed) ∧
      (l.val < t.levels → ((u.core core).port p).stream sc = { t with emitted := t.emitted + 1, pos := t.afterStop l.val })) ∧
    ((b.tok.kind = .data ∨ b.tok.kind = .error) →
      (t.count 0 ≤ t.pos.getD 0 0 → ∃ u, exec (.outputStreamToken core p sc) s = .next u ∧ u.mem = s.mem ∧ ((u.core core).port p).bufs = bufs ∧
        ((u.core core).port p).stream sc = { t with emitted := t.emitted + 1, pos := t.pos.set 0 (t.pos.getD 0 0 + 1), overrun := true }) ∧
      (t.pos.getD 0 0 < t.count 0 → ∀ pa leaf, StreamPasses s core t.ctx (elementVa t) (accSize t.ty) pa leaf .wr →
        ∃ u, exec (.outputStreamToken core p sc) s = .next u ∧ Wrote s u pa (storeBytes t.ty b.tok) ∧ ((u.core core).port p).bufs = bufs ∧
          ((u.core core).port p).stream sc = { t with
            emitted := t.emitted + 1, pos := t.pos.set 0 (t.pos.getD 0 0 + 1), done := t.done + 1 })))

/-- R297 to R301, R268: MRG sends the token whose key stands first to t0 and the other to t1, an ERROR before everything; CRD packs a
coordinate and a value; MRGCFG configures a node that holds no token. A node buffers tokens, and once it holds both heads emits one of
them, or the sum of two stops. A FIFO tile passes its tokens on in order, and an island maps the bytes of a DATA token. The keys of a type
and a NaN key are the model's readings (log 22). -/
def Obligations.MergesAndTiles : Prop :=
  (∀ (h : Hdr) (s : State), Sane s → Fires h s.cur →
    let a := opTok s.cur.a
    let b := opTok s.cur.b
    let two (x y : Tok) : Host.Outcome State Fault Refusal :=
      .next (sent s (toAll s [h.t0] x.kind x.value ++ toAll s [h.t1] y.kind y.value))
    (∀ (e : Ty × Nat) (d : Bool), e ∈ [(Ty.s64, 1), (.z64, 0), (.f32x2, 2)] →
      (a.kind = .data → b.kind = .data →
        let first := if d then KeyBefore e.2 a.value b.value else KeyBefore e.2 b.value a.value
        (first → exec (.mrg h e.1 d) s = two b a) ∧ (¬ first → exec (.mrg h e.1 d) s = two a b)) ∧
      (a.kind = .error → (b.kind = .data ∨ b.kind = .error) → exec (.mrg h e.1 d) s = two a b) ∧
      (a.kind = .data → b.kind = .error → exec (.mrg h e.1 d) s = two b a)) ∧
    (a.kind = .data → b.kind = .data →
      (∀ ty, exec (.crd h ty) s = .next (sent s (both s h .data
        (BitVec.ofNat 64 (a.value.toNat % 2 ^ 32 * 2 ^ 32 + b.value.toNat % 2 ^ 32))))) ∧
      (s.cur.carry = false → let n := a.value.toNat % 16
        let nd := (s.core s.cur.core).node n
        a.value.toNat / 16 % 2 ^ 28 = 0 → b.value.toNat % 2 ^ 29 = 0 →
        (nd.configured = true → (nd.ina ≠ [] ∨ nd.inb ≠ []) →
          exec (.mrgcfg h) s = .next (sent s (both s h .data (BitVec.ofNat 64 (4 * 2 ^ 56))))) ∧
        ((nd.configured = false ∨ nd.ina = [] ∧ nd.inb = []) →
          exec (.mrgcfg h) s = .next (sent (withNode s s.cur.core n fun x =>
            { x with configured := true, ctx := s.cur.ctx, route := a.value.toNat / 2 ^ 32, slot := b.value.toNat / 2 ^ 61,
                     unit := BitVec.ofNat 13 (b.value.toNat / 2 ^ 48), ibase := BitVec.ofNat 16 (b.value.toNat / 2 ^ 32),
                     key := b.value.toNat / 2 ^ 30 % 4, desc := decide (b.value.toNat / 2 ^ 29 % 2 = 1), emitted := 0 })
              (both s h .data 0)))))) ∧
  (∀ (s : State) (core n : Nat) (x : Flight), core < 128 → tileFlight s core n = some x → ctxMoves s x.ctx = true →
    (∀ t, x.dest = .tile 2 t → t < 2 → x.tok.idx < 16 →
      let m := 8 * t + x.tok.idx / 2
      let nd := (s.core core).node m
      (x.tok.idx % 2 = 0 → nd.ina.length < 8 → exec (.mergeInput core n) s = .next (withNode (landed s core n x.ctx) core m fun y =>
        { y with ina := y.ina ++ [⟨x.tok, x.ctx, false⟩] })) ∧
      (x.tok.idx % 2 = 1 → nd.inb.length < 8 → exec (.mergeInput core n) s = .next (withNode (landed s core n x.ctx) core m fun y =>
        { y with inb := y.inb ++ [⟨x.tok, x.ctx, false⟩] }))) ∧
    (∀ m, x.dest = .tile 0 m → m < 32 → x.tok.idx = 0 → ((s.core core).tile m).role = 2 →
      (((s.core core).tile m).fifo.length < 4096 → exec (.fifoAccept core n) s = .next (withTile (landed s core n x.ctx) core m fun y =>
        { y with fifo := y.fifo ++ [(x.tok, x.ctx)] })) ∧
      (4096 ≤ ((s.core core).tile m).fifo.length → exec (.fifoAccept core n) s = .next s)) ∧
    (∀ i, i < 4 → ((s.core core).tile (28 + i)).role = 1 →
      (s.core core).flights.findIdx? (fun y => decide (y.dest = .tile 4 i ∧ y.tok.kind ≠ .marker)) = some n →
      let tab (o : Nat) : Byte := tabGet 0 o ((s.core core).tile (28 + i)).bytes
      let re := ofBytesLE ((List.range 4).map fun j => tab (2048 + j))
      let w := BitVec.ofNat 64 (ofBytesLE ((List.range 8).map fun j => tab (256 * j + x.tok.value.toNat / 2 ^ (8 * j) % 256)))
      (x.tok.kind ≠ .data → exec (.formatIsland core i) s = .next (routed (landed s core n x.ctx) core x.ctx (.tile 20 i) re x.tok)) ∧
      (x.tok.kind = .data → exec (.formatIsland core i) s = .next (routed (landed s core n x.ctx) core x.ctx (.tile 20 i) re
        { x.tok with value := w, kind := if anyNaN (tyOf ((tab 2052).toNat % 16)) w then .error else .data })))) ∧
  (∀ (s : State) (core m : Nat) (x : Tok) (c : Nat) (l : List (Tok × Nat)), core < 128 → ((s.core core).tile m).fifo = (x, c) :: l →
    ((s.core core).tile m).role = 2 → ctxMoves s c = true → fifoRoute (s.core core) m ≠ 0 →
    exec (.fifoEmit core m) s = .next (routed (withTile s core m fun y => { y with fifo := l }) core c (.tile 16 m) (fifoRoute (s.core core) m) x)) ∧
  (∀ (s : State) (core n : Nat) (a b : BufTok) (la lb : List BufTok), Decides s core n a b la lb →
    let nd := (s.core core).node n
    let out (t : Tok) (x y : List BufTok) : Prop := exec (.mergeNodeDecision core n) s = .next (emits s core n t x y)
    (∀ i j, a.tok.kind = .stop i → b.tok.kind = .stop j → out { a.tok with
      kind := .stop (max i j), value := a.tok.value + b.tok.value, poison := a.tok.poison || b.tok.poison,
      carry := a.tok.carry || b.tok.carry } la lb) ∧
    (∀ i, a.tok.kind = .stop i → (b.tok.kind = .data ∨ b.tok.kind = .error) → out b.tok (a :: la) lb) ∧
    (∀ i, b.tok.kind = .stop i → (a.tok.kind = .data ∨ a.tok.kind = .error) → out a.tok la (b :: lb)) ∧
    (a.tok.kind = .error → (b.tok.kind = .data ∨ b.tok.kind = .error) → out a.tok la (b :: lb)) ∧
    (a.tok.kind = .data → b.tok.kind = .error → out b.tok (a :: la) lb) ∧
    (a.tok.kind = .data → b.tok.kind = .data →
      let first := if nd.desc then KeyBefore nd.key a.tok.value b.tok.value else KeyBefore nd.key b.tok.value a.tok.value
      (first → out b.tok (a :: la) lb) ∧ (¬ first → out a.tok la (b :: lb))))

end

namespace Sys2Proof.Claim

open Sys2Proof Sys2Proof.Machine

/-! ## The matrix tile -/

/-- The core once a command has left the tile's store. -/
def taken (s : State) (core n : Nat) : State := withMatrix s core fun m => { m with cmds := m.cmds.eraseIdx n }

/-- The state once a command has sent its tokens. -/
def told (s : State) (c : MCmd) (k : Kind) (v : Word) (carry : Bool := false) : State :=
  sentBy s c.firing (tokens (hdrOfInstr c.instr) c.firing k v k v carry)

/-- Command n of a tile's store, of a configuration, is examined: nothing runs, but an operation may be held. -/
def Examined (s : State) (core n : Nat) (c : MCmd) : Prop :=
  let m := (s.core core).matrix
  core < 128 ∧ n < 16 ∧ m.cmds[n]? = some c ∧ tileMoves s m = true ∧ ctxMoves s c.firing.ctx = true ∧ c.firing.core = core ∧
    c.firing.trestle = none ∧ (m.run = none ∨ m.st = .held)

/-- The command's unit owns the tile. -/
def Owns (m : MTile) (c : MCmd) : Prop := m.owner = some (c.firing.ctx, c.firing.tag.unit)

/-- The value of a command's operand at a and at b. -/
def cmdA (c : MCmd) : Nat := (val c.firing.a).toNat
def cmdB (c : MCmd) : Nat := (val c.firing.b).toNat

/-- The pairs of weight and activation types of R303. -/
def pairs : List (Nat × Nat) := [(12, 12), (12, 13), (13, 12), (13, 13), (6, 6), (6, 7), (7, 6), (7, 7), (10, 10), (11, 11), (14, 14)]

/-- An activation row has been applied to an accumulator row (R306). -/
def RowApplied (m x : MTile) (row : Nat) (l : List Byte) : Prop :=
  (∀ i c, c < m.cols → x.acc i c = if i = row then (if row ∈ m.written then .error else (accAdd m.isInt (m.acc row c) (m.dot l c)).1)
    else m.acc i c) ∧ ∀ i, i ∈ x.written ↔ i = row ∨ i ∈ m.written

/-- The bytes that store k of an MRDO writes (R309, R310): 128 bytes of the rows' entries in order. -/
def readOut (m : MTile) (row0 oty es sat k : Nat) : List Byte :=
  (List.range (128 / es)).flatMap fun j =>
    bytesLE es (readEntry m.isInt oty (decide (sat = 1)) (m.acc (row0 + (128 / es * k + j) / m.cols) ((128 / es * k + j) % m.cols))).1

/-- An operation of a tile goes on: one of a configuration, of a context that runs. -/
def GoesOn (s : State) (core : Nat) (c : MCmd) : Prop :=
  let m := (s.core core).matrix
  core < 128 ∧ m.run = some c ∧ m.st ≠ .held ∧ tileMoves s m = true ∧ c.firing.core = core ∧ c.firing.trestle = none

end Sys2Proof.Claim

section

open Sys2Proof Sys2Proof.Machine Sys2Proof.Claim

/-! ## The matrix tile -/

/-- R304, R309, R310: a matrix instruction puts its command into the tile's store. R304 to R306, R310, R313: a command of no owner is
turned away unless it is an MCFG, which takes the tile with the types it names, answers BUSY over a held operation and REJECTED for a pair
that is none; MWLD begins to load the shadow plane; MWSWAP makes it the active one under its tag as generation; MZERO clears rows;
commands whose condition does not hold wait, and those beyond the tile's limits end in ERROR. When a command's limits are checked is the
model's reading (log 28). -/
def Obligations.MatrixCommands : Prop :=
  (∀ (h : Hdr) (s : State), Runs h s → IsData s.cur.a →
    let stored (i : Instr) : Host.Outcome State Fault Refusal := .next (withMatrix s s.cur.core fun m => { m with cmds := m.cmds ++ [⟨i, s.cur, 0⟩] })
    (∀ l, exec (.mwld h l) s = stored (.mwld h l)) ∧ exec (.mwswap h) s = stored (.mwswap h) ∧
      exec (.mzero h) s = stored (.mzero h) ∧ exec (.mcfg h) s = stored (.mcfg h) ∧
      (IsData s.cur.b → exec (.mstr h) s = stored (.mstr h) ∧ (s.cur.poison = false → exec (.mrdo h) s = stored (.mrdo h)))) ∧
  (∀ (s : State) (core n : Nat) (c : MCmd), Examined s core n c →
    let m := (s.core core).matrix
    let a := cmdA c
    let b := cmdB c
    let t := c.firing.tag.iter
    let gone := taken s core n
    let fires (u : State) : Prop := exec (.matrixCommandFire core n) s = .next u
    (∀ h, c.instr = .mcfg h → (m.owner = none ∨ Owns m c) →
      ((m.st = .held ∨ m.loadHeld = true) → fires (told gone c .data (BitVec.ofNat 64 (4 * 2 ^ 56)))) ∧
      (m.st ≠ .held → m.loadHeld = false → m.run = none →
        (a % 2 ^ 56 = 0 → (a / 2 ^ 60, a / 2 ^ 56 % 16) ∈ pairs → (m.load = none ∨ m.owner = none) →
          fires (told (withMatrix gone core fun x => { MTile.init with
            owner := some (c.firing.ctx, c.firing.tag.unit), st := .idle, wty := tyOf (a / 2 ^ 60), aty := tyOf (a / 2 ^ 56 % 16), gen := t,
            cmds := x.cmds }) c .data 0)) ∧
        (Owns m c → m.load ≠ none → fires s) ∧
        ((a % 2 ^ 56 ≠ 0 ∨ (a / 2 ^ 60, a / 2 ^ 56 % 16) ∉ pairs) → (m.load = none ∨ m.owner = none) →
          ∃ u, fires u ∧ (u.core core).matrix = (gone.core core).matrix))) ∧
    (m.owner = none → ((∃ h l, c.instr = .mwld h l) ∨ ∃ h, c.instr = .mwswap h ∨ c.instr = .mstr h ∨ c.instr = .mrdo h ∨ c.instr = .mzero h) →
      fires (told gone c .error (val c.firing.a))) ∧
    (∀ o, m.owner = some o → ¬ Owns m c → fires s) ∧
    (Owns m c →
      (∀ h l, c.instr = .mwld h l →
        (a % 128 ≠ 0 → fires (told gone c .error (val c.firing.a))) ∧
        (a % 128 = 0 → m.sst = .empty → m.st ≠ .held →
          fires (withMatrix gone core fun x => { x with sst := .loading, load := some c })) ∧
        (a % 128 = 0 → m.sst ≠ .empty → fires s)) ∧
      (∀ h, c.instr = .mwswap h → a < 2 ^ 16 →
        (m.run = none → m.sst = .full → a ≤ m.d → fires (told (withMatrix gone core fun x => { x with
          plane := x.shadow, pst := .full, shadow := [], sst := .empty, gen := t, d := 0, written := [], ready := some t }) c .data
            (t.setWidth 64))) ∧
        ((m.sst ≠ .full ∨ m.d < a) → fires s)) ∧
      (∀ h, c.instr = .mstr h →
        ((b % 2 ^ 47 ≠ 0 ∨ m.rows < b / 2 ^ 48 % 2 ^ 8 + b / 2 ^ 56 + 1 ∨ a % (if m.isE2m1 then 2 else 128) ≠ 0) →
          fires (told gone c .error (val c.firing.a))) ∧
        (b % 2 ^ 47 = 0 → b / 2 ^ 48 % 2 ^ 8 + b / 2 ^ 56 + 1 ≤ m.rows → a % (if m.isE2m1 then 2 else 128) = 0 →
          (m.gen ≠ t ∨ m.ready ≠ some t) → fires s)) ∧
      (∀ h, c.instr = .mrdo h →
        ((b % 2 ^ 26 ≠ 0 ∨ m.rows < b / 2 ^ 26 % 2 ^ 8 + b / 2 ^ 34 % 2 ^ 8 + 1 ∨ a % 128 ≠ 0 ∨ otySize m.isInt (b / 2 ^ 44 % 16) = 0) →
          fires (told gone c .error (val c.firing.a)))) ∧
      (∀ h, c.instr = .mzero h → let row0 := a / 2 ^ 26 % 2 ^ 8
        let rows := a / 2 ^ 34 % 2 ^ 8 + 1
        a % 2 ^ 26 = 0 → a / 2 ^ 42 % 2 ^ 6 = 0 →
        (m.rows < row0 + rows → fires (told gone c .error (val c.firing.a))) ∧
        (row0 + rows ≤ m.rows → (m.gen ≠ t ∨ m.d < a / 2 ^ 48) → fires s) ∧
        (row0 + rows ≤ m.rows → m.run = none → m.gen = t → a / 2 ^ 48 ≤ m.d → ∃ x : MTile,
          fires (told (withMatrix gone core fun _ => x) c .data (val c.firing.a)) ∧ x.written = m.written ∧
            ∀ i k, k < m.cols → x.acc i k = if row0 ≤ i ∧ i < row0 + rows then .val 0 else m.acc i k))))

/-- R303, R306, R307: an operation applies its activation rows, and with the last of them counts in D and answers the number of rows;
entries of s32 take the saturated sum of the products, a row written twice becomes ERROR. R310: a readout stores its rows in parts of 128
bytes, clears what it stored if asked, and answers a as a completion. PLANE_LOAD_COMPLETE: the shadow plane holds the image read. The size
of a readout's parts is the model's reading (log 28). -/
def Obligations.MatrixOperations : Prop :=
  (∀ (m : MTile) (l : List Byte) (col acc : Nat), acc < 2 ^ 32 → (m.wty = .s8x8 ∨ m.wty = .z8x8) → (m.aty = .s8x8 ∨ m.aty = .z8x8) →
    let byte (x : List Byte) (i : Nat) : Nat := fieldLE x i 1
    let sum : Int := ((List.range 128).map fun k => readInt m.aty (byte l k) * readInt m.wty (byte m.plane (256 * k + col))).sum
    (accAdd m.isInt (.val acc) (m.dot l col)).1 = .val (wrapInt 32 (max (-2 ^ 31) (min (2 ^ 31 - 1) (sInt 32 acc + sum))))) ∧
  (∀ (s : State) (core n : Nat) (c : MCmd), GoesOn s core c →
    let m := (s.core core).matrix
    let b := cmdB c
    (∀ (h : Hdr) (u : R s) (l : List Byte), c.instr = .mstr h → c.done = b / 2 ^ 56 →
      tileRead (R.start s) c (cmdA c + c.done * m.rowBytes) m.rowBytes (decide (b / 2 ^ 47 % 2 = 1)) = (u, .val (l, false)) →
      ∃ t, exec (.matrixCommandFire core n) s = .next t ∧ t.mem = s.mem ∧ RowApplied m (t.core core).matrix (b / 2 ^ 48 % 2 ^ 8 + c.done) l ∧
        (t.core core).matrix.run = none ∧ (t.core core).matrix.st = .idle ∧ (t.core core).matrix.d = m.d + 1 ∧
        (t.core core).flights = (s.core core).flights ++ (tokens h c.firing .data (BitVec.ofNat 64 (b / 2 ^ 56 + 1)) .data
          (BitVec.ofNat 64 (b / 2 ^ 56 + 1)) false).filterMap (flightOf s c.firing)) ∧
    (∀ (h : Hdr) (u : R s) (pa : Nat) (leaf : Word), c.instr = .mrdo h →
      let es := otySize m.isInt (b / 2 ^ 44 % 16)
      let row0 := b / 2 ^ 26 % 2 ^ 8
      es ≠ 0 → c.done + 1 = (b / 2 ^ 34 % 2 ^ 8 + 1) * m.cols * es / 128 → ((s.ctx c.firing.ctx).det = false ∨ s.works = []) →
      vPrep (R.start s) core c.firing.ctx (cmdA c + 128 * c.done) 128 128 .wr = (u, .val (pa, leaf)) → pa + 128 ≤ 2 ^ 52 →
      (leafT leaf = true ∨ (s.ctx c.firing.ctx).tmen = false) →
      ∃ t, exec (.matrixCommandFire core n) s = .next t ∧ Wrote s t pa (readOut m row0 (b / 2 ^ 44 % 16) es (b / 2 ^ 42 % 2) c.done) ∧
        (t.core core).matrix.run = none ∧ (t.core core).matrix.st = .idle ∧
        (b / 2 ^ 43 % 2 = 0 → (t.core core).matrix.accs = m.accs) ∧
        (b / 2 ^ 43 % 2 = 1 → ∀ j, j < 128 / es →
          let e := 128 / es * c.done + j
          (t.core core).matrix.acc (row0 + e / m.cols) (e % m.cols) = .val 0) ∧
        (t.core core).flights = (s.core core).flights ++ (tokens h c.firing .data (val c.firing.a) .data (val c.firing.a) true).filterMap
          (flightOf s c.firing))) ∧
  (∀ (s : State) (core : Nat), core < 128 →
    let m := (s.core core).matrix
    (m.load = none → exec (.planeLoadComplete core) s = .next s) ∧
    (m.loadHeld = true → exec (.planeLoadComplete core) s = .next s) ∧
    ∀ (c : MCmd) (h : Hdr) (loc : Bool) (u : R s) (l : List Byte), m.load = some c → m.loadHeld = false → tileMoves s m = true →
      c.instr = .mwld h loc → c.firing.core = core → c.firing.trestle = none →
      tileRead (R.start s) c (cmdA c) m.planeBytes loc = (u, .val (l, false)) →
      exec (.planeLoadComplete core) s = .next (told (withMatrix u.s core fun x => { x with shadow := l, sst := .full, load := none }) c .data
        (val c.firing.a)))

end

namespace Sys2Proof.Claim

open Sys2Proof Sys2Proof.Machine

/-! ## KV sequences -/

/-- A handle of the firing's context names a position for which its core's walker tile holds the descriptor and the page (R376, R381). -/
def Cached (s : State) (v : Nat) (d : KvDesc) (p : KvPage) : Prop :=
  let k := (s.core s.cur.core).walker
  v % 8 = 0 ∧ v / 2 ^ 44 < (s.ctx s.cur.ctx).kvCnt.toNat ∧
    (k.desc.find? fun d => decide (d.ctx = s.cur.ctx ∧ d.seq = v / 2 ^ 44 ∧ v / 8 % 2 ^ 24 < d.length)) = some d ∧
    v / 2 ^ 36 % 2 ^ 8 ≤ d.layers ∧ v / 2 ^ 28 % 2 ^ 8 ≤ d.heads ∧
    (k.pages.find? fun p => decide (p.ctx = s.cur.ctx ∧ p.seq = v / 2 ^ 44 ∧
      p.stream = 2 * (v / 2 ^ 36 % 2 ^ 8 * (d.heads + 1) + v / 2 ^ 28 % 2 ^ 8) + v / 2 ^ 27 % 2 ∧ p.page = v / 2 ^ 9 % 2 ^ 18)) = some p

/-- Memory after some writes, in their order, and nothing else. -/
def Writes (s t : State) (l : List (Nat × List Byte)) : Prop :=
  ∀ a, t.byte a = l.foldl (fun b e => if e.1 ≤ a ∧ a < e.1 + e.2.length then e.2.getD (a - e.1) 0 else b) (s.byte a)

/-- The query word (R392). -/
def queryWord (state level len : Nat) (wr cached : Bool) : Word :=
  BitVec.ofNat 64 (state * 2 ^ 62 + bit wr * 2 ^ 61 + bit cached * 2 ^ 60 + level * 2 ^ 57 + len % 2 ^ 25)

/-- A table entry of a level that is not malformed and has V set: only the bits that `allowed` names may be set (R378). -/
def EntryOk (e allowed : Nat) : Prop := e &&& allowed = e ∧ e % 2 = 1

/-- A KVAPP's status (R391). -/
def appended (code len : Nat) : Word := BitVec.ofNat 64 (code * 2 ^ 56 + len % 2 ^ 25)

end Sys2Proof.Claim

section

open Sys2Proof Sys2Proof.Machine Sys2Proof.Claim

/-! ## KV sequences -/

/-- R376 to R383, R389: a KVLD or KVST whose handle the walker tile serves from its caches becomes a request, or a store held to the
commit of its block, at block + rowbytes × row + off, translated as an address of the context. R380, R392: KVQRY reads the descriptor and
the three table entries at their homes and answers how far the walk comes. R391: KVAPP answers 6 for a sequence that the context does not
have, 10 for a length out of range, 11 for a read-only sequence, and 2 where the pool has no block or no room for one; else it gives every
stream its pages from the pool, or takes them back, and writes the new length. R393: SMXUPD sends the state and the weights of one step of
an online softmax. The order of a walk's checks is the model's reading (log 40). -/
def Obligations.KeysAndValues : Prop :=
  ((∀ (h : Hdr) (ty : Ty) (m : Mem) (s : State) (d : KvDesc) (p : KvPage), Sane s → Fires h s.cur → IsData s.cur.a → Calm s .walker → Placed s →
      let v := (val s.cur.a).toNat
      let off := m.off.toInt
      let u := fired s m.lsid.val
      let ea := p.block + p.rowbytes * (v / 8 % 64) + off.toNat
      Cached s v d p → 0 ≤ off → off % accSize ty = 0 → off + accSize ty ≤ d.rowbytes →
      (∀ pa leaf, Passes u .rd false ea 1 pa leaf → exec (.kvld h ty m) s = .next (standing (walked u ea)
        (request s (.kvld h ty m) .walker .load ty m ea pa leaf))) ∧
      (∀ pa leaf, Passes u .wr false ea 1 pa leaf → (IsData s.cur.b ∨ (opTok s.cur.b).kind = .error) → p.wr = true → d.ro = false →
        let q := request s (.kvst h ty m) .walker (.store (storeBytes ty (opTok s.cur.b))) ty m ea pa leaf
        exec (.kvst h ty m) s = .next (match s.cur.trestle with
          | some t => heldBack (walked u ea) q t
          | none => standing (walked u ea) q))) ∧
   (∀ (h : Hdr) (s : State), Runs h s → IsData s.cur.a →
      let v := (val s.cur.a).toNat
      let core := s.cur.core
      let c := s.cur.ctx
      let told (u : R s) (w : Word) : Host.Outcome State Fault Refusal := .next (sent u.s (both s h .data w))
      (v % 8 ≠ 0 → exec (.kvqry h) s = told (R.start s) (queryWord 0 0 0 false false)) ∧
      (v % 8 = 0 → (s.ctx c).kvCnt.toNat ≤ v / 2 ^ 44 → exec (.kvqry h) s = told (R.start s) (queryWord 3 0 0 false false)) ∧
      (∀ (u : R s) (l : List Byte), v % 8 = 0 → v / 2 ^ 44 < (s.ctx c).kvCnt.toNat → let base := (s.ctx c).kvBase.toNat + 64 * (v / 2 ^ 44)
        vRead (R.start s) core c base 64 8 = (u, .val l) →
        (kvDescOf c (v / 2 ^ 44) base l = none → exec (.kvqry h) s = told u (queryWord 3 0 0 false false)) ∧
        ∀ d, kvDescOf c (v / 2 ^ 44) base l = some d →
          let t := 2 * (v / 2 ^ 36 % 2 ^ 8 * (d.heads + 1) + v / 2 ^ 28 % 2 ^ 8) + v / 2 ^ 27 % 2
          let g := v / 2 ^ 9 % 2 ^ 18
          let cached := (u.s.core core).walker.pages.any fun p => decide (p.ctx = c ∧ p.seq = v / 2 ^ 44 ∧ p.stream = t ∧ p.page = g)
          let out := d.layers < v / 2 ^ 36 % 2 ^ 8 ∨ d.heads < v / 2 ^ 28 % 2 ^ 8 ∨ d.length ≤ v / 8 % 2 ^ 24
          (out → exec (.kvqry h) s = told u (queryWord 0 0 d.length false cached)) ∧
          (¬ out → ∀ u1 e1, vNat u core c (d.streams + 8 * t) 8 = (u1, .val e1) →
            (¬ EntryOk e1 kvDirBits → exec (.kvqry h) s = told u1 (queryWord 1 1 d.length false cached)) ∧
            (EntryOk e1 kvDirBits → ∀ u2 e2, vNat u1 core c (e1 / 2 ^ 12 % 2 ^ 36 * 2 ^ 12 + 8 * (g / 512)) 8 = (u2, .val e2) →
              (¬ EntryOk e2 kvDirBits → exec (.kvqry h) s = told u2 (queryWord 1 2 d.length false cached)) ∧
              (EntryOk e2 kvDirBits → ∀ u3 e3, vNat u2 core c (e2 / 2 ^ 12 % 2 ^ 36 * 2 ^ 12 + 8 * (g % 512)) 8 = (u3, .val e3) →
                (¬ EntryOk e3 kvPageBits → exec (.kvqry h) s = told u3 (queryWord 1 3 d.length false cached)) ∧
                (EntryOk e3 kvPageBits → exec (.kvqry h) s = told u3 (queryWord 2 7 d.length (decide (e3 / 2 % 2 = 1)) cached)))))))) ∧
  ((∀ (h : Hdr) (s : State), Runs h s → IsData s.cur.a → IsData s.cur.b → Unheld s .walker →
      let v := (val s.cur.a).toNat
      let seq := v / 2 ^ 44
      let core := s.cur.core
      let c := s.cur.ctx
      let q := Req.new s.nextId (.kvapp h) s.cur .walker .ctl
      let w := waits s (.kvapp h) .walker
      let base := (s.ctx c).kvBase.toNat + 64 * seq
      (v % 2 ^ 44 ≠ 0 → exec (.kvapp h) s = .next (ended w q .error (val s.cur.a))) ∧
      (v % 2 ^ 44 = 0 → (s.ctx c).kvCnt.toNat ≤ seq → exec (.kvapp h) s = .next (ended w q .data (appended 6 0) true)) ∧
      (∀ (r u : R s) (l : List Byte), v % 2 ^ 44 = 0 → seq < (s.ctx c).kvCnt.toNat → r.s = w → vRead r core c base 64 8 = (u, .val l) →
        (kvDescOf c seq base l = none → exec (.kvapp h) s = .next (ended u.s q .data (appended 6 0) true)) ∧
        ∀ d, kvDescOf c seq base l = some d →
          let new : Int := d.length + (val s.cur.b).toInt
          let len := new.toNat
          let g0 := (d.length + 63) / 64
          let g1 := (len + 63) / 64
          let streams := (d.layers + 1) * (d.heads + 1) * 2
          let Done (code n : Nat) (l : List (Nat × List Byte)) : Prop :=
            ∃ t, exec (.kvapp h) s = .next t ∧ Writes s t l ∧ Gone t s.nextId ∧
              (t.core core).flights = (s.core core).flights ++ (tokens h s.cur .data (appended code n) .data (appended code n) true).filterMap
                (flightOf s s.cur)
          ((new < 0 ∨ 2 ^ 24 < new) → exec (.kvapp h) s = .next (ended u.s q .data (appended 10 d.length) true)) ∧
          (0 ≤ new → new ≤ 2 ^ 24 → d.ro = true → exec (.kvapp h) s = .next (ended u.s q .data (appended 11 d.length) true)) ∧
          (0 ≤ new → new ≤ 2 ^ 24 → d.ro = false → ∀ (u2 : R s) (at_ : Nat × Word), vPrep u core c base 4 4 .rw = (u2, .val at_) → at_.1 + 4 ≤ 2 ^ 52 →
            (g1 = g0 → len ≠ d.length → Done 0 len [(at_.1, bytesLE 4 len)]) ∧
            (len = d.length → Done 0 len []) ∧
            (g0 < g1 → d.pool = 0 → Done 2 d.length []) ∧
            (d.pool ≠ 0 → ∀ (u3 : R s) (top cap stack : Nat) (pp : Nat × Word), kvPool u2 core c d.pool = (u3, .val ((top, cap, stack), pp)) →
              pp.1 + 4 ≤ 2 ^ 52 →
              (g0 < g1 → top < (g1 - g0) * streams → Done 2 d.length []) ∧
              (g0 < g1 → (g1 - g0) * streams ≤ top → ∀ (u4 u5 : R s) (es bs : List (Nat × Word)),
                kvEntries u3 core c v d (kvRange g0 g1 streams) = (u4, .val es) →
                vPrepAll u4 core c 8 8 .rd ((List.range ((g1 - g0) * streams)).map fun i => stack + 8 * (top - 1 - i)) = (u5, .val bs) →
                (∀ e ∈ es, e.1 + 8 ≤ 2 ^ 52) →
                Done 0 len ((es.zip bs).map (fun e => (e.1.1, bytesLE 8 (s.nat e.2.1 8 &&& (2 ^ 48 - 2 ^ 7) ||| 3))) ++
                  [(pp.1, bytesLE 4 (top - (g1 - g0) * streams)), (at_.1, bytesLE 4 len)])) ∧
              (g1 < g0 → ∀ (u4 : R s) (es : List (Nat × Word)), kvEntries u3 core c v d (kvRange g1 g0 streams) = (u4, .val es) →
                let back := es.filter fun e => s.nat e.1 8 % 2 = 1
                (cap < top + back.length → Done 2 d.length []) ∧
                (top + back.length ≤ cap → ∀ (u5 : R s) (bs : List (Nat × Word)),
                  vPrepAll u4 core c 8 8 .rw ((List.range back.length).map fun i => stack + 8 * (top + i)) = (u5, .val bs) →
                  (∀ e ∈ es ++ bs, e.1 + 8 ≤ 2 ^ 52) →
                  Done 0 len ((bs.zip back).map (fun e => (e.1.1, bytesLE 8 (s.nat e.2.1 8 &&& (2 ^ 48 - 2 ^ 7)))) ++
                    es.map (fun e => (e.1, bytesLE 8 0)) ++ [(pp.1, bytesLE 4 (top + back.length)), (at_.1, bytesLE 4 len)]))))))) ∧
   (∀ (h : Hdr) (ty : Ty) (s : State), Sane s → s.cur.ctx < 4096 → Fires h s.cur → IsNum ty s.cur.a → IsNum ty s.cur.b →
      let mc := laneOf 32 0 (val s.cur.a)
      let sc := laneOf 32 0 (val s.cur.b)
      let m := decodeFmt fmtF32 mc
      let x := decodeFmt fmtF32 sc
      let two (st w : Word) : List Send := toAll s [h.t0] .data st ++ toAll s [h.t1] .data w
      (m = .inf true → x = .inf true → exec (.smxupd h ty) s = .next (sent s (two (val s.cur.a) 0x3F3F3F3F3F3F3F3F))) ∧
      (¬(m = .inf true ∧ x = .inf true) →
        let first := !ordLt m x
        let mn := if first then m else x
        let ro := pexpLane m mn
        let rn := pexpLane x mn
        ((ro.code = none ∨ rn.code = none) → exec (.smxupd h ty) s = .next (sent (flagged s (ro.fl ||| rn.fl)) (both s h .error (val s.cur.a)))) ∧
        ∀ co cn, ro.code = some co → rn.code = some cn →
          let sum : EVal := match mulVal (decodeFmt fmtF32 (laneOf 32 1 (val s.cur.a))) (decodeP4 co), mulVal (decodeFmt fmtF32 (laneOf 32 1 (val s.cur.b))) (decodeP4 cn) with
            | some a, some b => addVal a b
            | _, _ => .undef
          let nl := roundTo fmtF32 .rne false sum
          let fl := ro.fl ||| rn.fl ||| nl.fl
          (nl.code = none → exec (.smxupd h ty) s = .next (sent (flagged s fl) (both s h .error (val s.cur.a)))) ∧
          ∀ k, nl.code = some k → exec (.smxupd h ty) s = .next (sent (flagged s fl)
            (two (BitVec.ofNat 64 ((if first then mc else sc) + k * 2 ^ 32))
              (BitVec.ofNat 64 (packN 8 (List.replicate 4 co ++ List.replicate 4 cn))))))))

end

namespace Sys2Proof.Claim

open Sys2Proof Sys2Proof.Machine

/-! ## Derived regions -/

/-- The region of a die that a handle names (R431). -/
def regionOf (s : State) (v : Nat) : Region := (s.die (v / 2 ^ 40 % 4)).region (v / 2 ^ 30 % 2 ^ 10)

/-- A handle names a live region of a context: no reserved bit, in use, the context's own, and of its generation (R431, R444). -/
def Live (s : State) (c v : Nat) : Prop :=
  v < 2 ^ 42 ∧ (regionOf s v).st ≠ .free ∧ (regionOf s v).ctx = c ∧ (regionOf s v).gen = v / 2 ^ 24 % 2 ^ 6

/-- A region's entry changes, and the deltas and rescans of its die that `keep` does not keep are gone. -/
def reformed (s : State) (die n : Nat) (f : Region → Region) : State :=
  withDie (withRegion s die n f) die fun k =>
    { k with deltas := k.deltas.filter (fun (x : Delta) => x.region ≠ n), rescans := k.rescans.filter fun x => x.1 ≠ n }

/-- One result of a region changes. -/
def withResult (s : State) (die n j : Nat) (f : Result → Result) : State :=
  withRegion s die n fun g => { g with results := tabSet Result.init j (f (tabGet Result.init j g.results)) g.results }

/-- No host owns a half of any line. -/
def NoHosts (s : State) : Prop := ∀ n, (s.line n).half0 < 2 ∧ (s.line n).half1 < 2

/-- A region is being built from memory as it stands (R441): its published values stay, and its die holds no delta and no rescan of it. -/
def Builds (s t : State) (die n : Nat) (st : RegSt) (req : Nat) (g : Region) : Prop :=
  let x := (t.die die).region n
  x = { g with st := st, req := req, results := x.results } ∧
    (∀ j, j < (drecOf g.record).results → tabGet Result.init j x.results =
      { tabGet Result.init j (buildResults s.byte g) with pub := (tabGet Result.init j g.results).pub }) ∧
    (t.die die).deltas = (s.die die).deltas.filter (fun (x : Delta) => x.region ≠ n) ∧
    (t.die die).rescans = (s.die die).rescans.filter fun x => x.1 ≠ n

/-- A result as its publication leaves it (R440): a stale one is not published. -/
def published (d : DRec) (o : Result) : Result :=
  if o.stale then o else { o with pub := some ((resultValue d o).1, (resultValue d o).2.1), dirty := false }

/-- The result index of a DLD: that of its handle and its offset (R449). -/
def indexOf (v : Nat) (m : Mem) : Int := (v % 2 ^ 24 : Nat) + m.off.toInt

/-- The request of a DLD (R449). -/
def reading (s : State) (i : Instr) (m : Mem) : Req :=
  { Req.new s.nextId i s.cur (reqSrcOf s.cur) (.dld 0) with scope := m.scope.val, acq := decide (m.order = .acq), lsid := m.lsid.val }

end Sys2Proof.Claim

section

open Sys2Proof Sys2Proof.Machine Sys2Proof.Claim

/-! ## Derived regions -/

/-- R441, R447, R448, R451: DRVDECL refuses a record with a code in bit 63 and [62:56], or takes an entry and builds its region; DRVDROP
frees a live region and answers 0, or 6 for none; DRVSYNC answers 6, 14 or 4, or rebuilds the region. R440, R449: DLDL answers the
published value, 0 before the first; a DLD of an Active region begins its flush, and waits for one that is built. The codes of a refused
handle are the model's reading (log 32). -/
def Obligations.DerivedInstructions : Prop :=
  (∀ (h : Hdr) (s : State), Asks h s →
    let v := (val s.cur.a).toNat
    let c := s.cur.ctx
    let die := v / 2 ^ 40 % 4
    let n := v / 2 ^ 30 % 2 ^ 10
    let g := regionOf s v
    let i : Instr := .drvsync h
    (2 ^ 42 ≤ v → exec (.drvdrop h) s = .next (answered s (both s h .error (val s.cur.a))) ∧
      exec (.drvsync h) s = .next (answered s (both s h .error (val s.cur.a)))) ∧
    (Settled s → v < 2 ^ 42 → ¬ Live s c v → ∀ mk ∈ [Instr.drvdrop, Instr.drvsync],
      exec (mk h) s = .next (ended (waits s (mk h) (reqSrcOf s.cur)) (asking s (mk h)) .data (BitVec.ofNat 64 (6 * 2 ^ 56)) true)) ∧
    (Settled s → Live s c v → g.req ≠ s.nextId →
      ((∀ q ∈ s.reqs, q.id ≠ g.req ∧ ∀ k, q.op ≠ .dld k) → exec (.drvdrop h) s = .next (ended (reformed (waits s (.drvdrop h) (reqSrcOf s.cur))
        die n fun g => { g with st := .free, frames := [], results := [], req := 0 }) (asking s (.drvdrop h)) .data 0 true)) ∧
      ((g.st = .building ∨ g.st = .resyncing) → exec i s = .next (ended (waits s i (reqSrcOf s.cur)) (asking s i) .data
        (BitVec.ofNat 64 (4 * 2 ^ 56)) true)) ∧
      (g.st = .suspended → (∃ f ∈ g.frames, (s.frame f.2).hostBias = true) → exec i s = .next (ended (waits s i (reqSrcOf s.cur)) (asking s i) .data
        (BitVec.ofNat 64 (14 * 2 ^ 56)) true)) ∧
      ((g.st = .active ∨ g.st = .suspended ∧ ∀ f ∈ g.frames, (s.frame f.2).hostBias = false ∧ (s.frame f.2).st = .stable) → NoHosts s →
        ∃ t, exec i s = .next t ∧ t.mem = s.mem ∧ Builds s t die n .resyncing s.nextId g ∧ ∃ q ∈ t.reqs, q = { asking s i with aux := 1 }))) ∧
  (∀ (h : Hdr) (s : State), Asks h s → IsData s.cur.b → val s.cur.b = 0 → Settled s → let v := (val s.cur.a).toNat
    let i : Instr := .drvdecl h
    let code (n : Nat) : Word := BitVec.ofNat 64 (2 ^ 63 + n * 2 ^ 56)
    ∀ (u : R s) (l : List Byte), v % 64 = 0 → Reads s i v 64 64 u l →
      ((drecOf l).ok l = false → exec i s = .next (ended u.s (asking s i) .data (code 13) true)) ∧
      (∀ (w : R s) (fr : Option (List (Nat × Nat))), (drecOf l).ok l = true →
        baseFrames u s.cur.core s.cur.ctx (basePages (drecOf l)) [] = (w, fr) →
        (fr = none → exec i s = .next (ended w.s (asking s i) .data (code 6) true)) ∧
        (declRefusal w.s l fr 0 ≠ 0 → exec i s = .next (ended w.s (asking s i) .data (code (declRefusal w.s l fr 0)) true)) ∧
        (∀ fs n, fr = some fs → declRefusal w.s l fr 0 = 0 → NoHosts s → let die := homeDie ((fs.map Prod.snd).headD 0 * 2 ^ 16)
          die < 4 → freeRegion s die = some n →
          let old := (s.die die).region n
          ∃ t, exec i s = .next t ∧ t.mem = s.mem ∧ Builds s t die n .building s.nextId { Region.init with
            gen := if old.record = [] then 0 else (old.gen + 1) % 64, ctx := s.cur.ctx, record := l, frames := fs } ∧
            ∃ q ∈ t.reqs, q = { asking s i with aux := 1 }))) ∧
  (∀ (h : Hdr) (ty : Ty) (m : Mem) (s : State), Sane s → Fires h s.cur → IsData s.cur.a → Calm s (reqSrcOf s.cur) →
    let v := (val s.cur.a).toNat
    let g := regionOf s v
    let u := fired s m.lsid.val
    let j := indexOf v m
    Live s s.cur.ctx v → 0 ≤ j → j < (drecOf g.record).results →
    ((s.ctx s.cur.ctx).det = false → exec (.dldl h ty m) s = .next (answered u (match (tabGet Result.init j.toNat g.results).pub with
      | some x => both s h x.1 x.2
      | none => both s h .data 0))) ∧
    (g.st = .active → (∀ q ∈ s.reqs, q.stage = .performed) → (s.ctx s.cur.ctx).det = false → (∀ q ∈ s.reqs, q.id ≠ s.nextId) →
      exec (.dld h ty m) s = .next { u with reqs := s.reqs ++ [{ reading s (.dld h ty m) m with aux := 1 }], nextId := s.nextId + 1 }) ∧
    ((g.st = .building ∨ g.st = .resyncing) →
      exec (.dld h ty m) s = .next { u with reqs := s.reqs ++ [reading s (.dld h ty m) m], nextId := s.nextId + 1 }))

/-- R435, R436, R438 to R441: a delta is applied to its result, in the order of its home and its slice; a rescan forms the extremum from the
base again and publishes it; a result that has not been published for 2,048 clk since it changed is published; the last marker of a flush
ends its DLD with the result's value, and publishes it; a build that is complete publishes every result and answers the handle, or 0 for a
DRVSYNC. -/
def Obligations.DerivedEvents : Prop :=
  ∀ (s : State) (die n : Nat), die < 4 → let d := s.die die
    (d.deltas.length ≤ n → exec (.deltaApply die n) s = .next s) ∧
    (∀ x, d.deltas[n]? = some x → let g := d.region x.region
      let slice (y : Delta) : Nat := resultSlice (d.region y.region) y.res
      ((∃ y ∈ d.deltas.take n, y.home = x.home ∧ slice y = slice x) → exec (.deltaApply die n) s = .next s) ∧
      ((∀ y ∈ d.deltas.take n, y.home = x.home → slice y ≠ slice x) →
        let o := tabGet Result.init x.res g.results
        let a := applyDelta (drecOf g.record) o x
        let r := withResult (withDie s die fun k => { k with deltas := k.deltas.eraseIdx n }) die x.region x.res fun _ =>
          { a.1 with changed := if o.dirty then a.1.changed else s.clk }
        (a.2 = false ∨ (x.region, x.res) ∈ d.rescans → exec (.deltaApply die n) s = .next r) ∧
        (a.2 = true → (x.region, x.res) ∉ d.rescans → exec (.deltaApply die n) s =
          .next (withDie r die fun k => { k with rescans := k.rescans ++ [(x.region, x.res)] })) ∧
        (x.elems = [] → a.2 = false ∧
          a.1 = { o with sum := o.sum + x.sum, pinf := o.pinf + x.pinf, ninf := o.ninf + x.ninf, errs := o.errs + x.errs, dirty := true }))) ∧
    (d.rescans.length ≤ n → exec (.rescan die n) s = .next s) ∧
    (∀ k j, d.rescans[n]? = some (k, j) → NoHosts s →
      (∀ x ∈ d.rescans.take n, resultSlice (d.region x.1) x.2 ≠ resultSlice (d.region k) j) →
      exec (.rescan die n) s = .next (withResult (withDie s die fun x => { x with rescans := x.rescans.eraseIdx n }) die k j fun o =>
        published (drecOf (d.region k).record) { o with ext := rescanResult s.byte (d.region k) j, stale := false })) ∧
    (∀ j, let o := tabGet Result.init j (d.region n).results
      (((d.region n).st ≠ .free ∧ o.dirty = true ∧ o.changed + 2048 ≤ s.clk) → exec (.publish die n j) s =
        .next (withResult s die n j (published (drecOf (d.region n).record)))) ∧
      (((d.region n).st = .free ∨ o.dirty = false ∨ s.clk < o.changed + 2048) → exec (.publish die n j) s = .next s)) ∧
    (let g := d.region n
      let t := withRegion s die n fun g => { g with st := .active, req := 0, results := g.results.map fun x => (x.1, published (drecOf g.record) x.2) }
      (g.st ≠ .building → g.st ≠ .resyncing → exec (.buildComplete die n) s = .next s) ∧
      ((g.st = .building ∨ g.st = .resyncing) → ctxMoves s g.ctx = true →
        (getReq s g.req = none → exec (.buildComplete die n) s = .next t) ∧
        (∀ q h, getReq s g.req = some q → q.firing.core < 128 →
          (q.instr = .drvdecl h → exec (.buildComplete die n) s = .next (ended t q .data
            (BitVec.ofNat 64 (die * 2 ^ 40 + n * 2 ^ 30 + g.gen * 2 ^ 24)) true)) ∧
          (q.instr = .drvsync h → exec (.buildComplete die n) s = .next (ended t q .data 0 true))))) ∧
    (∀ (id home : Nat) (q : Req) (h : Hdr) (ty : Ty) (m : Mem), getReq s id = some q → q.instr = .dld h ty m → q.op = .dld 0 → q.aux = 1 → home < 384 →
      q.firing.core < 128 → ctxMoves s q.firing.ctx = true → let v := (val q.firing.a).toNat
      Live s q.firing.ctx v → v / 2 ^ 40 % 4 = die → v / 2 ^ 30 % 2 ^ 10 = n → let g := d.region n
      g.st = .active → ∀ j : Nat, indexOf v m = j → let o := tabGet Result.init j g.results
      let slice (y : Delta) : Nat := resultSlice (d.region y.region) y.res
      ((∃ y ∈ d.deltas, y.home = home ∧ slice y = resultSlice g j) → exec (.flushMarker id home) s = .next s) ∧
      ((∀ y ∈ d.deltas, y.home = home → slice y ≠ resultSlice g j) → NoHosts s →
        let marks := if q.marks.contains home then q.marks else home :: q.marks
        ((∃ k, k < 384 ∧ k ∉ marks) ∨ o.stale = true → exec (.flushMarker id home) s = .next (withReq s id fun _ => { q with marks := marks })) ∧
        ((∀ k, k < 384 → k ∈ marks) → o.stale = false → q.acq = false →
          let x := resultValue (drecOf g.record) o
          ∃ t, exec (.flushMarker id home) s = .next t ∧ t.mem = s.mem ∧ Gone t id ∧
            tabGet Result.init j ((t.die die).region n).results = published (drecOf g.record) o ∧
            (t.core q.firing.core).flights = (s.core q.firing.core).flights ++
              (tokens h q.firing x.1 x.2.1 x.1 x.2.1 false).filterMap (flightOf s q.firing))))

end

namespace Sys2Proof.Claim

open Sys2Proof Sys2Proof.Machine

/-! ## Links -/

/-- The state once the host behind a port is no longer attached (R493, R503). -/
def unattached (s : State) (port : Nat) : State :=
  match masterAt s port with
  | some m => withMgmt s fun g => { g with attached := g.attached &&& ~~~BitVec.ofNat 16 (2 ^ m) }
  | none => s

/-- The state once a port has gone Down (R493). -/
def fallen (s : State) (port : Nat) : State :=
  withLink (unattached s port) port fun l => if l.st = .down then l else { l with st := .down, lanes := 0, since := s.clk, naks := 0 }

/-- A port is Training or Retraining, and its time for it (2 ms or 500 µs) has not passed (R493). -/
def Trains (s : State) (l : Link) (late : Bool) : Prop :=
  l.st = .training ∧ (s.clk ≤ l.since + 4200000 ↔ late = false) ∨ l.st = .retraining ∧ (s.clk ≤ l.since + 1050000 ↔ late = false)

/-- Flits that leave the replay buffer again are counted, up to 65,535 (R491, R494). -/
def replayed (l : Link) (n : Nat) : BitVec 16 := BitVec.ofNat 16 (min 65535 (l.replays.toNat + n))

/-- The state after a port has trained (R493, R503). -/
def trained (s : State) (port : Nat) (st : PortSt) (lanes : BitVec 8) : State :=
  let x := withLink s port fun l =>
    { l with st := st, lanes := lanes, mode := if l.cxlen then 1 else 0, since := s.clk, naks := 0, replays := replayed l l.unacked.length }
  match masterAt x port with
  | some m => withMgmt x fun g => { g with attached := g.attached ||| BitVec.ofNat 16 (2 ^ m) }
  | none => x

/-- A flit from a port has been received (R491). -/
def receivedAt (s : State) (port : Nat) : State := withLink s port fun l => { l with seqRx := l.seqRx + 1 }

/-- The request of a number waits for a completion over a port (R490, R495). -/
def Away (s : State) (id port : Nat) (q : Req) : Prop := getReq s id = some q ∧ q.stage = .remote port

/-- A port has received a flit and sent an answer (R490, R491). -/
def Answered (s t : State) (port : Nat) : Prop :=
  t.link port = { s.link port with
    seqRx := (s.link port).seqRx + 1, seqTx := (s.link port).seqTx + 1, unacked := (s.link port).unacked ++ [(s.link port).seqTx.toNat] }

/-- No frame is on its way to another bias or another place (R365, R367). -/
def StillFrames (s : State) : Prop := ∀ n, (s.frame n).st = .stable

end Sys2Proof.Claim

section

open Sys2Proof Sys2Proof.Machine Sys2Proof.Claim

/-! ## Links -/

/-- R491, R493, R494, R503: a peer, or EN, starts the training of a Down port; training ends Active with 8 good lanes, Degraded with 4
contiguous ones and Down otherwise or when its time has passed; EN written 0, or the peer's loss, takes a port Down; a lost lane and 16
naks in a row make it retrain. An ack takes the flits through its number out of the replay buffer; a nak counts the replayed ones. R412,
R480, R490, R491, R495, R498, R509: a request of another node is performed at its home and answered; a host that is not the owner writes
nothing; a completion gives its request its result; a request without one within cto ends in ERROR with a record UNCORRECTABLE; the answer
to a recall writes its 64 bytes, and one that does not come leaves the home's; a management message acts as its command does. What a host
may be granted is the model's reading (log 37). -/
def Obligations.Links : Prop :=
  (∀ (s : State) (port : Nat), port < 18 → let l := s.link port
     (∀ n, (l.st ≠ .down → exec (.peerPresent port n) s = .next s) ∧
       (l.st = .down → exec (.peerPresent port n) s = .next (withLink s port fun l =>
         { l with present := true, peer := BitVec.ofNat 11 n, st := if l.en then .training else .down, since := if l.en then s.clk else l.since }))) ∧
     (exec (.portEnable port) s = .next (withLink s port fun l => { l with
       en := true, st := if l.present ∧ l.st = .down then .training else l.st, since := if l.present ∧ l.st = .down then s.clk else l.since })) ∧
     exec (.portDisable port) s = .next (fallen (withLink s port fun l => { l with en := false }) port) ∧
     exec (.peerLoss port) s = .next (withLink (fallen s port) port fun l => { l with present := false }) ∧
     (Trains s l false →
       exec (.trainingComplete port 0xFF) s = .next (trained s port .active 0xFF) ∧
       (∀ x, (x &&& 0x0F = 0x0F ∨ x &&& 0xF0 = 0xF0) → x ≠ 0xFF → exec (.trainingComplete port x) s = .next (trained s port .degraded x)) ∧
       (∀ x, x &&& 0x0F ≠ 0x0F → x &&& 0xF0 ≠ 0xF0 → exec (.trainingComplete port x) s = .next (fallen s port)) ∧
       exec (.trainingTimeout port) s = .next s) ∧
     (Trains s l true → (∀ x, exec (.trainingComplete port x) s = .next s) ∧ exec (.trainingTimeout port) s = .next (fallen s port)) ∧
     (l.up = true →
       (∀ n, l.lanes.getLsbD n = true → exec (.laneLoss port n) s = .next (withLink s port fun l => { l with
         lanes := l.lanes &&& ~~~BitVec.ofNat 8 (2 ^ n), st := .retraining, since := s.clk, naks := 0 })) ∧
       (∀ n, l.lanes.getLsbD n = false → exec (.laneLoss port n) s = .next s) ∧
       ((∀ d x, d < 4 → x ∈ (s.die d).jobs → x.2.sent = none) →
         (∀ a b n, l.unacked = a ++ n :: b → n ∉ a → exec (.ackFlit port n) s = .next (withLink s port fun l => { l with unacked := b, naks := 0 })) ∧
         (∀ n, n ∉ l.unacked → exec (.ackFlit port n) s = .next (withLink s port fun l => { l with naks := 0 }))) ∧
       (∀ n, let r := replayed l (l.unacked.dropWhile (· ≠ n)).length
         (l.naks < 15 → exec (.nakFlit port n) s = .next (withLink s port fun l => { l with naks := l.naks + 1, replays := r })) ∧
         (15 ≤ l.naks → exec (.nakFlit port n) s = .next (withLink s port fun l => { l with naks := 0, replays := r, st := .retraining, since := s.clk }))) ∧
       exec (.badFlit port true) s = .next (withLink s port fun l => { l with replays := replayed l 1 }) ∧
       exec (.badFlit port false) s = .next s) ∧
     (l.up = false → (∀ n, exec (.laneLoss port n) s = .next s ∧ exec (.ackFlit port n) s = .next s ∧ exec (.nakFlit port n) s = .next s) ∧
       ∀ b, exec (.badFlit port b) s = .next s)) ∧
  (∀ (s : State) (port : Nat), port < 18 → (s.link port).up = true →
     (∀ (id : Nat) (q : Req) (l : List Byte), Away s id port q →
       let done (k : Kind) (v : Word) (carry : Bool) : State := receivedAt (withReq s id fun x =>
         { x with stage := .performed, rk := k, rv := v, rv2 := v, carry := carry }) port
       (q.op = .load → q.firing.trestle = none → (∃ h ty m, q.instr = .ld h ty m) → exec (.completionFlit port id l) s =
         .next (done (readValue q.ty (l.take q.size)).1 (readValue q.ty (l.take q.size)).2 false)) ∧
       (∀ b h ty m, q.op = .store b → q.instr = .st h ty m → exec (.completionFlit port id l) s = .next (done .data (BitVec.ofNat 64 q.va) true)) ∧
       (s.clk ≤ q.since + (s.link port).cto.toNat * 2100 → exec (.completionTimeout id) s = .next s) ∧
       (q.since + (s.link port).cto.toNat * 2100 < s.clk → q.firing.trestle = none → q.firing.core < 128 → ringOf s 4096 q.firing.ctx = none →
         ∃ t, exec (.completionTimeout id) s = .next t ∧ t.mem = s.mem ∧ Gone t id ∧ (t.core q.firing.core).flights =
           (s.core q.firing.core).flights ++ (tokens (hdrOfInstr q.instr) q.firing .error (val q.firing.a) .error (val q.firing.a) false).filterMap
             (flightOf s q.firing))) ∧
     (∀ id l, (∀ q, getReq s id = some q → q.stage ≠ .remote port) → exec (.completionFlit port id l) s = .next s) ∧
     (s.mgmt.ready = false → ∀ q, exec (.requestFlit port q) s = .next s) ∧
     (s.mgmt.ready = true → StillFrames s → NoHosts s →
       (∀ pa n, ∃ t, exec (.requestFlit port (.read pa n)) s = .next t ∧ t.mem = s.mem ∧ Answered s t port) ∧
       (∀ m, masterAt s port = some m → hostMayWrite s m = false → (∀ pa l, exec (.requestFlit port (.write pa l)) s = .next (receivedAt s port)) ∧
         ∀ pa n v, exec (.requestFlit port (.amoadd pa n v)) s = .next (receivedAt s port)) ∧
       (peerMayWrite s port = true → ∀ pa, pa < 2 ^ 51 →
         (∀ l : List Byte, l ≠ [] → pa % 128 + l.length ≤ 128 → rangeRoom s (peerOwner s port) pa l.length = true →
           ∃ t, exec (.requestFlit port (.write pa l)) s = .next t ∧ Wrote s t pa l ∧ Answered s t port) ∧
         (∀ (n : Nat) (v : Word), (n = 4 ∨ n = 8) → pa % n = 0 → (s.frame (pa / 2 ^ 16)).hostBias = false →
           rangeRoom s (peerOwner s port) pa n = true →
           ∃ t, exec (.requestFlit port (.amoadd pa n v)) s = .next t ∧ Wrote s t pa (bytesLE n ((s.nat pa n + v.toNat) % 2 ^ (8 * n))) ∧
             Answered s t port))) ∧
     (∀ m pa, masterAt s port ≠ some m → ∀ l, exec (.recallFlit port m pa l) s = .next s) ∧
     (∀ m pa l, masterAt s port = some m → let x := s.line (pa / 128)
       (pa % 128 = 0 → x.half0 < 2 → exec (.recallFlit port m pa l) s = .next (receivedAt s port)) ∧
       (pa % 128 = 0 → pa < 2 ^ 51 → l.length = 64 → 2 ≤ x.half0 → x.host0 = m → rangeRoom s (.host m) pa 64 = true → StillFrames s →
         ∃ t, exec (.recallFlit port m pa l) s = .next t ∧ Wrote s t pa l ∧ (t.line (pa / 128)).half0 = 0)) ∧
     (∀ n, let x := s.line n
       let late (st m since : Nat) : Prop := st = 3 ∧ since + (s.link ((portsOfMaster s m).headD 0)).cto.toNat * 2100 ≤ s.clk
       (¬ late x.half0 x.host0 x.since0 → ¬ late x.half1 x.host1 x.since1 → exec (.recallTimeout n) s = .next s) ∧
       (late x.half0 x.host0 x.since0 → StillFrames s → n < 2 ^ 44 → ringOf s 4096 0 = none → ∃ t, exec (.recallTimeout n) s = .next t ∧ t.mem = s.mem ∧
         (t.line n).half0 = 0)) ∧
     (∀ m, masterAt s port = some m →
       (∀ frame host u, exec (.flip m frame host) s = .next u → exec (.managementFlit port (.flip m frame host)) s = .next (receivedAt u port)) ∧
       (∀ u, tabGet 0 0 (boxOf s m).bytes = 1 → exec (.claim m) s = .next u → exec (.managementFlit port (.command m)) s = .next (receivedAt u port)) ∧
       (∀ k v, 0 < k → k < 32 → m < 16 → exec (.managementFlit port (.write m (0xA1000 + 256 * m + 8 * k) v)) s = .next (receivedAt (withMgmt s fun g =>
         let b := tabGet Mailbox.init m g.boxes
         let w := (bytesLE 8 v.toNat).zipIdx.foldl (fun t x => tabSet 0 (8 * k + x.2) x.1 t) b.bytes
         { g with boxes := tabSet Mailbox.init m { b with bytes := w } g.boxes }) port))) ∧
     (∀ m frame host, masterAt s port ≠ some m → exec (.managementFlit port (.flip m frame host)) s = .next s))

end

namespace Sys2Proof.Claim

open Sys2Proof Sys2Proof.Machine

/-! ## Faults of accesses -/

/-- A context outside deterministic mode has a fault ring of its own that lies in memory and has room (R461, R465). -/
def RingOpen (s : State) (c : Nat) : Prop :=
  let fb := (s.ctx c).frBase.toNat
  let n := 2 ^ (s.ctx c).frSize.toNat
  c < 2 ^ 12 ∧ (s.ctx c).det = false ∧ (s.ctx c).frBase ≠ 0 ∧ fb + 64 + 64 * n ≤ 2 ^ 52 ∧
    (s.nat fb 4 + 2 ^ 32 - s.nat (fb + 8) 4) % 2 ^ 32 ≠ n

/-- A context's ring has taken one record: its bytes in the slot of the tail, the tail one further, and nothing else (R465). -/
def Recorded (s t : State) (c : Nat) (b : List Byte) : Prop :=
  let fb := (s.ctx c).frBase.toNat
  let tail := s.nat fb 4
  let slot := fb + 64 + 64 * (tail % 2 ^ (s.ctx c).frSize.toNat)
  (t.ctx c).seq = (s.ctx c).seq + 1 ∧ ∀ a, t.byte a =
    if slot ≤ a ∧ a < slot + 64 then b.getD (a - slot) 0
    else if fb ≤ a ∧ a < fb + 4 then (bytesLE 4 ((tail + 1) % 2 ^ 32)).getD (a - fb) 0
    else s.byte a

/-- An access of some kind and size at an address meets a final fault of R173: its cause code, and the level and entry of its words. -/
def Meets (s : State) (k : Acc3) (ea size cause level entry : Nat) : Prop :=
  (2 ^ 48 ≤ ea ∧ cause = 0x10 ∧ level = 7 ∧ entry = 0) ∨
  (ea < 2 ^ 48 ∧ ea % size ≠ 0 ∧ cause = 0x12 ∧ level = 7 ∧ entry = 0) ∨
  (ea < 2 ^ 48 ∧ ea % size = 0 ∧ found s ea = .fault true level entry ∧ cause = 0x10) ∨
  (ea < 2 ^ 48 ∧ ea % size = 0 ∧ cause = 0x11 ∧ ∃ p leaf, found s ea = .ok p leaf level entry ∧ permOk s s.cur.ctx k leaf = false)

/-- Every request of a state stood before, but one of a numbered instruction that only reports. -/
def NoNew (s t : State) : Prop := ∀ q ∈ t.reqs, (∃ p ∈ s.reqs, p.id = q.id) ∨ q.op = .report

end Sys2Proof.Claim

section

open Sys2Proof Sys2Proof.Machine Sys2Proof.Claim

/-! ## Faults of accesses and ordered atomics -/

/-- R173, R174, R176: an access of a configuration that meets a final fault performs nothing: its record goes to the ring and both targets
receive ERROR. One without a valid translation is held. A load without targets draws no fault. -/
def Obligations.AccessFaults : Prop :=
  ∀ (h : Hdr) (ty : Ty) (m : Mem) (s : State), Sane s → Fires h s.cur → IsData s.cur.a → Calm s (reqSrcOf s.cur) → Fresh s →
    s.cur.trestle = none →
    let ea := (val s.cur.a + m.off.signExtend 64).toNat
    let faults (k : Acc3) (i : Instr) : Prop :=
      (∀ cause level entry, Meets s k ea (accSize ty) cause level entry → RingOpen s s.cur.ctx →
        ∃ t, exec i s = .next t ∧ NoNew s t ∧ SentTo s t (both s h .error (val s.cur.a)) ∧
          Recorded s t s.cur.ctx (record s s.cur cause 2 [ea, level + (if k = .rd then 0 else 2 ^ 8), entry])) ∧
      (∀ level entry, ea < 2 ^ 48 → ea % accSize ty = 0 → found s ea = .fault false level entry →
        ∃ t, exec i s = .next t ∧ SentTo s t [] ∧ ∃ q ∈ t.reqs, q.id = s.nextId ∧ q.stage = .held ∧ q.instr = i)
    (h.t0.isSome ∨ h.t1.isSome → faults .rd (.ld h ty m)) ∧ faults .rd (.ldt h ty m) ∧ (IsData s.cur.b → faults .wr (.st h ty m)) ∧
    (IsData s.cur.b → ∀ e ∈ atomics, (e.2 = 8 → anyNaN ty (val s.cur.b) = false) → faults .rw (e.1 h ty m)) ∧
    (h.t0 = none → h.t1 = none →
      ((∃ cause level entry, Meets s .rd ea (accSize ty) cause level entry) ∨
        (∃ level entry, ea < 2 ^ 48 ∧ ea % accSize ty = 0 ∧ found s ea = .fault false level entry)) →
      ∃ t, exec (.ld h ty m) s = .next t ∧ t.mem = s.mem ∧ SentTo s t [] ∧ NoNew s t)

/-- R183, R185: an atomic becomes a request with its operands, where host bias does not refuse it; without targets it is held to the
commit of its block. R183: the new value of an atomic from the old value o and the operand: sum modulo 2^w, logic, the lesser or greater
by the type's sign, the operand, or for AMOCAS the second operand where the old value equals the first. R186, R187: an ordered atomic
whose number its lane expects is performed and emits the old value, and the lane expects the next number; a skip does the same without an
access; one ahead of the number is buffered while its slice has room. Who finds room in a lane is the model's reading (log 25). -/
def Obligations.AtomicsAndLanes : Prop :=
  ((∀ (h : Hdr) (ty : Ty) (m : Mem) (s : State), Sane s → Fires h s.cur → IsData s.cur.a → IsData s.cur.b →
      (∀ x ∈ atomics, (x.2 = 8 → anyNaN ty (val s.cur.b) = false) →
        Requests (x.1 h ty m) m ty (.atomic x.2 (val s.cur.b) 0) (val s.cur.a + m.off.signExtend 64) .rw true
          (h.t0.isNone && h.t1.isNone) s) ∧
      (h.pm = .always → IsData s.cur.p →
        Requests (.amocas h ty m) m ty (.atomic 7 (val s.cur.b) (val s.cur.p)) (val s.cur.a + m.off.signExtend 64) .rw true
          (h.t0.isNone && h.t1.isNone) s)) ∧
   (∀ (ty : Ty) (o : Nat) (b p : Word), o < 2 ^ (8 * accSize ty) →
      let w := 8 * accSize ty
      let x := b.toNat % 2 ^ w
      let i (v : Nat) : Int := if tySigned ty then sInt w v else v
      (atomicNew 0 ty o b p).1 = (o + x) % 2 ^ w ∧ (atomicNew 1 ty o b p).1 = o &&& x ∧ (atomicNew 2 ty o b p).1 = o ||| x ∧
      (atomicNew 3 ty o b p).1 = o ^^^ x ∧ i (atomicNew 4 ty o b p).1 = min (i o) (i x) ∧
      i (atomicNew 5 ty o b p).1 = max (i o) (i x) ∧ (atomicNew 6 ty o b p).1 = x ∧
      (atomicNew 7 ty o b p).1 = if o = x then p.toNat % 2 ^ w else o)) ∧
  (∀ (s : State) (id : Nat) (q : Req) (ev : Instr), getReq s id = some q → inLane q = true → homeGate s q = .go → biasRefused s q = false →
     homeDie q.pa < 4 → q.firing.core < 128 → q.firing.trestle = none →
     ((q.stage = .issued ∧ ev = .orderedAtomicArrival id) ∨
       (q.stage = .laneRefused ∧ q.since + q.aux ≤ s.clk ∧ ev = .orderedAtomicRetry id)) →
     let k := q.firing.tag.iter
     let l := findLane (s.homeSlice q.pa).lanes q.firing.ctx (q.pa / 8)
     (k = l.n → (∀ e ∈ l.buf, e.1 ≠ l.n + 1) →
       (∀ op b p, q.op = .atomic op b p → q.pa + q.size ≤ 2 ^ 52 → badBytes s q.pa q.size = false → leafT q.leaf = true →
         q.size = accSize q.ty →
         ∃ t, exec ev s = .next t ∧ Wrote s t q.pa (bytesLE q.size (atomicNew op q.ty (s.nat q.pa q.size) b p).1) ∧
           Performed t id (readValue q.ty (s.bytes q.pa q.size)).1 (readValue q.ty (s.bytes q.pa q.size)).2
             (readValue q.ty (s.bytes q.pa q.size)).2 true ∧
           (findLane (t.homeSlice q.pa).lanes q.firing.ctx (q.pa / 8)).n = l.n + 1) ∧
       (∀ x v, q.op = .skip x v →
         ∃ t, exec ev s = .next t ∧ t.mem = s.mem ∧ Performed t id x v v false ∧
           (findLane (t.homeSlice q.pa).lanes q.firing.ctx (q.pa / 8)).n = l.n + 1)) ∧
     (k ≠ l.n → aheadOf l.n k = true → mayBuffer (s.homeSlice q.pa) l k = true →
       exec ev s = .next (withReq (withHome s q.pa fun z => { z with lanes := setLane z.lanes { l with buf := l.buf ++ [(k, id)] } }) id fun x =>
         { x with stage := .laneWait })))

end

section

open Sys2Proof Sys2Proof.Machine Sys2Proof.Claim

/-! ## Rules stated whole -/

/-- R40: iterations compare modulo 2^16; i precedes j when (j − i) mod 2^16 lies in 1 to 32,767, and their distance is the smaller of
the two differences. -/
def Obligations.IterationOrder : Prop :=
  ∀ i j : BitVec 16,
    (iterBefore i j = true ↔ 1 ≤ ((j.toNat : Int) - i.toNat) % 2 ^ 16 ∧ ((j.toNat : Int) - i.toNat) % 2 ^ 16 ≤ 32767) ∧
    (iterDist i j : Int) = min (((j.toNat : Int) - i.toNat) % 2 ^ 16) (((i.toNat : Int) - j.toNat) % 2 ^ 16)

/-- R124, with the value of R123: SEL emits NULL for a NULL operand; else the stop of the highest level among its operands, with the
value of the first stop in the order a, b, p; else ERROR for an ERROR at p; else the operand that p selects, ERROR or DATA, whatever the
other one holds. A token of it is poisoned exactly when one of its operands is. -/
def Obligations.SelRule : Prop :=
  ∀ (h : Hdr) (ty : Ty) (s : State) (a b p : Tok), Sane s → h.pm = .always → s.cur.a = [a] → s.cur.b = [b] → s.cur.p = [p] →
    let out (k : Kind) (v : Word) : Prop := exec (.sel h ty) s = .next (sent s (both s h k v))
    let plain (t : Tok) : Prop := t.kind = .data ∨ t.kind = .error
    let x := if p.value ≠ 0 then a else b
    (∀ (g : Target) (k : Kind) (v : Word) (f : Flight), flightOf s s.cur ⟨g, k, v, s.cur.tag, .consume, false⟩ = some f →
      f.tok.poison = (a.poison || b.poison || p.poison)) ∧
    ((a.kind = .null ∨ b.kind = .null ∨ p.kind = .null) → out .null 0) ∧
    (a.kind ≠ .null → b.kind ≠ .null → p.kind ≠ .null →
      (∀ l : Fin 4, (∃ t ∈ [a, b, p], t.kind = .stop l) → (∀ t ∈ [a, b, p], ∀ m, t.kind = .stop m → m ≤ l) →
        ∀ t, [a, b, p].find? (fun t => isStop t.kind) = some t → out (.stop l) t.value) ∧
      (plain a → plain b →
        (p.kind = .error → out .error p.value) ∧
        (p.kind = .data → x.kind = .error → out .error x.value) ∧
        (p.kind = .data → x.kind = .data →
          ∃ v, out .data v ∧ Extended ty v ∧ ∀ i, i < tyLanes ty → laneOf (tyWidth ty) i v = laneOf (tyWidth ty) i x.value)))

/-- The rational number of a finite value. -/
def Sys2Proof.Claim.rational : FVal → Option ℚ
  | .fin n m e => some ((if n then -1 else 1) * (m : ℚ) * 2 ^ e)
  | _ => none

/-- R88: the value of each P4 code, the order of the codes, the codes that rounding to P4 never produces, and the NaN code, whose load
yields ERROR. -/
def Obligations.P4Codes : Prop :=
  (∀ e f : Nat, e < 63 → f < 4 → rational (decodeP4 (f * 64 + e)) = some ((1 + (f : ℚ) / 4) * 2 ^ (-(e : Int)))) ∧
  decodeP4 0x3F = .fin false 0 0 ∧ decodeP4 0x7F = .fin false 0 0 ∧ decodeP4 0xBF = .fin false 0 0 ∧ decodeP4 0xFF = .nan ∧
  (∀ (mode : RMode) (v : FVal) (c : Nat), (toP4Lane mode v).code = some c → c < 256 ∧ (c % 64 = 63 → c = 0x3F)) ∧
  (∀ l : List Byte, l.length = 8 → ((readValue .p4x8 l).1 = if (0xFF : Byte) ∈ l then .error else .data)) ∧
  rational (decodeP4 0xC0) = some (7 / 4) ∧ rational (decodeP4 0x3E) = some (2 ^ (-62 : Int)) ∧
  (∀ c, c < 256 → ∀ q, rational (decodeP4 c) = some q → q ≤ 7 / 4 ∧ (q ≠ 0 → 2 ^ (-62 : Int) ≤ q)) ∧
  (∀ e e' f f' : Nat, e' < 63 → f < 4 → f' < 4 → (e < e' ∨ (e = e' ∧ f' < f)) →
    ∃ q q', rational (decodeP4 (f * 64 + e)) = some q ∧ rational (decodeP4 (f' * 64 + e')) = some q' ∧ q' < q) ∧
  rational (decodeP4 0x00) = some 1 ∧ rational (decodeP4 0x40) = some (5 / 4) ∧ rational (decodeP4 0xC1) = some (7 / 8) ∧
  rational (decodeP4 0x0A) = some (2 ^ (-10 : Int)) ∧ rational (decodeP4 0x8A) = some (3 / 2 * 2 ^ (-10 : Int))

/-- R486: the word of OWNQRY, to both targets; nothing else changes, and its fields are 0 after reset. -/
def Obligations.OwnershipWord : Prop :=
  (∀ (h : Hdr) (s : State), Runs h s → IsData s.cur.a →
    ∃ v, exec (.ownqry h) s = .next (sent s (both s h .data v)) ∧ v.getLsbD 63 = s.mgmt.owned ∧ v.extractLsb' 60 3 = 0 ∧
      v.extractLsb' 56 4 = s.mgmt.owner ∧ v.extractLsb' 40 16 = s.mgmt.attached ∧ v.extractLsb' 32 8 = 0 ∧
      v.extractLsb' 0 32 = s.mgmt.epoch) ∧
  State.reset.mgmt.owned = false ∧ State.reset.mgmt.owner = 0 ∧ State.reset.mgmt.attached = 0 ∧ State.reset.mgmt.epoch = 0

end
end

