-- ==== Sys2Proof/Laws/Encoding.lean ====
section
/-!
SUPPORT. The fields of a word read back: targets, predicates, rounding and memory modifiers, and the split of a packed word.
-/

namespace Sys2Proof

/-- A target reads back from its field. -/
@[simp] theorem targetOf_encT (t : Target) : targetOf (encT t) = t := by
  rcases t with _ | ⟨k, n⟩
  · rfl
  · have hn := n.isLt
    have h1 : encT (some ⟨k, n⟩) / 2 ^ 7 % 2 ^ 2 = slotCode k := by cases k <;> simp only [encT, slotCode] <;> omega
    have h2 : encT (some ⟨k, n⟩) % 128 = n.val := by cases k <;> simp only [encT, slotCode] <;> omega
    have h3 : Fin.ofNat 128 (encT (some ⟨k, n⟩)) = n := Fin.ext h2
    unfold targetOf
    rw [h1, h3]
    cases k <;> rfl

@[simp] theorem pmOf_encPm (p : Pm) : pmOf (encPm p) = p := by cases p <;> rfl

/-- The header fields read back. -/
@[simp] theorem hdrOf_rawOf (op : Nat) (h : Hdr) (ty md low ext : Nat) : hdrOf (rawOf op h ty md low ext) = h := by
  simp [hdrOf, rawOf]

@[simp] theorem roundOf_encRound (r : Round) : roundOf (encRound r) = r := by
  rcases r with ⟨m, s⟩
  cases m <;> cases s <;> decide

theorem encT_lt (t : Target) : encT t < 2 ^ 9 := by
  rcases t with _ | ⟨k, n⟩
  · decide
  · have := n.isLt
    cases k <;> simp only [encT, slotCode] <;> omega

theorem encPm_lt (p : Pm) : encPm p < 3 := by cases p <;> decide

/-- The fields of a packed word, each within its width. -/
theorem unpack_pack (r : Raw) (h1 : r.op < 2 ^ 8) (h2 : r.pm < 2 ^ 2) (h3 : r.ty < 2 ^ 4) (h4 : r.md < 2 ^ 4) (h5 : r.t1 < 2 ^ 9)
    (h6 : r.t0 < 2 ^ 9) (h7 : r.low < 2 ^ 28) : unpack (pack r) r.ext = r := by
  rcases r with ⟨op, pm, ty, md, t1, t0, low, ext⟩
  simp only [unpack, pack, Raw.mk.injEq] at *
  refine ⟨?_, ?_, ?_, ?_, ?_, ?_, ?_, trivial⟩ <;> omega

end Sys2Proof
end

