-- ==== Sys2Proof/Laws/Exec.lean ====
section
/-!
SUPPORT. What any instruction or event can do, said once: it answers a next state, which a chain of effects reaches. An invariant
that every effect keeps is then an invariant of every step.
-/

set_option linter.unusedVariables false

namespace Sys2Proof.Machine

open Sys2Proof

/-- An answer that a chain of effects reaches. -/
def Answers (s : State) (o : Host.Outcome State Fault Refusal) : Prop := ∃ t, o = .next t ∧ Reach s t

theorem answers_done {s : State} (r : R s) : Answers s r.done := ⟨r.s, rfl, r.ok⟩

theorem answers_fireRes (s : State) (x : Res) : Answers s (fireRes s x) := answers_done _
theorem answers_fireRetag (s : State) (x : Res) : Answers s (fireRetag s x) := answers_done _
theorem answers_acting (s : State) (h : Hdr) (ops : List Tok) (body : R s → R s) : Answers s (acting s h ops body) := answers_done _
theorem answers_startCtl (s : State) (h : Hdr) (ops : List Tok) (i : Instr) (src : ReqSrc) (f : R s → Req → R s) :
    Answers s (startCtl s h ops i src f) := answers_done _
theorem answers_startAct (s : State) (h : Hdr) (ops : List Tok) (i : Instr) (f : R s → Req → R s) :
    Answers s (startAct s h ops i f) := by
  unfold startAct; split
  · exact answers_startCtl ..
  · exact answers_acting ..
theorem answers_memFire (s : State) (h : Hdr) (i : Instr) (m : Mem) (ty : Ty) (ops : List Tok) (op : AccOp) (ea : Word) :
    Answers s (memFire s h i m ty ops op ea) := answers_done _
theorem answers_amoFire (s : State) (h : Hdr) (i : Instr) (m : Mem) (ty : Ty) (op : Nat) (b : Tok) (ops : List Tok) (p : Tok) :
    Answers s (amoFire s h i m ty op b ops p) := by
  unfold amoFire; dsimp only; split
  · split <;> exact answers_memFire ..
  · exact answers_memFire ..
theorem answers_barFire (s : State) (h : Hdr) (i : Instr) (ops : List Tok) : Answers s (barFire s h i ops) := answers_acting ..
theorem answers_barAct (s : State) (h : Hdr) (i : Instr) (ops : List Tok) : Answers s (barAct s h i ops) := by
  unfold barAct; split
  · exact answers_barFire ..
  · exact answers_acting ..
theorem answers_exitFire (s : State) (h : Hdr) (ops : List Tok) (k : ExitKind) (c : Option AccFault) :
    Answers s (exitFire s h ops k c) := answers_done _
theorem answers_sendCmd (s : State) (h : Hdr) (ops : List Tok) (i : Instr) : Answers s (sendCmd s h ops i) := answers_acting ..

theorem execMov_answers (h : Hdr) (s : State) : Answers s (execMov h s) := answers_fireRes ..
theorem execFan3_answers (h : Hdr) (t2 : Target) (s : State) : Answers s (execFan3 h t2 s) := answers_fireRes ..
theorem execFan4_answers (h : Hdr) (t2 : Target) (t3 : Target) (s : State) : Answers s (execFan4 h t2 t3 s) := answers_fireRes ..
theorem execNul_answers (h : Hdr) (s : State) : Answers s (execNul h s) := answers_fireRes ..
theorem execSteer_answers (h : Hdr) (n : Bool) (s : State) : Answers s (execSteer h n s) := answers_fireRes ..
theorem execGate_answers (h : Hdr) (n : Bool) (s : State) : Answers s (execGate h n s) := answers_fireRes ..
theorem execMerge_answers (h : Hdr) (s : State) : Answers s (execMerge h s) := answers_fireRes ..
theorem execIter_answers (h : Hdr) (w : Fin 1024) (s : State) : Answers s (execIter h w s) := answers_done _
theorem execIterx_answers (h : Hdr) (imm : Option (BitVec 16)) (s : State) : Answers s (execIterx h imm s) := answers_fireRetag ..
theorem execTagget_answers (h : Hdr) (s : State) : Answers s (execTagget h s) := answers_fireRes ..
theorem execTagset_answers (h : Hdr) (s : State) : Answers s (execTagset h s) := answers_fireRetag ..
theorem execSlotset_answers (h : Hdr) (vs : Fin 7) (s : State) : Answers s (execSlotset h vs s) := answers_fireRetag ..
theorem execSticky_answers (h : Hdr) (s : State) : Answers s (execSticky h s) := answers_fireRes ..
theorem execPurge_answers (h : Hdr) (s : State) : Answers s (execPurge h s) := answers_fireRes ..
theorem execStop_answers (h : Hdr) (l : Fin 4) (s : State) : Answers s (execStop h l s) := answers_fireRes ..
theorem execStopt_answers (h : Hdr) (l : Fin 4) (s : State) : Answers s (execStopt h l s) := answers_fireRes ..
theorem execAdd_answers (h : Hdr) (ty : Ty) (s : State) : Answers s (execAdd h ty s) := answers_fireRes ..
theorem execSub_answers (h : Hdr) (ty : Ty) (s : State) : Answers s (execSub h ty s) := answers_fireRes ..
theorem execAdds_answers (h : Hdr) (ty : Ty) (s : State) : Answers s (execAdds h ty s) := answers_fireRes ..
theorem execSubs_answers (h : Hdr) (ty : Ty) (s : State) : Answers s (execSubs h ty s) := answers_fireRes ..
theorem execNeg_answers (h : Hdr) (ty : Ty) (s : State) : Answers s (execNeg h ty s) := answers_fireRes ..
theorem execAbs_answers (h : Hdr) (ty : Ty) (s : State) : Answers s (execAbs h ty s) := answers_fireRes ..
theorem execMul_answers (h : Hdr) (ty : Ty) (s : State) : Answers s (execMul h ty s) := answers_fireRes ..
theorem execMulh_answers (h : Hdr) (ty : Ty) (s : State) : Answers s (execMulh h ty s) := answers_fireRes ..
theorem execDiv_answers (h : Hdr) (ty : Ty) (s : State) : Answers s (execDiv h ty s) := answers_fireRes ..
theorem execRem_answers (h : Hdr) (ty : Ty) (s : State) : Answers s (execRem h ty s) := answers_fireRes ..
theorem execMin_answers (h : Hdr) (ty : Ty) (s : State) : Answers s (execMin h ty s) := answers_fireRes ..
theorem execMax_answers (h : Hdr) (ty : Ty) (s : State) : Answers s (execMax h ty s) := answers_fireRes ..
theorem execLea_answers (h : Hdr) (ty : Ty) (vs : Fin 8) (off : BitVec 17) (s : State) : Answers s (execLea h ty vs off s) := answers_fireRes ..
theorem execSel_answers (h : Hdr) (ty : Ty) (s : State) : Answers s (execSel h ty s) := answers_fireRes ..
theorem execSext_answers (h : Hdr) (ty : Ty) (n : Fin 64) (s : State) : Answers s (execSext h ty n s) := answers_fireRes ..
theorem execZext_answers (h : Hdr) (ty : Ty) (n : Fin 64) (s : State) : Answers s (execZext h ty n s) := answers_fireRes ..
theorem execAnd_answers (h : Hdr) (ty : Ty) (s : State) : Answers s (execAnd h ty s) := answers_fireRes ..
theorem execOr_answers (h : Hdr) (ty : Ty) (s : State) : Answers s (execOr h ty s) := answers_fireRes ..
theorem execXor_answers (h : Hdr) (ty : Ty) (s : State) : Answers s (execXor h ty s) := answers_fireRes ..
theorem execAndn_answers (h : Hdr) (ty : Ty) (s : State) : Answers s (execAndn h ty s) := answers_fireRes ..
theorem execNot_answers (h : Hdr) (ty : Ty) (s : State) : Answers s (execNot h ty s) := answers_fireRes ..
theorem execShl_answers (h : Hdr) (ty : Ty) (s : State) : Answers s (execShl h ty s) := answers_fireRes ..
theorem execShr_answers (h : Hdr) (ty : Ty) (s : State) : Answers s (execShr h ty s) := answers_fireRes ..
theorem execSra_answers (h : Hdr) (ty : Ty) (s : State) : Answers s (execSra h ty s) := answers_fireRes ..
theorem execRol_answers (h : Hdr) (ty : Ty) (s : State) : Answers s (execRol h ty s) := answers_fireRes ..
theorem execClz_answers (h : Hdr) (ty : Ty) (s : State) : Answers s (execClz h ty s) := answers_fireRes ..
theorem execCtz_answers (h : Hdr) (ty : Ty) (s : State) : Answers s (execCtz h ty s) := answers_fireRes ..
theorem execPopc_answers (h : Hdr) (ty : Ty) (s : State) : Answers s (execPopc h ty s) := answers_fireRes ..
theorem execBswap_answers (h : Hdr) (ty : Ty) (s : State) : Answers s (execBswap h ty s) := answers_fireRes ..
theorem execTeq_answers (h : Hdr) (ty : Ty) (s : State) : Answers s (execTeq h ty s) := answers_fireRes ..
theorem execTne_answers (h : Hdr) (ty : Ty) (s : State) : Answers s (execTne h ty s) := answers_fireRes ..
theorem execTlt_answers (h : Hdr) (ty : Ty) (s : State) : Answers s (execTlt h ty s) := answers_fireRes ..
theorem execTle_answers (h : Hdr) (ty : Ty) (s : State) : Answers s (execTle h ty s) := answers_fireRes ..
theorem execAddi_answers (h : Hdr) (ty : Ty) (imm : BitVec 20) (s : State) : Answers s (execAddi h ty imm s) := answers_fireRes ..
theorem execAndi_answers (h : Hdr) (ty : Ty) (imm : BitVec 20) (s : State) : Answers s (execAndi h ty imm s) := answers_fireRes ..
theorem execOri_answers (h : Hdr) (ty : Ty) (imm : BitVec 20) (s : State) : Answers s (execOri h ty imm s) := answers_fireRes ..
theorem execXori_answers (h : Hdr) (ty : Ty) (imm : BitVec 20) (s : State) : Answers s (execXori h ty imm s) := answers_fireRes ..
theorem execShli_answers (h : Hdr) (ty : Ty) (k : Fin 64) (s : State) : Answers s (execShli h ty k s) := answers_fireRes ..
theorem execShri_answers (h : Hdr) (ty : Ty) (k : Fin 64) (s : State) : Answers s (execShri h ty k s) := answers_fireRes ..
theorem execSrai_answers (h : Hdr) (ty : Ty) (k : Fin 64) (s : State) : Answers s (execSrai h ty k s) := answers_fireRes ..
theorem execTeqi_answers (h : Hdr) (ty : Ty) (imm : BitVec 20) (s : State) : Answers s (execTeqi h ty imm s) := answers_fireRes ..
theorem execTlti_answers (h : Hdr) (ty : Ty) (imm : BitVec 20) (s : State) : Answers s (execTlti h ty imm s) := answers_fireRes ..
theorem execTlei_answers (h : Hdr) (ty : Ty) (imm : BitVec 20) (s : State) : Answers s (execTlei h ty imm s) := answers_fireRes ..
theorem execMovi_answers (h : Hdr) (ty : Ty) (imm : BitVec 20) (s : State) : Answers s (execMovi h ty imm s) := answers_fireRes ..
theorem execMovhi_answers (h : Hdr) (ty : Ty) (imm : BitVec 20) (s : State) : Answers s (execMovhi h ty imm s) := answers_fireRes ..
theorem execMovx_answers (h : Hdr) (ty : Ty) (v : Word) (s : State) : Answers s (execMovx h ty v s) := answers_fireRes ..
theorem execFadd_answers (h : Hdr) (ty : Ty) (r : Round) (s : State) : Answers s (execFadd h ty r s) := answers_fireRes ..
theorem execFsub_answers (h : Hdr) (ty : Ty) (r : Round) (s : State) : Answers s (execFsub h ty r s) := answers_fireRes ..
theorem execFmul_answers (h : Hdr) (ty : Ty) (r : Round) (s : State) : Answers s (execFmul h ty r s) := answers_fireRes ..
theorem execFma_answers (h : Hdr) (ty : Ty) (r : Round) (s : State) : Answers s (execFma h ty r s) := answers_fireRes ..
theorem execFms_answers (h : Hdr) (ty : Ty) (r : Round) (s : State) : Answers s (execFms h ty r s) := answers_fireRes ..
theorem execFnma_answers (h : Hdr) (ty : Ty) (r : Round) (s : State) : Answers s (execFnma h ty r s) := answers_fireRes ..
theorem execFmin_answers (h : Hdr) (ty : Ty) (s : State) : Answers s (execFmin h ty s) := answers_fireRes ..
theorem execFmax_answers (h : Hdr) (ty : Ty) (s : State) : Answers s (execFmax h ty s) := answers_fireRes ..
theorem execFabs_answers (h : Hdr) (ty : Ty) (s : State) : Answers s (execFabs h ty s) := answers_fireRes ..
theorem execFneg_answers (h : Hdr) (ty : Ty) (s : State) : Answers s (execFneg h ty s) := answers_fireRes ..
theorem execFcps_answers (h : Hdr) (ty : Ty) (s : State) : Answers s (execFcps h ty s) := answers_fireRes ..
theorem execFdiv_answers (h : Hdr) (ty : Ty) (r : Round) (s : State) : Answers s (execFdiv h ty r s) := answers_fireRes ..
theorem execFsqrt_answers (h : Hdr) (ty : Ty) (r : Round) (s : State) : Answers s (execFsqrt h ty r s) := answers_fireRes ..
theorem execFrcp_answers (h : Hdr) (ty : Ty) (r : Round) (s : State) : Answers s (execFrcp h ty r s) := answers_fireRes ..
theorem execFrsq_answers (h : Hdr) (ty : Ty) (r : Round) (s : State) : Answers s (execFrsq h ty r s) := answers_fireRes ..
theorem execFexp2_answers (h : Hdr) (ty : Ty) (r : Round) (s : State) : Answers s (execFexp2 h ty r s) := answers_fireRes ..
theorem execTfeq_answers (h : Hdr) (ty : Ty) (s : State) : Answers s (execTfeq h ty s) := answers_fireRes ..
theorem execTflt_answers (h : Hdr) (ty : Ty) (s : State) : Answers s (execTflt h ty s) := answers_fireRes ..
theorem execTfle_answers (h : Hdr) (ty : Ty) (s : State) : Answers s (execTfle h ty s) := answers_fireRes ..
theorem execTfun_answers (h : Hdr) (ty : Ty) (s : State) : Answers s (execTfun h ty s) := answers_fireRes ..
theorem execFrnd_answers (h : Hdr) (ty : Ty) (r : Round) (s : State) : Answers s (execFrnd h ty r s) := answers_fireRes ..
theorem execCvt_answers (h : Hdr) (dty : Ty) (sty : Ty) (r : Round) (q : Fin 8) (s : State) : Answers s (execCvt h dty sty r q s) := answers_fireRes ..
theorem execFsum_answers (h : Hdr) (ty : Ty) (r : Round) (w : Bool) (s : State) : Answers s (execFsum h ty r w s) := answers_fireRes ..
theorem execFdot_answers (h : Hdr) (ty : Ty) (r : Round) (w : Bool) (s : State) : Answers s (execFdot h ty r w s) := answers_fireRes ..
theorem execPexp_answers (h : Hdr) (ty : Ty) (s : State) : Answers s (execPexp h ty s) := answers_fireRes ..
theorem execPmac_answers (h : Hdr) (ty : Ty) (r : Round) (s : State) : Answers s (execPmac h ty r s) := answers_fireRes ..
theorem execLd_answers (h : Hdr) (ty : Ty) (m : Mem) (s : State) : Answers s (execLd h ty m s) := answers_memFire ..
theorem execLdx_answers (h : Hdr) (ty : Ty) (m : Mem) (s : State) : Answers s (execLdx h ty m s) := answers_memFire ..
theorem execLdl_answers (h : Hdr) (ty : Ty) (m : Mem) (s : State) : Answers s (execLdl h ty m s) := answers_memFire ..
theorem execLdt_answers (h : Hdr) (ty : Ty) (m : Mem) (s : State) : Answers s (execLdt h ty m s) := answers_memFire ..
theorem execSt_answers (h : Hdr) (ty : Ty) (m : Mem) (s : State) : Answers s (execSt h ty m s) := answers_memFire ..
theorem execStx_answers (h : Hdr) (ty : Ty) (m : Mem) (s : State) : Answers s (execStx h ty m s) := answers_memFire ..
theorem execStl_answers (h : Hdr) (ty : Ty) (m : Mem) (s : State) : Answers s (execStl h ty m s) := answers_memFire ..
theorem execPref_answers (h : Hdr) (m : Mem) (s : State) : Answers s (execPref h m s) := answers_memFire ..
theorem execAmoadd_answers (h : Hdr) (ty : Ty) (m : Mem) (s : State) : Answers s (execAmoadd h ty m s) := answers_amoFire ..
theorem execAmoand_answers (h : Hdr) (ty : Ty) (m : Mem) (s : State) : Answers s (execAmoand h ty m s) := answers_amoFire ..
theorem execAmoor_answers (h : Hdr) (ty : Ty) (m : Mem) (s : State) : Answers s (execAmoor h ty m s) := answers_amoFire ..
theorem execAmoxor_answers (h : Hdr) (ty : Ty) (m : Mem) (s : State) : Answers s (execAmoxor h ty m s) := answers_amoFire ..
theorem execAmomin_answers (h : Hdr) (ty : Ty) (m : Mem) (s : State) : Answers s (execAmomin h ty m s) := answers_amoFire ..
theorem execAmomax_answers (h : Hdr) (ty : Ty) (m : Mem) (s : State) : Answers s (execAmomax h ty m s) := answers_amoFire ..
theorem execAmoswp_answers (h : Hdr) (ty : Ty) (m : Mem) (s : State) : Answers s (execAmoswp h ty m s) := answers_amoFire ..
theorem execAmocas_answers (h : Hdr) (ty : Ty) (m : Mem) (s : State) : Answers s (execAmocas h ty m s) := answers_amoFire ..
theorem execAmofadd_answers (h : Hdr) (ty : Ty) (m : Mem) (s : State) : Answers s (execAmofadd h ty m s) := answers_amoFire ..
theorem execFence_answers (h : Hdr) (m : Mem) (s : State) : Answers s (execFence h m s) := answers_done _
theorem execWaita_answers (h : Hdr) (ty : Ty) (m : Mem) (s : State) : Answers s (execWaita h ty m s) := answers_memFire ..
theorem execWake_answers (h : Hdr) (m : Mem) (s : State) : Answers s (execWake h m s) := answers_memFire ..
theorem execRetry_answers (h : Hdr) (s : State) : Answers s (execRetry h s) := answers_acting ..
theorem execSopen_answers (h : Hdr) (port : Fin 16) (sc : Fin 4) (s : State) : Answers s (execSopen h port sc s) := answers_startCtl ..
theorem execSclose_answers (h : Hdr) (s : State) : Answers s (execSclose h s) := answers_done _
theorem execSpos_answers (h : Hdr) (s : State) : Answers s (execSpos h s) := answers_done _
theorem execMrg_answers (h : Hdr) (ty : Ty) (d : Bool) (s : State) : Answers s (execMrg h ty d s) := answers_fireRes ..
theorem execMrgcfg_answers (h : Hdr) (s : State) : Answers s (execMrgcfg h s) := answers_acting ..
theorem execCrd_answers (h : Hdr) (ty : Ty) (s : State) : Answers s (execCrd h ty s) := answers_fireRes ..
theorem execMwld_answers (h : Hdr) (l : Bool) (s : State) : Answers s (execMwld h l s) := answers_sendCmd ..
theorem execMwswap_answers (h : Hdr) (s : State) : Answers s (execMwswap h s) := answers_sendCmd ..
theorem execMstr_answers (h : Hdr) (s : State) : Answers s (execMstr h s) := answers_sendCmd ..
theorem execMrdo_answers (h : Hdr) (s : State) : Answers s (execMrdo h s) := answers_acting ..
theorem execMzero_answers (h : Hdr) (s : State) : Answers s (execMzero h s) := answers_sendCmd ..
theorem execMcfg_answers (h : Hdr) (s : State) : Answers s (execMcfg h s) := answers_sendCmd ..
theorem execKvld_answers (h : Hdr) (ty : Ty) (m : Mem) (s : State) : Answers s (execKvld h ty m s) := answers_memFire ..
theorem execKvst_answers (h : Hdr) (ty : Ty) (m : Mem) (s : State) : Answers s (execKvst h ty m s) := answers_memFire ..
theorem execKvapp_answers (h : Hdr) (s : State) : Answers s (execKvapp h s) := answers_startCtl ..
theorem execKvqry_answers (h : Hdr) (s : State) : Answers s (execKvqry h s) := answers_acting ..
theorem execSmxupd_answers (h : Hdr) (ty : Ty) (s : State) : Answers s (execSmxupd h ty s) := answers_fireRes ..
theorem execDrvdecl_answers (h : Hdr) (s : State) : Answers s (execDrvdecl h s) := answers_startCtl ..
theorem execDrvdrop_answers (h : Hdr) (s : State) : Answers s (execDrvdrop h s) := answers_startCtl ..
theorem execDld_answers (h : Hdr) (ty : Ty) (m : Mem) (s : State) : Answers s (execDld h ty m s) := answers_done _
theorem execDldl_answers (h : Hdr) (ty : Ty) (m : Mem) (s : State) : Answers s (execDldl h ty m s) := answers_done _
theorem execDrvsync_answers (h : Hdr) (s : State) : Answers s (execDrvsync h s) := answers_startCtl ..
theorem execDrvstat_answers (h : Hdr) (s : State) : Answers s (execDrvstat h s) := answers_startCtl ..
theorem execLease_answers (h : Hdr) (n : Fin 256) (d : Bool) (s : State) : Answers s (execLease h n d s) := answers_startCtl ..
theorem execRplhint_answers (h : Hdr) (x : Fin 3) (s : State) : Answers s (execRplhint h x s) := answers_done _
theorem execTickrd_answers (h : Hdr) (x : Fin 4) (s : State) : Answers s (execTickrd h x s) := answers_done _
theorem execRplcnt_answers (h : Hdr) (s : State) : Answers s (execRplcnt h s) := answers_done _
theorem execRead_answers (h : Hdr) (g : Fin 64) (s : State) : Answers s (execRead h g s) := answers_fireRes ..
theorem execWrite_answers (h : Hdr) (g : Fin 64) (s : State) : Answers s (execWrite h g s) := answers_done _
theorem execBro_answers (h : Hdr) (off : BitVec 28) (s : State) : Answers s (execBro h off s) := by
  unfold execBro; exact answers_exitFire ..
theorem execBri_answers (h : Hdr) (s : State) : Answers s (execBri h s) := by
  unfold execBri; exact answers_exitFire ..
theorem execCall_answers (h : Hdr) (off : BitVec 28) (s : State) : Answers s (execCall h off s) := by
  unfold execCall; exact answers_exitFire ..
theorem execRet_answers (h : Hdr) (s : State) : Answers s (execRet h s) := by
  unfold execRet; exact answers_exitFire ..
theorem execHalt_answers (h : Hdr) (s : State) : Answers s (execHalt h s) := by
  unfold execHalt; exact answers_exitFire ..
theorem execLaunch_answers (h : Hdr) (q : Fin 16384) (s : State) : Answers s (execLaunch h q s) := answers_startAct ..
theorem execUnitend_answers (h : Hdr) (s : State) : Answers s (execUnitend h s) := answers_startAct ..
theorem execYield_answers (h : Hdr) (s : State) : Answers s (execYield h s) := answers_startAct ..
theorem execGrpcnt_answers (h : Hdr) (s : State) : Answers s (execGrpcnt h s) := answers_acting ..
theorem execGrpwait_answers (h : Hdr) (s : State) : Answers s (execGrpwait h s) := answers_startCtl ..
theorem execGrpcan_answers (h : Hdr) (s : State) : Answers s (execGrpcan h s) := answers_startCtl ..
theorem execBarinit_answers (h : Hdr) (s : State) : Answers s (execBarinit h s) := answers_barAct ..
theorem execBaradd_answers (h : Hdr) (s : State) : Answers s (execBaradd h s) := answers_barAct ..
theorem execBararr_answers (h : Hdr) (s : State) : Answers s (execBararr h s) := answers_barAct ..
theorem execBarwt_answers (h : Hdr) (s : State) : Answers s (execBarwt h s) := answers_barFire ..
theorem execBartst_answers (h : Hdr) (s : State) : Answers s (execBartst h s) := answers_barFire ..
theorem execEngpost_answers (h : Hdr) (s : State) : Answers s (execEngpost h s) := answers_startAct ..
theorem execEngqry_answers (h : Hdr) (s : State) : Answers s (execEngqry h s) := answers_startCtl ..
theorem execTrap_answers (h : Hdr) (code : BitVec 16) (s : State) : Answers s (execTrap h code s) := answers_acting ..
theorem execEret_answers (h : Hdr) (s : State) : Answers s (execEret h s) := answers_startAct ..
theorem execCsrrd_answers (h : Hdr) (n : BitVec 12) (x : Bool) (s : State) : Answers s (execCsrrd h n x s) := answers_acting ..
theorem execCsrwr_answers (h : Hdr) (n : BitVec 12) (x : Bool) (s : State) : Answers s (execCsrwr h n x s) := answers_startAct ..
theorem execMark_answers (h : Hdr) (s : State) : Answers s (execMark h s) := answers_startAct ..
theorem execBrk_answers (h : Hdr) (s : State) : Answers s (execBrk h s) := answers_acting ..
theorem execOwnqry_answers (h : Hdr) (s : State) : Answers s (execOwnqry h s) := answers_acting ..
theorem execCfgld_answers (h : Hdr) (pin : Bool) (s : State) : Answers s (execCfgld h pin s) := answers_startCtl ..
theorem execCfgswap_answers (h : Hdr) (s : State) : Answers s (execCfgswap h s) := answers_startCtl ..
theorem execCfgdrain_answers (h : Hdr) (s : State) : Answers s (execCfgdrain h s) := answers_startCtl ..
theorem execCfgpin_answers (h : Hdr) (pin : Bool) (s : State) : Answers s (execCfgpin h pin s) := answers_startCtl ..
theorem execCfgqry_answers (h : Hdr) (x : Fin 6) (s : State) : Answers s (execCfgqry h x s) := answers_acting ..
theorem execTlbinv_answers (h : Hdr) (vs : Fin 8) (s : State) : Answers s (execTlbinv h vs s) := answers_startAct ..
theorem execTlbinva_answers (h : Hdr) (vs : Fin 8) (s : State) : Answers s (execTlbinva h vs s) := answers_startAct ..
theorem execBiasreq_answers (h : Hdr) (s : State) : Answers s (execBiasreq h s) := answers_startAct ..
theorem execPgmig_answers (h : Hdr) (s : State) : Answers s (execPgmig h s) := answers_startAct ..
theorem execPgqry_answers (h : Hdr) (s : State) : Answers s (execPgqry h s) := answers_done _
theorem execTokenAccept_answers (core : Nat) (x : Nat) (y : Nat) (s : State) : Answers s (execTokenAccept core x y s) := answers_done _
theorem execSpillRefill_answers (core : Nat) (x : Nat) (y : Nat) (s : State) : Answers s (execSpillRefill core x y s) := answers_done _
theorem execSlotImageFetch_answers (core : Nat) (x : Nat) (y : Nat) (slot : Nat) (s : State) : Answers s (execSlotImageFetch core x y slot s) := answers_done _
theorem execCoreQuiescent_answers (core : Nat) (c : Nat) (s : State) : Answers s (execCoreQuiescent core c s) := answers_done _
theorem execMarkerArrival_answers (core : Nat) (n : Nat) (s : State) : Answers s (execMarkerArrival core n s) := answers_done _
theorem execTrestleGrant_answers (core : Nat) (c : Nat) (unit : Nat) (t : Nat) (s : State) : Answers s (execTrestleGrant core c unit t s) := answers_done _
theorem execBlockMap_answers (core : Nat) (t : Nat) (s : State) : Answers s (execBlockMap core t s) := answers_done _
theorem execBlockSettlement_answers (core : Nat) (t : Nat) (s : State) : Answers s (execBlockSettlement core t s) := answers_done _
theorem execWatchdog_answers (core : Nat) (t : Nat) (s : State) : Answers s (execWatchdog core t s) := answers_done _
theorem execDoorbell_answers (q : Nat) (v : Word) (s : State) : Answers s (execDoorbell q v s) := answers_done _
theorem execQueueEnable_answers (q : Nat) (s : State) : Answers s (execQueueEnable q s) := answers_done _
theorem execQueueDisable_answers (q : Nat) (s : State) : Answers s (execQueueDisable q s) := answers_done _
theorem execRecordTake_answers (die : Nat) (s : State) : Answers s (execRecordTake die s) := answers_done _
theorem execUnitTakesPlace_answers (core : Nat) (s : State) : Answers s (execUnitTakesPlace core s) := answers_done _
theorem execUnitCompletion_answers (core : Nat) (c : Nat) (unit : Nat) (s : State) : Answers s (execUnitCompletion core c unit s) := answers_done _
theorem execConfigLoad_answers (cluster : Nat) (n : Nat) (s : State) : Answers s (execConfigLoad cluster n s) := answers_done _
theorem execDrainComplete_answers (id : Nat) (s : State) : Answers s (execDrainComplete id s) := answers_done _
theorem execDrainTimeout_answers (id : Nat) (s : State) : Answers s (execDrainTimeout id s) := answers_done _
theorem execSpareRepair_answers (core : Nat) (x : Nat) (y : Nat) (s : State) : Answers s (execSpareRepair core x y s) := answers_done _
theorem execPortReport_answers (id : Nat) (s : State) : Answers s (execPortReport id s) := answers_done _
theorem execPortAccessIssue_answers (id : Nat) (s : State) : Answers s (execPortAccessIssue id s) := answers_done _
theorem execStreamElement_answers (core : Nat) (port : Nat) (sc : Nat) (s : State) : Answers s (execStreamElement core port sc s) := answers_done _
theorem execOutputStreamToken_answers (core : Nat) (port : Nat) (sc : Nat) (s : State) : Answers s (execOutputStreamToken core port sc s) := by
  unfold execOutputStreamToken; split <;> exact answers_done _
theorem execMergeInput_answers (core : Nat) (n : Nat) (s : State) : Answers s (execMergeInput core n s) := answers_done _
theorem execMergeNodeDecision_answers (core : Nat) (n : Nat) (s : State) : Answers s (execMergeNodeDecision core n s) := answers_done _
theorem execFifoAccept_answers (core : Nat) (n : Nat) (s : State) : Answers s (execFifoAccept core n s) := answers_done _
theorem execFifoEmit_answers (core : Nat) (m : Nat) (s : State) : Answers s (execFifoEmit core m s) := answers_done _
theorem execFormatIsland_answers (core : Nat) (n : Nat) (s : State) : Answers s (execFormatIsland core n s) := answers_done _
theorem execMatrixCommandFire_answers (core : Nat) (n : Nat) (s : State) : Answers s (execMatrixCommandFire core n s) := answers_done _
theorem execPlaneLoadComplete_answers (core : Nat) (s : State) : Answers s (execPlaneLoadComplete core s) := answers_done _
theorem execHomeAccess_answers (id : Nat) (s : State) : Answers s (execHomeAccess id s) := answers_done _
theorem execAccessCompletion_answers (id : Nat) (s : State) : Answers s (execAccessCompletion id s) := answers_done _
theorem execWaitaPoll_answers (id : Nat) (s : State) : Answers s (execWaitaPoll id s) := answers_done _
theorem execOrderedAtomicArrival_answers (id : Nat) (s : State) : Answers s (execOrderedAtomicArrival id s) := answers_done _
theorem execOrderedAtomicRetry_answers (id : Nat) (s : State) : Answers s (execOrderedAtomicRetry id s) := answers_done _
theorem execDeltaApply_answers (die : Nat) (n : Nat) (s : State) : Answers s (execDeltaApply die n s) := answers_done _
theorem execRescan_answers (die : Nat) (n : Nat) (s : State) : Answers s (execRescan die n s) := answers_done _
theorem execFlushMarker_answers (id : Nat) (home : Nat) (s : State) : Answers s (execFlushMarker id home s) := answers_done _
theorem execPublish_answers (die : Nat) (n : Nat) (res : Nat) (s : State) : Answers s (execPublish die n res s) := answers_done _
theorem execBuildComplete_answers (die : Nat) (n : Nat) (s : State) : Answers s (execBuildComplete die n s) := answers_done _
theorem execPtsAdvance_answers (core : Nat) (s : State) : Answers s (execPtsAdvance core s) := answers_done _
theorem execTrackerDecay_answers (s : State) : Answers s (execTrackerDecay s) := answers_done _
theorem execRebase_answers (s : State) : Answers s (execRebase s) := answers_done _
theorem execScrubReport_answers (s : State) : Answers s (execScrubReport s) := answers_done _
theorem execJobArrival_answers (die : Nat) (n : Nat) (s : State) : Answers s (execJobArrival die n s) := answers_done _
theorem execJobStart_answers (die : Nat) (e : Nat) (s : State) : Answers s (execJobStart die e s) := answers_done _
theorem execJobLanding_answers (die : Nat) (e : Nat) (s : State) : Answers s (execJobLanding die e s) := answers_done _
theorem execRingTimeout_answers (die : Nat) (e : Nat) (s : State) : Answers s (execRingTimeout die e s) := answers_done _
theorem execCopyingComplete_answers (id : Nat) (s : State) : Answers s (execCopyingComplete id s) := answers_done _
theorem execFreezingComplete_answers (id : Nat) (s : State) : Answers s (execFreezingComplete id s) := answers_done _
theorem execCutComplete_answers (c : Nat) (s : State) : Answers s (execCutComplete c s) := answers_done _
theorem execSaveImageWritten_answers (c : Nat) (s : State) : Answers s (execSaveImageWritten c s) := answers_done _
theorem execScrub_answers (s : State) : Answers s (execScrub s) := answers_done _
theorem execRequestFlit_answers (port : Nat) (r : LinkReq) (s : State) : Answers s (execRequestFlit port r s) := answers_done _
theorem execCompletionFlit_answers (port : Nat) (id : Nat) (v : List Byte) (s : State) : Answers s (execCompletionFlit port id v s) := answers_done _
theorem execRecallFlit_answers (port : Nat) (m : Nat) (pa : Nat) (bytes : List Byte) (s : State) : Answers s (execRecallFlit port m pa bytes s) := answers_done _
theorem execCollectiveFlit_answers (die : Nat) (e : Nat) (v : List Byte) (s : State) : Answers s (execCollectiveFlit die e v s) := answers_done _
theorem execManagementFlit_answers (port : Nat) (msg : MgmtMsg) (s : State) : Answers s (execManagementFlit port msg s) := answers_done _
theorem execAckFlit_answers (port : Nat) (seq : Nat) (s : State) : Answers s (execAckFlit port seq s) := answers_done _
theorem execNakFlit_answers (port : Nat) (seq : Nat) (s : State) : Answers s (execNakFlit port seq s) := answers_done _
theorem execAbortFlit_answers (die : Nat) (e : Nat) (s : State) : Answers s (execAbortFlit die e s) := answers_done _
theorem execCompletionTimeout_answers (id : Nat) (s : State) : Answers s (execCompletionTimeout id s) := answers_done _
theorem execTrainingComplete_answers (port : Nat) (lanes : BitVec 8) (s : State) : Answers s (execTrainingComplete port lanes s) := answers_done _
theorem execTrainingTimeout_answers (port : Nat) (s : State) : Answers s (execTrainingTimeout port s) := answers_done _
theorem execLaneLoss_answers (port : Nat) (lane : Nat) (s : State) : Answers s (execLaneLoss port lane s) := answers_done _
theorem execPeerLoss_answers (port : Nat) (s : State) : Answers s (execPeerLoss port s) := answers_done _
theorem execPortEnable_answers (port : Nat) (s : State) : Answers s (execPortEnable port s) := answers_done _
theorem execPortDisable_answers (port : Nat) (s : State) : Answers s (execPortDisable port s) := answers_done _
theorem execPowerGood_answers (s : State) : Answers s (execPowerGood s) := answers_done _
theorem execClaim_answers (m : Nat) (s : State) : Answers s (execClaim m s) := answers_done _
theorem execHandover_answers (m : Nat) (succ : Nat) (s : State) : Answers s (execHandover m succ s) := answers_done _
theorem execDetach_answers (m : Nat) (s : State) : Answers s (execDetach m s) := answers_done _
theorem execCut_answers (m : Nat) (c : Nat) (cls : Nat) (s : State) : Answers s (execCut m c cls s) := answers_done _
theorem execCutCheckpoint_answers (m : Nat) (c : Nat) (cls : Nat) (s : State) : Answers s (execCutCheckpoint m c cls s) := answers_done _
theorem execCutResume_answers (m : Nat) (c : Nat) (cls : Nat) (s : State) : Answers s (execCutResume m c cls s) := answers_done _
theorem execFlip_answers (m : Nat) (frame : Nat) (host : Bool) (s : State) : Answers s (execFlip m frame host s) := answers_done _
theorem execPost_answers (m : Nat) (c : Nat) (a : Word) (s : State) : Answers s (execPost m c a s) := answers_done _
theorem execStream_answers (m : Nat) (len : Nat) (s : State) : Answers s (execStream m len s) := answers_done _
theorem execQuote_answers (m : Nat) (nonce : List Byte) (s : State) : Answers s (execQuote m nonce s) := answers_done _
theorem execResetCold_answers (m : Nat) (s : State) : Answers s (execResetCold m s) := answers_done _
theorem execResetWarm_answers (m : Nat) (s : State) : Answers s (execResetWarm m s) := answers_done _
theorem execOwnershipLapse_answers (s : State) : Answers s (execOwnershipLapse s) := answers_done _
theorem execThrottleStep_answers (watts : BitVec 16) (tj : BitVec 8) (s : State) : Answers s (execThrottleStep watts tj s) := answers_done _
theorem execThermalTrip_answers (s : State) : Answers s (execThermalTrip s) := answers_done _
theorem execContextCreate_answers (iss : Nat) (c : Nat) (v : Word) (s : State) : Answers s (execContextCreate iss c v s) := answers_done _
theorem execContextDestroy_answers (iss : Nat) (c : Nat) (s : State) : Answers s (execContextDestroy iss c s) := answers_done _
theorem execTickbaseWrite_answers (iss : Nat) (v : Word) (s : State) : Answers s (execTickbaseWrite iss v s) := answers_done _
theorem execRegisterWrite_answers (w : Writer) (r : RegName) (v : Word) (s : State) : Answers s (execRegisterWrite w r v s) := answers_done _
theorem execRecallTimeout_answers (id : Nat) (s : State) : Answers s (execRecallTimeout id s) := answers_done _
theorem execPeerPresent_answers (port : Nat) (peer : Nat) (s : State) : Answers s (execPeerPresent port peer s) := answers_done _
theorem execBadFlit_answers (port : Nat) (reserved : Bool) (s : State) : Answers s (execBadFlit port reserved s) := answers_done _
theorem execResumeComplete_answers (c : Nat) (s : State) : Answers s (execResumeComplete c s) := answers_done _
theorem execReady_answers (s : State) : Answers s (execReady s) := answers_done _
theorem execDuplicatedStateCompare_answers (cs : List Nat) (s : State) : Answers s (execDuplicatedStateCompare cs s) := answers_done _

/-- Every row of the table answers a next state that effects reach. -/
theorem exec_answers (i : Instr) (s : State) : Answers s (exec i s) := by
  cases i with
  | mov h => exact execMov_answers h s
  | fan3 h t2 => exact execFan3_answers h t2 s
  | fan4 h t2 t3 => exact execFan4_answers h t2 t3 s
  | nul h => exact execNul_answers h s
  | steer h n => exact execSteer_answers h n s
  | gate h n => exact execGate_answers h n s
  | merge h => exact execMerge_answers h s
  | iter h w => exact execIter_answers h w s
  | iterx h imm => exact execIterx_answers h imm s
  | tagget h => exact execTagget_answers h s
  | tagset h => exact execTagset_answers h s
  | slotset h vs => exact execSlotset_answers h vs s
  | sticky h => exact execSticky_answers h s
  | purge h => exact execPurge_answers h s
  | stop h l => exact execStop_answers h l s
  | stopt h l => exact execStopt_answers h l s
  | add h ty => exact execAdd_answers h ty s
  | sub h ty => exact execSub_answers h ty s
  | adds h ty => exact execAdds_answers h ty s
  | subs h ty => exact execSubs_answers h ty s
  | neg h ty => exact execNeg_answers h ty s
  | abs h ty => exact execAbs_answers h ty s
  | mul h ty => exact execMul_answers h ty s
  | mulh h ty => exact execMulh_answers h ty s
  | div h ty => exact execDiv_answers h ty s
  | rem h ty => exact execRem_answers h ty s
  | min h ty => exact execMin_answers h ty s
  | max h ty => exact execMax_answers h ty s
  | lea h ty vs off => exact execLea_answers h ty vs off s
  | sel h ty => exact execSel_answers h ty s
  | sext h ty n => exact execSext_answers h ty n s
  | zext h ty n => exact execZext_answers h ty n s
  | and h ty => exact execAnd_answers h ty s
  | or h ty => exact execOr_answers h ty s
  | xor h ty => exact execXor_answers h ty s
  | andn h ty => exact execAndn_answers h ty s
  | not h ty => exact execNot_answers h ty s
  | shl h ty => exact execShl_answers h ty s
  | shr h ty => exact execShr_answers h ty s
  | sra h ty => exact execSra_answers h ty s
  | rol h ty => exact execRol_answers h ty s
  | clz h ty => exact execClz_answers h ty s
  | ctz h ty => exact execCtz_answers h ty s
  | popc h ty => exact execPopc_answers h ty s
  | bswap h ty => exact execBswap_answers h ty s
  | teq h ty => exact execTeq_answers h ty s
  | tne h ty => exact execTne_answers h ty s
  | tlt h ty => exact execTlt_answers h ty s
  | tle h ty => exact execTle_answers h ty s
  | addi h ty imm => exact execAddi_answers h ty imm s
  | andi h ty imm => exact execAndi_answers h ty imm s
  | ori h ty imm => exact execOri_answers h ty imm s
  | xori h ty imm => exact execXori_answers h ty imm s
  | shli h ty k => exact execShli_answers h ty k s
  | shri h ty k => exact execShri_answers h ty k s
  | srai h ty k => exact execSrai_answers h ty k s
  | teqi h ty imm => exact execTeqi_answers h ty imm s
  | tlti h ty imm => exact execTlti_answers h ty imm s
  | tlei h ty imm => exact execTlei_answers h ty imm s
  | movi h ty imm => exact execMovi_answers h ty imm s
  | movhi h ty imm => exact execMovhi_answers h ty imm s
  | movx h ty v => exact execMovx_answers h ty v s
  | fadd h ty r => exact execFadd_answers h ty r s
  | fsub h ty r => exact execFsub_answers h ty r s
  | fmul h ty r => exact execFmul_answers h ty r s
  | fma h ty r => exact execFma_answers h ty r s
  | fms h ty r => exact execFms_answers h ty r s
  | fnma h ty r => exact execFnma_answers h ty r s
  | fmin h ty => exact execFmin_answers h ty s
  | fmax h ty => exact execFmax_answers h ty s
  | fabs h ty => exact execFabs_answers h ty s
  | fneg h ty => exact execFneg_answers h ty s
  | fcps h ty => exact execFcps_answers h ty s
  | fdiv h ty r => exact execFdiv_answers h ty r s
  | fsqrt h ty r => exact execFsqrt_answers h ty r s
  | frcp h ty r => exact execFrcp_answers h ty r s
  | frsq h ty r => exact execFrsq_answers h ty r s
  | fexp2 h ty r => exact execFexp2_answers h ty r s
  | tfeq h ty => exact execTfeq_answers h ty s
  | tflt h ty => exact execTflt_answers h ty s
  | tfle h ty => exact execTfle_answers h ty s
  | tfun h ty => exact execTfun_answers h ty s
  | frnd h ty r => exact execFrnd_answers h ty r s
  | cvt h dty sty r q => exact execCvt_answers h dty sty r q s
  | fsum h ty r w => exact execFsum_answers h ty r w s
  | fdot h ty r w => exact execFdot_answers h ty r w s
  | pexp h ty => exact execPexp_answers h ty s
  | pmac h ty r => exact execPmac_answers h ty r s
  | ld h ty m => exact execLd_answers h ty m s
  | ldx h ty m => exact execLdx_answers h ty m s
  | ldl h ty m => exact execLdl_answers h ty m s
  | ldt h ty m => exact execLdt_answers h ty m s
  | st h ty m => exact execSt_answers h ty m s
  | stx h ty m => exact execStx_answers h ty m s
  | stl h ty m => exact execStl_answers h ty m s
  | pref h m => exact execPref_answers h m s
  | amoadd h ty m => exact execAmoadd_answers h ty m s
  | amoand h ty m => exact execAmoand_answers h ty m s
  | amoor h ty m => exact execAmoor_answers h ty m s
  | amoxor h ty m => exact execAmoxor_answers h ty m s
  | amomin h ty m => exact execAmomin_answers h ty m s
  | amomax h ty m => exact execAmomax_answers h ty m s
  | amoswp h ty m => exact execAmoswp_answers h ty m s
  | amocas h ty m => exact execAmocas_answers h ty m s
  | amofadd h ty m => exact execAmofadd_answers h ty m s
  | fence h m => exact execFence_answers h m s
  | waita h ty m => exact execWaita_answers h ty m s
  | wake h m => exact execWake_answers h m s
  | retry h => exact execRetry_answers h s
  | sopen h port sc => exact execSopen_answers h port sc s
  | sclose h => exact execSclose_answers h s
  | spos h => exact execSpos_answers h s
  | mrg h ty d => exact execMrg_answers h ty d s
  | mrgcfg h => exact execMrgcfg_answers h s
  | crd h ty => exact execCrd_answers h ty s
  | mwld h l => exact execMwld_answers h l s
  | mwswap h => exact execMwswap_answers h s
  | mstr h => exact execMstr_answers h s
  | mrdo h => exact execMrdo_answers h s
  | mzero h => exact execMzero_answers h s
  | mcfg h => exact execMcfg_answers h s
  | kvld h ty m => exact execKvld_answers h ty m s
  | kvst h ty m => exact execKvst_answers h ty m s
  | kvapp h => exact execKvapp_answers h s
  | kvqry h => exact execKvqry_answers h s
  | smxupd h ty => exact execSmxupd_answers h ty s
  | drvdecl h => exact execDrvdecl_answers h s
  | drvdrop h => exact execDrvdrop_answers h s
  | dld h ty m => exact execDld_answers h ty m s
  | dldl h ty m => exact execDldl_answers h ty m s
  | drvsync h => exact execDrvsync_answers h s
  | drvstat h => exact execDrvstat_answers h s
  | lease h n d => exact execLease_answers h n d s
  | rplhint h x => exact execRplhint_answers h x s
  | tickrd h x => exact execTickrd_answers h x s
  | rplcnt h => exact execRplcnt_answers h s
  | read h g => exact execRead_answers h g s
  | write h g => exact execWrite_answers h g s
  | bro h off => exact execBro_answers h off s
  | bri h => exact execBri_answers h s
  | call h off => exact execCall_answers h off s
  | ret h => exact execRet_answers h s
  | halt h => exact execHalt_answers h s
  | launch h q => exact execLaunch_answers h q s
  | unitend h => exact execUnitend_answers h s
  | yield h => exact execYield_answers h s
  | grpcnt h => exact execGrpcnt_answers h s
  | grpwait h => exact execGrpwait_answers h s
  | grpcan h => exact execGrpcan_answers h s
  | barinit h => exact execBarinit_answers h s
  | baradd h => exact execBaradd_answers h s
  | bararr h => exact execBararr_answers h s
  | barwt h => exact execBarwt_answers h s
  | bartst h => exact execBartst_answers h s
  | engpost h => exact execEngpost_answers h s
  | engqry h => exact execEngqry_answers h s
  | trap h code => exact execTrap_answers h code s
  | eret h => exact execEret_answers h s
  | csrrd h n x => exact execCsrrd_answers h n x s
  | csrwr h n x => exact execCsrwr_answers h n x s
  | mark h => exact execMark_answers h s
  | brk h => exact execBrk_answers h s
  | ownqry h => exact execOwnqry_answers h s
  | cfgld h pin => exact execCfgld_answers h pin s
  | cfgswap h => exact execCfgswap_answers h s
  | cfgdrain h => exact execCfgdrain_answers h s
  | cfgpin h pin => exact execCfgpin_answers h pin s
  | cfgqry h x => exact execCfgqry_answers h x s
  | tlbinv h vs => exact execTlbinv_answers h vs s
  | tlbinva h vs => exact execTlbinva_answers h vs s
  | biasreq h => exact execBiasreq_answers h s
  | pgmig h => exact execPgmig_answers h s
  | pgqry h => exact execPgqry_answers h s
  | tokenAccept core x y => exact execTokenAccept_answers core x y s
  | spillRefill core x y => exact execSpillRefill_answers core x y s
  | slotImageFetch core x y slot => exact execSlotImageFetch_answers core x y slot s
  | coreQuiescent core c => exact execCoreQuiescent_answers core c s
  | markerArrival core n => exact execMarkerArrival_answers core n s
  | trestleGrant core c unit t => exact execTrestleGrant_answers core c unit t s
  | blockMap core t => exact execBlockMap_answers core t s
  | blockSettlement core t => exact execBlockSettlement_answers core t s
  | watchdog core t => exact execWatchdog_answers core t s
  | doorbell q v => exact execDoorbell_answers q v s
  | queueEnable q => exact execQueueEnable_answers q s
  | queueDisable q => exact execQueueDisable_answers q s
  | recordTake die => exact execRecordTake_answers die s
  | unitTakesPlace core => exact execUnitTakesPlace_answers core s
  | unitCompletion core c unit => exact execUnitCompletion_answers core c unit s
  | configLoad cluster n => exact execConfigLoad_answers cluster n s
  | drainComplete id => exact execDrainComplete_answers id s
  | drainTimeout id => exact execDrainTimeout_answers id s
  | spareRepair core x y => exact execSpareRepair_answers core x y s
  | portReport id => exact execPortReport_answers id s
  | portAccessIssue id => exact execPortAccessIssue_answers id s
  | streamElement core port sc => exact execStreamElement_answers core port sc s
  | outputStreamToken core port sc => exact execOutputStreamToken_answers core port sc s
  | mergeInput core n => exact execMergeInput_answers core n s
  | mergeNodeDecision core n => exact execMergeNodeDecision_answers core n s
  | fifoAccept core n => exact execFifoAccept_answers core n s
  | fifoEmit core m => exact execFifoEmit_answers core m s
  | formatIsland core n => exact execFormatIsland_answers core n s
  | matrixCommandFire core n => exact execMatrixCommandFire_answers core n s
  | planeLoadComplete core => exact execPlaneLoadComplete_answers core s
  | homeAccess id => exact execHomeAccess_answers id s
  | accessCompletion id => exact execAccessCompletion_answers id s
  | waitaPoll id => exact execWaitaPoll_answers id s
  | orderedAtomicArrival id => exact execOrderedAtomicArrival_answers id s
  | orderedAtomicRetry id => exact execOrderedAtomicRetry_answers id s
  | deltaApply die n => exact execDeltaApply_answers die n s
  | rescan die n => exact execRescan_answers die n s
  | flushMarker id home => exact execFlushMarker_answers id home s
  | publish die n res => exact execPublish_answers die n res s
  | buildComplete die n => exact execBuildComplete_answers die n s
  | ptsAdvance core => exact execPtsAdvance_answers core s
  | trackerDecay => exact execTrackerDecay_answers s
  | rebase => exact execRebase_answers s
  | scrubReport => exact execScrubReport_answers s
  | jobArrival die n => exact execJobArrival_answers die n s
  | jobStart die e => exact execJobStart_answers die e s
  | jobLanding die e => exact execJobLanding_answers die e s
  | ringTimeout die e => exact execRingTimeout_answers die e s
  | copyingComplete id => exact execCopyingComplete_answers id s
  | freezingComplete id => exact execFreezingComplete_answers id s
  | cutComplete c => exact execCutComplete_answers c s
  | saveImageWritten c => exact execSaveImageWritten_answers c s
  | scrub => exact execScrub_answers s
  | requestFlit port r => exact execRequestFlit_answers port r s
  | completionFlit port id v => exact execCompletionFlit_answers port id v s
  | recallFlit port m pa bytes => exact execRecallFlit_answers port m pa bytes s
  | collectiveFlit die e v => exact execCollectiveFlit_answers die e v s
  | managementFlit port msg => exact execManagementFlit_answers port msg s
  | ackFlit port seq => exact execAckFlit_answers port seq s
  | nakFlit port seq => exact execNakFlit_answers port seq s
  | abortFlit die e => exact execAbortFlit_answers die e s
  | completionTimeout id => exact execCompletionTimeout_answers id s
  | trainingComplete port lanes => exact execTrainingComplete_answers port lanes s
  | trainingTimeout port => exact execTrainingTimeout_answers port s
  | laneLoss port lane => exact execLaneLoss_answers port lane s
  | peerLoss port => exact execPeerLoss_answers port s
  | portEnable port => exact execPortEnable_answers port s
  | portDisable port => exact execPortDisable_answers port s
  | powerGood => exact execPowerGood_answers s
  | claim m => exact execClaim_answers m s
  | handover m succ => exact execHandover_answers m succ s
  | detach m => exact execDetach_answers m s
  | cut m c cls => exact execCut_answers m c cls s
  | cutCheckpoint m c cls => exact execCutCheckpoint_answers m c cls s
  | cutResume m c cls => exact execCutResume_answers m c cls s
  | flip m frame host => exact execFlip_answers m frame host s
  | post m c a => exact execPost_answers m c a s
  | stream m len => exact execStream_answers m len s
  | quote m nonce => exact execQuote_answers m nonce s
  | resetCold m => exact execResetCold_answers m s
  | resetWarm m => exact execResetWarm_answers m s
  | ownershipLapse => exact execOwnershipLapse_answers s
  | throttleStep watts tj => exact execThrottleStep_answers watts tj s
  | thermalTrip => exact execThermalTrip_answers s
  | contextCreate iss c v => exact execContextCreate_answers iss c v s
  | contextDestroy iss c => exact execContextDestroy_answers iss c s
  | tickbaseWrite iss v => exact execTickbaseWrite_answers iss v s
  | registerWrite w r v => exact execRegisterWrite_answers w r v s
  | recallTimeout id => exact execRecallTimeout_answers id s
  | peerPresent port peer => exact execPeerPresent_answers port peer s
  | badFlit port reserved => exact execBadFlit_answers port reserved s
  | resumeComplete c => exact execResumeComplete_answers c s
  | ready => exact execReady_answers s
  | duplicatedStateCompare cs => exact execDuplicatedStateCompare_answers cs s

end Sys2Proof.Machine
end

