-- ==== Sys2Proof/Laws/Tab.lean ====
section
/-!
SUPPORT. Laws of sparse tables: a read after a write, and that a write keeps the canonical form and the bound of the keys.
-/

namespace Sys2Proof

open Sys2Proof.Machine

variable {α : Type}

theorem tabGet_tabDel_same (d : α) (k : Nat) (t : Tab α) : tabGet d k (tabDel k t) = d := by
  induction t with
  | nil => rfl
  | cons x t ih =>
    rcases x with ⟨j, w⟩
    by_cases h : k = j
    · subst h; simp [tabDel, ih]
    · simp [tabDel, tabGet, h, ih]

theorem tabGet_tabDel_other (d : α) {k j : Nat} (h : j ≠ k) (t : Tab α) : tabGet d j (tabDel k t) = tabGet d j t := by
  induction t with
  | nil => rfl
  | cons x t ih =>
    rcases x with ⟨i, w⟩
    by_cases h1 : k = i
    · subst h1; simp [tabDel, tabGet, h, ih]
    · by_cases h2 : j = i <;> simp [tabDel, tabGet, h1, h2, ih]

theorem tabGet_tabPut_same (d : α) (k : Nat) (v : α) (t : Tab α) : tabGet d k (tabPut k v t) = v := by
  induction t with
  | nil => simp [tabPut, tabGet]
  | cons x t ih =>
    rcases x with ⟨i, w⟩
    by_cases h1 : k < i
    · simp [tabPut, tabGet, h1]
    · by_cases h2 : k = i
      · simp [tabPut, tabGet, h2]
      · simp [tabPut, tabGet, h1, h2, ih]

theorem tabGet_tabPut_other (d : α) {k j : Nat} (h : j ≠ k) (v : α) (t : Tab α) :
    tabGet d j (tabPut k v t) = tabGet d j t := by
  induction t with
  | nil => simp [tabPut, tabGet, h]
  | cons x t ih =>
    rcases x with ⟨i, w⟩
    by_cases h1 : k < i
    · simp [tabPut, tabGet, h1, h]
    · by_cases h2 : k = i
      · subst h2; simp [tabPut, tabGet, h]
      · by_cases h3 : j = i <;> simp [tabPut, tabGet, h1, h2, h3, ih]

/-- A read of the key just written. -/
@[simp] theorem tabGet_tabSet_same [DecidableEq α] (d : α) (k : Nat) (v : α) (t : Tab α) :
    tabGet d k (tabSet d k v t) = v := by
  unfold tabSet; split
  · next h => rw [tabGet_tabDel_same, h]
  · exact tabGet_tabPut_same d k v t

/-- A read of another key. -/
theorem tabGet_tabSet_other [DecidableEq α] (d e : α) {k j : Nat} (h : j ≠ k) (v : α) (t : Tab α) :
    tabGet d j (tabSet e k v t) = tabGet d j t := by
  unfold tabSet; split
  · exact tabGet_tabDel_other d h t
  · exact tabGet_tabPut_other d h v t

/-- The second of two writes of one key counts, when the first wrote something to list. -/
theorem tabSet_tabSet [DecidableEq α] {d : α} (k : Nat) (v : α) {w : α} (hw : w ≠ d) (t : Tab α) :
    tabSet d k v (tabSet d k w t) = tabSet d k v t := by
  have del : ∀ t : Tab α, tabDel k (tabPut k w t) = tabDel k t := by
    intro t
    induction t with
    | nil => simp [tabPut, tabDel]
    | cons x t ih =>
      rcases x with ⟨j, u⟩
      unfold tabPut; split
      · simp [tabDel]
      · split
        · next h => subst h; simp [tabDel]
        · next h => simp only [tabDel, h, if_false]; rw [ih]
  have put : ∀ t : Tab α, tabPut k v (tabPut k w t) = tabPut k v t := by
    intro t
    induction t with
    | nil => simp [tabPut]
    | cons x t ih =>
      rcases x with ⟨j, u⟩
      by_cases h1 : k < j
      · simp [tabPut, h1]
      · by_cases h2 : k = j
        · subst h2; simp [tabPut]
        · simp [tabPut, h1, h2, ih]
  unfold tabSet
  rw [if_neg hw]
  split
  · exact del t
  · exact put t

/-- Both cases. -/
theorem tabGet_tabSet [DecidableEq α] (d : α) (k j : Nat) (v : α) (t : Tab α) :
    tabGet d j (tabSet d k v t) = if j = k then v else tabGet d j t := by
  by_cases h : j = k
  · subst h; simp
  · simp [h, tabGet_tabSet_other d d h]

/-! The canonical form. -/

theorem tabAbove_mono {a b : Nat} (h : a ≤ b) (t : Tab α) (ht : tabAbove b t = true) : tabAbove a t = true := by
  induction t with
  | nil => rfl
  | cons x t ih => rcases x with ⟨j, w⟩; simp only [tabAbove, Bool.and_eq_true, decide_eq_true_eq] at ht ⊢; exact ⟨by omega, ih ht.2⟩

theorem tabAbove_del {b : Nat} (k : Nat) (t : Tab α) (h : tabAbove b t = true) : tabAbove b (tabDel k t) = true := by
  induction t with
  | nil => rfl
  | cons x t ih =>
    rcases x with ⟨j, w⟩
    simp only [tabAbove, Bool.and_eq_true, decide_eq_true_eq] at h
    unfold tabDel; split
    · exact ih h.2
    · simp [tabAbove, h.1, ih h.2]

theorem tabAbove_put {b k : Nat} (hb : b < k) (v : α) (t : Tab α) (h : tabAbove b t = true) :
    tabAbove b (tabPut k v t) = true := by
  induction t with
  | nil => simp [tabPut, tabAbove, hb]
  | cons x t ih =>
    rcases x with ⟨j, w⟩
    simp only [tabAbove, Bool.and_eq_true, decide_eq_true_eq] at h
    unfold tabPut; split
    · simp [tabAbove, hb, h]
    · split <;> simp [tabAbove, hb, h, ih h.2]

theorem tabWf_del [DecidableEq α] (d : α) (k : Nat) (t : Tab α) (h : tabWf d t = true) : tabWf d (tabDel k t) = true := by
  induction t with
  | nil => rfl
  | cons x t ih =>
    rcases x with ⟨j, w⟩
    simp only [tabWf, Bool.and_eq_true, decide_eq_true_eq] at h
    unfold tabDel; split
    · exact ih h.2
    · simp [tabWf, h.1.1, tabAbove_del k t h.1.2, ih h.2]

theorem tabWf_put [DecidableEq α] (d : α) (k : Nat) {v : α} (hv : v ≠ d) (t : Tab α) (h : tabWf d t = true) :
    tabWf d (tabPut k v t) = true := by
  induction t with
  | nil => simp [tabPut, tabWf, hv, tabAbove]
  | cons x t ih =>
    rcases x with ⟨j, w⟩
    simp only [tabWf, Bool.and_eq_true, decide_eq_true_eq] at h
    unfold tabPut; split
    · next h1 => simp [tabWf, tabAbove, hv, h, h1, tabAbove_mono (Nat.le_of_lt h1) t h.1.2]
    · split
      · next h2 => subst h2; simp [tabWf, hv, h]
      · next h1 h2 => simp [tabWf, h.1.1, tabAbove_put (by omega : j < k) v t h.1.2, ih h.2]

/-- A write keeps the canonical form. -/
theorem tabWf_tabSet [DecidableEq α] (d : α) (k : Nat) (v : α) (t : Tab α) (h : tabWf d t = true) :
    tabWf d (tabSet d k v t) = true := by
  unfold tabSet; split
  · exact tabWf_del d k t h
  · next hv => exact tabWf_put d k hv t h

namespace Machine

theorem keysBelow_del (n k : Nat) (t : Tab α) (h : keysBelow n t = true) : keysBelow n (tabDel k t) = true := by
  induction t with
  | nil => rfl
  | cons x t ih =>
    rcases x with ⟨j, w⟩
    simp only [keysBelow, List.all_cons, Bool.and_eq_true, decide_eq_true_eq] at h ih
    unfold tabDel; split
    · exact ih h.2
    · simp only [keysBelow, List.all_cons, Bool.and_eq_true, decide_eq_true_eq]; exact ⟨h.1, ih h.2⟩

theorem keysBelow_put {n k : Nat} (hk : k < n) (v : α) (t : Tab α) (h : keysBelow n t = true) :
    keysBelow n (tabPut k v t) = true := by
  induction t with
  | nil => simp [tabPut, keysBelow, hk]
  | cons x t ih =>
    rcases x with ⟨j, w⟩
    simp only [keysBelow, List.all_cons, Bool.and_eq_true, decide_eq_true_eq] at h ih
    unfold tabPut; split
    · simp only [keysBelow, List.all_cons, Bool.and_eq_true, decide_eq_true_eq]; exact ⟨hk, h⟩
    · split
      · simp only [keysBelow, List.all_cons, Bool.and_eq_true, decide_eq_true_eq]; exact ⟨hk, h.2⟩
      · simp only [keysBelow, List.all_cons, Bool.and_eq_true, decide_eq_true_eq]; exact ⟨h.1, ih h.2⟩

/-- A write below the bound keeps the keys below it. -/
theorem keysBelow_tabSet [DecidableEq α] (d : α) {n k : Nat} (hk : k < n) (v : α) (t : Tab α)
    (h : keysBelow n t = true) : keysBelow n (tabSet d k v t) = true := by
  unfold tabSet; split
  · exact keysBelow_del n k t h
  · exact keysBelow_put hk v t h

/-- A write below the bound keeps both. -/
theorem tab_sound_set [DecidableEq α] (d : α) {n k : Nat} (hk : k < n) (v : α) (t : Tab α)
    (h : (tabWf d t && keysBelow n t) = true) : (tabWf d (tabSet d k v t) && keysBelow n (tabSet d k v t)) = true := by
  simp only [Bool.and_eq_true] at h ⊢
  exact ⟨tabWf_tabSet d k v t h.1, keysBelow_tabSet d hk v t h.2⟩

end Machine

end Sys2Proof
end

