-- ==== Sys2Proof/Laws/State.lean ====
section
/-!
SUPPORT. Every effect field by field: what it sets, and that it leaves every other field. With the update of each component as an
effect, no later proof unfolds a record update.
-/

namespace Sys2Proof.Machine

open Sys2Proof

variable {s0 : State}

/-! tick -/
@[simp] theorem apply_tick_clk (n : Nat) (s : State) : (Eff.apply (Eff.tick n) s).clk = s.clk + n := rfl
@[simp] theorem apply_tick_agenda (n : Nat) (s : State) : (Eff.apply (Eff.tick n) s).agenda = s.agenda := rfl
@[simp] theorem apply_tick_cur (n : Nat) (s : State) : (Eff.apply (Eff.tick n) s).cur = s.cur := rfl
@[simp] theorem apply_tick_freeCtr (n : Nat) (s : State) : (Eff.apply (Eff.tick n) s).freeCtr = s.freeCtr := rfl
@[simp] theorem apply_tick_nextId (n : Nat) (s : State) : (Eff.apply (Eff.tick n) s).nextId = s.nextId := rfl
@[simp] theorem apply_tick_order (n : Nat) (s : State) : (Eff.apply (Eff.tick n) s).order = s.order := rfl
@[simp] theorem apply_tick_mem (n : Nat) (s : State) : (Eff.apply (Eff.tick n) s).mem = s.mem := rfl
@[simp] theorem apply_tick_bad (n : Nat) (s : State) : (Eff.apply (Eff.tick n) s).bad = s.bad := rfl
@[simp] theorem apply_tick_cores (n : Nat) (s : State) : (Eff.apply (Eff.tick n) s).cores = s.cores := rfl
@[simp] theorem apply_tick_clusters (n : Nat) (s : State) : (Eff.apply (Eff.tick n) s).clusters = s.clusters := rfl
@[simp] theorem apply_tick_dies (n : Nat) (s : State) : (Eff.apply (Eff.tick n) s).dies = s.dies := rfl
@[simp] theorem apply_tick_lines (n : Nat) (s : State) : (Eff.apply (Eff.tick n) s).lines = s.lines := rfl
@[simp] theorem apply_tick_frames (n : Nat) (s : State) : (Eff.apply (Eff.tick n) s).frames = s.frames := rfl
@[simp] theorem apply_tick_ctxs (n : Nat) (s : State) : (Eff.apply (Eff.tick n) s).ctxs = s.ctxs := rfl
@[simp] theorem apply_tick_queues (n : Nat) (s : State) : (Eff.apply (Eff.tick n) s).queues = s.queues := rfl
@[simp] theorem apply_tick_groups (n : Nat) (s : State) : (Eff.apply (Eff.tick n) s).groups = s.groups := rfl
@[simp] theorem apply_tick_works (n : Nat) (s : State) : (Eff.apply (Eff.tick n) s).works = s.works := rfl
@[simp] theorem apply_tick_reqs (n : Nat) (s : State) : (Eff.apply (Eff.tick n) s).reqs = s.reqs := rfl
@[simp] theorem apply_tick_saves (n : Nat) (s : State) : (Eff.apply (Eff.tick n) s).saves = s.saves := rfl
@[simp] theorem apply_tick_links (n : Nat) (s : State) : (Eff.apply (Eff.tick n) s).links = s.links := rfl
@[simp] theorem apply_tick_mgmt (n : Nat) (s : State) : (Eff.apply (Eff.tick n) s).mgmt = s.mgmt := rfl

/-! cur -/
@[simp] theorem apply_cur_clk (f : Firing) (s : State) : (Eff.apply (Eff.cur f) s).clk = s.clk := rfl
@[simp] theorem apply_cur_agenda (f : Firing) (s : State) : (Eff.apply (Eff.cur f) s).agenda = s.agenda := rfl
@[simp] theorem apply_cur_cur (f : Firing) (s : State) : (Eff.apply (Eff.cur f) s).cur = f := rfl
@[simp] theorem apply_cur_freeCtr (f : Firing) (s : State) : (Eff.apply (Eff.cur f) s).freeCtr = s.freeCtr := rfl
@[simp] theorem apply_cur_nextId (f : Firing) (s : State) : (Eff.apply (Eff.cur f) s).nextId = s.nextId := rfl
@[simp] theorem apply_cur_order (f : Firing) (s : State) : (Eff.apply (Eff.cur f) s).order = s.order := rfl
@[simp] theorem apply_cur_mem (f : Firing) (s : State) : (Eff.apply (Eff.cur f) s).mem = s.mem := rfl
@[simp] theorem apply_cur_bad (f : Firing) (s : State) : (Eff.apply (Eff.cur f) s).bad = s.bad := rfl
@[simp] theorem apply_cur_cores (f : Firing) (s : State) : (Eff.apply (Eff.cur f) s).cores = s.cores := rfl
@[simp] theorem apply_cur_clusters (f : Firing) (s : State) : (Eff.apply (Eff.cur f) s).clusters = s.clusters := rfl
@[simp] theorem apply_cur_dies (f : Firing) (s : State) : (Eff.apply (Eff.cur f) s).dies = s.dies := rfl
@[simp] theorem apply_cur_lines (f : Firing) (s : State) : (Eff.apply (Eff.cur f) s).lines = s.lines := rfl
@[simp] theorem apply_cur_frames (f : Firing) (s : State) : (Eff.apply (Eff.cur f) s).frames = s.frames := rfl
@[simp] theorem apply_cur_ctxs (f : Firing) (s : State) : (Eff.apply (Eff.cur f) s).ctxs = s.ctxs := rfl
@[simp] theorem apply_cur_queues (f : Firing) (s : State) : (Eff.apply (Eff.cur f) s).queues = s.queues := rfl
@[simp] theorem apply_cur_groups (f : Firing) (s : State) : (Eff.apply (Eff.cur f) s).groups = s.groups := rfl
@[simp] theorem apply_cur_works (f : Firing) (s : State) : (Eff.apply (Eff.cur f) s).works = s.works := rfl
@[simp] theorem apply_cur_reqs (f : Firing) (s : State) : (Eff.apply (Eff.cur f) s).reqs = s.reqs := rfl
@[simp] theorem apply_cur_saves (f : Firing) (s : State) : (Eff.apply (Eff.cur f) s).saves = s.saves := rfl
@[simp] theorem apply_cur_links (f : Firing) (s : State) : (Eff.apply (Eff.cur f) s).links = s.links := rfl
@[simp] theorem apply_cur_mgmt (f : Firing) (s : State) : (Eff.apply (Eff.cur f) s).mgmt = s.mgmt := rfl

/-! nextFree -/
@[simp] theorem apply_nextFree_clk (s : State) : (Eff.apply (Eff.nextFree) s).clk = s.clk := rfl
@[simp] theorem apply_nextFree_agenda (s : State) : (Eff.apply (Eff.nextFree) s).agenda = s.agenda := rfl
@[simp] theorem apply_nextFree_cur (s : State) : (Eff.apply (Eff.nextFree) s).cur = s.cur := rfl
@[simp] theorem apply_nextFree_freeCtr (s : State) : (Eff.apply (Eff.nextFree) s).freeCtr = s.freeCtr + 1 := rfl
@[simp] theorem apply_nextFree_nextId (s : State) : (Eff.apply (Eff.nextFree) s).nextId = s.nextId := rfl
@[simp] theorem apply_nextFree_order (s : State) : (Eff.apply (Eff.nextFree) s).order = s.order := rfl
@[simp] theorem apply_nextFree_mem (s : State) : (Eff.apply (Eff.nextFree) s).mem = s.mem := rfl
@[simp] theorem apply_nextFree_bad (s : State) : (Eff.apply (Eff.nextFree) s).bad = s.bad := rfl
@[simp] theorem apply_nextFree_cores (s : State) : (Eff.apply (Eff.nextFree) s).cores = s.cores := rfl
@[simp] theorem apply_nextFree_clusters (s : State) : (Eff.apply (Eff.nextFree) s).clusters = s.clusters := rfl
@[simp] theorem apply_nextFree_dies (s : State) : (Eff.apply (Eff.nextFree) s).dies = s.dies := rfl
@[simp] theorem apply_nextFree_lines (s : State) : (Eff.apply (Eff.nextFree) s).lines = s.lines := rfl
@[simp] theorem apply_nextFree_frames (s : State) : (Eff.apply (Eff.nextFree) s).frames = s.frames := rfl
@[simp] theorem apply_nextFree_ctxs (s : State) : (Eff.apply (Eff.nextFree) s).ctxs = s.ctxs := rfl
@[simp] theorem apply_nextFree_queues (s : State) : (Eff.apply (Eff.nextFree) s).queues = s.queues := rfl
@[simp] theorem apply_nextFree_groups (s : State) : (Eff.apply (Eff.nextFree) s).groups = s.groups := rfl
@[simp] theorem apply_nextFree_works (s : State) : (Eff.apply (Eff.nextFree) s).works = s.works := rfl
@[simp] theorem apply_nextFree_reqs (s : State) : (Eff.apply (Eff.nextFree) s).reqs = s.reqs := rfl
@[simp] theorem apply_nextFree_saves (s : State) : (Eff.apply (Eff.nextFree) s).saves = s.saves := rfl
@[simp] theorem apply_nextFree_links (s : State) : (Eff.apply (Eff.nextFree) s).links = s.links := rfl
@[simp] theorem apply_nextFree_mgmt (s : State) : (Eff.apply (Eff.nextFree) s).mgmt = s.mgmt := rfl

/-! nextId -/
@[simp] theorem apply_nextId_clk (s : State) : (Eff.apply (Eff.nextId) s).clk = s.clk := rfl
@[simp] theorem apply_nextId_agenda (s : State) : (Eff.apply (Eff.nextId) s).agenda = s.agenda := rfl
@[simp] theorem apply_nextId_cur (s : State) : (Eff.apply (Eff.nextId) s).cur = s.cur := rfl
@[simp] theorem apply_nextId_freeCtr (s : State) : (Eff.apply (Eff.nextId) s).freeCtr = s.freeCtr := rfl
@[simp] theorem apply_nextId_nextId (s : State) : (Eff.apply (Eff.nextId) s).nextId = s.nextId + 1 := rfl
@[simp] theorem apply_nextId_order (s : State) : (Eff.apply (Eff.nextId) s).order = s.order := rfl
@[simp] theorem apply_nextId_mem (s : State) : (Eff.apply (Eff.nextId) s).mem = s.mem := rfl
@[simp] theorem apply_nextId_bad (s : State) : (Eff.apply (Eff.nextId) s).bad = s.bad := rfl
@[simp] theorem apply_nextId_cores (s : State) : (Eff.apply (Eff.nextId) s).cores = s.cores := rfl
@[simp] theorem apply_nextId_clusters (s : State) : (Eff.apply (Eff.nextId) s).clusters = s.clusters := rfl
@[simp] theorem apply_nextId_dies (s : State) : (Eff.apply (Eff.nextId) s).dies = s.dies := rfl
@[simp] theorem apply_nextId_lines (s : State) : (Eff.apply (Eff.nextId) s).lines = s.lines := rfl
@[simp] theorem apply_nextId_frames (s : State) : (Eff.apply (Eff.nextId) s).frames = s.frames := rfl
@[simp] theorem apply_nextId_ctxs (s : State) : (Eff.apply (Eff.nextId) s).ctxs = s.ctxs := rfl
@[simp] theorem apply_nextId_queues (s : State) : (Eff.apply (Eff.nextId) s).queues = s.queues := rfl
@[simp] theorem apply_nextId_groups (s : State) : (Eff.apply (Eff.nextId) s).groups = s.groups := rfl
@[simp] theorem apply_nextId_works (s : State) : (Eff.apply (Eff.nextId) s).works = s.works := rfl
@[simp] theorem apply_nextId_reqs (s : State) : (Eff.apply (Eff.nextId) s).reqs = s.reqs := rfl
@[simp] theorem apply_nextId_saves (s : State) : (Eff.apply (Eff.nextId) s).saves = s.saves := rfl
@[simp] theorem apply_nextId_links (s : State) : (Eff.apply (Eff.nextId) s).links = s.links := rfl
@[simp] theorem apply_nextId_mgmt (s : State) : (Eff.apply (Eff.nextId) s).mgmt = s.mgmt := rfl

/-! nextOrder -/
@[simp] theorem apply_nextOrder_clk (s : State) : (Eff.apply (Eff.nextOrder) s).clk = s.clk := rfl
@[simp] theorem apply_nextOrder_agenda (s : State) : (Eff.apply (Eff.nextOrder) s).agenda = s.agenda := rfl
@[simp] theorem apply_nextOrder_cur (s : State) : (Eff.apply (Eff.nextOrder) s).cur = s.cur := rfl
@[simp] theorem apply_nextOrder_freeCtr (s : State) : (Eff.apply (Eff.nextOrder) s).freeCtr = s.freeCtr := rfl
@[simp] theorem apply_nextOrder_nextId (s : State) : (Eff.apply (Eff.nextOrder) s).nextId = s.nextId := rfl
@[simp] theorem apply_nextOrder_order (s : State) : (Eff.apply (Eff.nextOrder) s).order = s.order + 1 := rfl
@[simp] theorem apply_nextOrder_mem (s : State) : (Eff.apply (Eff.nextOrder) s).mem = s.mem := rfl
@[simp] theorem apply_nextOrder_bad (s : State) : (Eff.apply (Eff.nextOrder) s).bad = s.bad := rfl
@[simp] theorem apply_nextOrder_cores (s : State) : (Eff.apply (Eff.nextOrder) s).cores = s.cores := rfl
@[simp] theorem apply_nextOrder_clusters (s : State) : (Eff.apply (Eff.nextOrder) s).clusters = s.clusters := rfl
@[simp] theorem apply_nextOrder_dies (s : State) : (Eff.apply (Eff.nextOrder) s).dies = s.dies := rfl
@[simp] theorem apply_nextOrder_lines (s : State) : (Eff.apply (Eff.nextOrder) s).lines = s.lines := rfl
@[simp] theorem apply_nextOrder_frames (s : State) : (Eff.apply (Eff.nextOrder) s).frames = s.frames := rfl
@[simp] theorem apply_nextOrder_ctxs (s : State) : (Eff.apply (Eff.nextOrder) s).ctxs = s.ctxs := rfl
@[simp] theorem apply_nextOrder_queues (s : State) : (Eff.apply (Eff.nextOrder) s).queues = s.queues := rfl
@[simp] theorem apply_nextOrder_groups (s : State) : (Eff.apply (Eff.nextOrder) s).groups = s.groups := rfl
@[simp] theorem apply_nextOrder_works (s : State) : (Eff.apply (Eff.nextOrder) s).works = s.works := rfl
@[simp] theorem apply_nextOrder_reqs (s : State) : (Eff.apply (Eff.nextOrder) s).reqs = s.reqs := rfl
@[simp] theorem apply_nextOrder_saves (s : State) : (Eff.apply (Eff.nextOrder) s).saves = s.saves := rfl
@[simp] theorem apply_nextOrder_links (s : State) : (Eff.apply (Eff.nextOrder) s).links = s.links := rfl
@[simp] theorem apply_nextOrder_mgmt (s : State) : (Eff.apply (Eff.nextOrder) s).mgmt = s.mgmt := rfl

/-! mem -/
@[simp] theorem apply_mem_clk (a : Nat) (b : Byte) (s : State) : (Eff.apply (Eff.mem a b) s).clk = s.clk := by unfold Eff.apply; dsimp only; split <;> rfl
@[simp] theorem apply_mem_agenda (a : Nat) (b : Byte) (s : State) : (Eff.apply (Eff.mem a b) s).agenda = s.agenda := by unfold Eff.apply; dsimp only; split <;> rfl
@[simp] theorem apply_mem_cur (a : Nat) (b : Byte) (s : State) : (Eff.apply (Eff.mem a b) s).cur = s.cur := by unfold Eff.apply; dsimp only; split <;> rfl
@[simp] theorem apply_mem_freeCtr (a : Nat) (b : Byte) (s : State) : (Eff.apply (Eff.mem a b) s).freeCtr = s.freeCtr := by unfold Eff.apply; dsimp only; split <;> rfl
@[simp] theorem apply_mem_nextId (a : Nat) (b : Byte) (s : State) : (Eff.apply (Eff.mem a b) s).nextId = s.nextId := by unfold Eff.apply; dsimp only; split <;> rfl
@[simp] theorem apply_mem_order (a : Nat) (b : Byte) (s : State) : (Eff.apply (Eff.mem a b) s).order = s.order := by unfold Eff.apply; dsimp only; split <;> rfl
theorem apply_mem_mem (a : Nat) (b : Byte) (s : State) (h : a < 2 ^ 52) : (Eff.apply (Eff.mem a b) s).mem = tabSet 0 a b s.mem := congrArg State.mem (if_pos h)
@[simp] theorem apply_mem_bad (a : Nat) (b : Byte) (s : State) : (Eff.apply (Eff.mem a b) s).bad = s.bad := by unfold Eff.apply; dsimp only; split <;> rfl
@[simp] theorem apply_mem_cores (a : Nat) (b : Byte) (s : State) : (Eff.apply (Eff.mem a b) s).cores = s.cores := by unfold Eff.apply; dsimp only; split <;> rfl
@[simp] theorem apply_mem_clusters (a : Nat) (b : Byte) (s : State) : (Eff.apply (Eff.mem a b) s).clusters = s.clusters := by unfold Eff.apply; dsimp only; split <;> rfl
@[simp] theorem apply_mem_dies (a : Nat) (b : Byte) (s : State) : (Eff.apply (Eff.mem a b) s).dies = s.dies := by unfold Eff.apply; dsimp only; split <;> rfl
@[simp] theorem apply_mem_lines (a : Nat) (b : Byte) (s : State) : (Eff.apply (Eff.mem a b) s).lines = s.lines := by unfold Eff.apply; dsimp only; split <;> rfl
@[simp] theorem apply_mem_frames (a : Nat) (b : Byte) (s : State) : (Eff.apply (Eff.mem a b) s).frames = s.frames := by unfold Eff.apply; dsimp only; split <;> rfl
@[simp] theorem apply_mem_ctxs (a : Nat) (b : Byte) (s : State) : (Eff.apply (Eff.mem a b) s).ctxs = s.ctxs := by unfold Eff.apply; dsimp only; split <;> rfl
@[simp] theorem apply_mem_queues (a : Nat) (b : Byte) (s : State) : (Eff.apply (Eff.mem a b) s).queues = s.queues := by unfold Eff.apply; dsimp only; split <;> rfl
@[simp] theorem apply_mem_groups (a : Nat) (b : Byte) (s : State) : (Eff.apply (Eff.mem a b) s).groups = s.groups := by unfold Eff.apply; dsimp only; split <;> rfl
@[simp] theorem apply_mem_works (a : Nat) (b : Byte) (s : State) : (Eff.apply (Eff.mem a b) s).works = s.works := by unfold Eff.apply; dsimp only; split <;> rfl
@[simp] theorem apply_mem_reqs (a : Nat) (b : Byte) (s : State) : (Eff.apply (Eff.mem a b) s).reqs = s.reqs := by unfold Eff.apply; dsimp only; split <;> rfl
@[simp] theorem apply_mem_saves (a : Nat) (b : Byte) (s : State) : (Eff.apply (Eff.mem a b) s).saves = s.saves := by unfold Eff.apply; dsimp only; split <;> rfl
@[simp] theorem apply_mem_links (a : Nat) (b : Byte) (s : State) : (Eff.apply (Eff.mem a b) s).links = s.links := by unfold Eff.apply; dsimp only; split <;> rfl
@[simp] theorem apply_mem_mgmt (a : Nat) (b : Byte) (s : State) : (Eff.apply (Eff.mem a b) s).mgmt = s.mgmt := by unfold Eff.apply; dsimp only; split <;> rfl

/-! bad -/
@[simp] theorem apply_bad_clk (l : List Nat) (s : State) : (Eff.apply (Eff.bad l) s).clk = s.clk := rfl
@[simp] theorem apply_bad_agenda (l : List Nat) (s : State) : (Eff.apply (Eff.bad l) s).agenda = s.agenda := rfl
@[simp] theorem apply_bad_cur (l : List Nat) (s : State) : (Eff.apply (Eff.bad l) s).cur = s.cur := rfl
@[simp] theorem apply_bad_freeCtr (l : List Nat) (s : State) : (Eff.apply (Eff.bad l) s).freeCtr = s.freeCtr := rfl
@[simp] theorem apply_bad_nextId (l : List Nat) (s : State) : (Eff.apply (Eff.bad l) s).nextId = s.nextId := rfl
@[simp] theorem apply_bad_order (l : List Nat) (s : State) : (Eff.apply (Eff.bad l) s).order = s.order := rfl
@[simp] theorem apply_bad_mem (l : List Nat) (s : State) : (Eff.apply (Eff.bad l) s).mem = s.mem := rfl
@[simp] theorem apply_bad_bad (l : List Nat) (s : State) : (Eff.apply (Eff.bad l) s).bad = l := rfl
@[simp] theorem apply_bad_cores (l : List Nat) (s : State) : (Eff.apply (Eff.bad l) s).cores = s.cores := rfl
@[simp] theorem apply_bad_clusters (l : List Nat) (s : State) : (Eff.apply (Eff.bad l) s).clusters = s.clusters := rfl
@[simp] theorem apply_bad_dies (l : List Nat) (s : State) : (Eff.apply (Eff.bad l) s).dies = s.dies := rfl
@[simp] theorem apply_bad_lines (l : List Nat) (s : State) : (Eff.apply (Eff.bad l) s).lines = s.lines := rfl
@[simp] theorem apply_bad_frames (l : List Nat) (s : State) : (Eff.apply (Eff.bad l) s).frames = s.frames := rfl
@[simp] theorem apply_bad_ctxs (l : List Nat) (s : State) : (Eff.apply (Eff.bad l) s).ctxs = s.ctxs := rfl
@[simp] theorem apply_bad_queues (l : List Nat) (s : State) : (Eff.apply (Eff.bad l) s).queues = s.queues := rfl
@[simp] theorem apply_bad_groups (l : List Nat) (s : State) : (Eff.apply (Eff.bad l) s).groups = s.groups := rfl
@[simp] theorem apply_bad_works (l : List Nat) (s : State) : (Eff.apply (Eff.bad l) s).works = s.works := rfl
@[simp] theorem apply_bad_reqs (l : List Nat) (s : State) : (Eff.apply (Eff.bad l) s).reqs = s.reqs := rfl
@[simp] theorem apply_bad_saves (l : List Nat) (s : State) : (Eff.apply (Eff.bad l) s).saves = s.saves := rfl
@[simp] theorem apply_bad_links (l : List Nat) (s : State) : (Eff.apply (Eff.bad l) s).links = s.links := rfl
@[simp] theorem apply_bad_mgmt (l : List Nat) (s : State) : (Eff.apply (Eff.bad l) s).mgmt = s.mgmt := rfl

/-! core -/
@[simp] theorem apply_core_clk (k : Nat) (v : Core) (s : State) : (Eff.apply (Eff.core k v) s).clk = s.clk := by unfold Eff.apply; dsimp only; split <;> rfl
@[simp] theorem apply_core_agenda (k : Nat) (v : Core) (s : State) : (Eff.apply (Eff.core k v) s).agenda = s.agenda := by unfold Eff.apply; dsimp only; split <;> rfl
@[simp] theorem apply_core_cur (k : Nat) (v : Core) (s : State) : (Eff.apply (Eff.core k v) s).cur = s.cur := by unfold Eff.apply; dsimp only; split <;> rfl
@[simp] theorem apply_core_freeCtr (k : Nat) (v : Core) (s : State) : (Eff.apply (Eff.core k v) s).freeCtr = s.freeCtr := by unfold Eff.apply; dsimp only; split <;> rfl
@[simp] theorem apply_core_nextId (k : Nat) (v : Core) (s : State) : (Eff.apply (Eff.core k v) s).nextId = s.nextId := by unfold Eff.apply; dsimp only; split <;> rfl
@[simp] theorem apply_core_order (k : Nat) (v : Core) (s : State) : (Eff.apply (Eff.core k v) s).order = s.order := by unfold Eff.apply; dsimp only; split <;> rfl
@[simp] theorem apply_core_mem (k : Nat) (v : Core) (s : State) : (Eff.apply (Eff.core k v) s).mem = s.mem := by unfold Eff.apply; dsimp only; split <;> rfl
@[simp] theorem apply_core_bad (k : Nat) (v : Core) (s : State) : (Eff.apply (Eff.core k v) s).bad = s.bad := by unfold Eff.apply; dsimp only; split <;> rfl
theorem apply_core_cores (k : Nat) (v : Core) (s : State) (h : k < 128) : (Eff.apply (Eff.core k v) s).cores = tabSet Core.init k v s.cores := congrArg State.cores (if_pos h)
@[simp] theorem apply_core_clusters (k : Nat) (v : Core) (s : State) : (Eff.apply (Eff.core k v) s).clusters = s.clusters := by unfold Eff.apply; dsimp only; split <;> rfl
@[simp] theorem apply_core_dies (k : Nat) (v : Core) (s : State) : (Eff.apply (Eff.core k v) s).dies = s.dies := by unfold Eff.apply; dsimp only; split <;> rfl
@[simp] theorem apply_core_lines (k : Nat) (v : Core) (s : State) : (Eff.apply (Eff.core k v) s).lines = s.lines := by unfold Eff.apply; dsimp only; split <;> rfl
@[simp] theorem apply_core_frames (k : Nat) (v : Core) (s : State) : (Eff.apply (Eff.core k v) s).frames = s.frames := by unfold Eff.apply; dsimp only; split <;> rfl
@[simp] theorem apply_core_ctxs (k : Nat) (v : Core) (s : State) : (Eff.apply (Eff.core k v) s).ctxs = s.ctxs := by unfold Eff.apply; dsimp only; split <;> rfl
@[simp] theorem apply_core_queues (k : Nat) (v : Core) (s : State) : (Eff.apply (Eff.core k v) s).queues = s.queues := by unfold Eff.apply; dsimp only; split <;> rfl
@[simp] theorem apply_core_groups (k : Nat) (v : Core) (s : State) : (Eff.apply (Eff.core k v) s).groups = s.groups := by unfold Eff.apply; dsimp only; split <;> rfl
@[simp] theorem apply_core_works (k : Nat) (v : Core) (s : State) : (Eff.apply (Eff.core k v) s).works = s.works := by unfold Eff.apply; dsimp only; split <;> rfl
@[simp] theorem apply_core_reqs (k : Nat) (v : Core) (s : State) : (Eff.apply (Eff.core k v) s).reqs = s.reqs := by unfold Eff.apply; dsimp only; split <;> rfl
@[simp] theorem apply_core_saves (k : Nat) (v : Core) (s : State) : (Eff.apply (Eff.core k v) s).saves = s.saves := by unfold Eff.apply; dsimp only; split <;> rfl
@[simp] theorem apply_core_links (k : Nat) (v : Core) (s : State) : (Eff.apply (Eff.core k v) s).links = s.links := by unfold Eff.apply; dsimp only; split <;> rfl
@[simp] theorem apply_core_mgmt (k : Nat) (v : Core) (s : State) : (Eff.apply (Eff.core k v) s).mgmt = s.mgmt := by unfold Eff.apply; dsimp only; split <;> rfl

/-! cluster -/
@[simp] theorem apply_cluster_clk (k : Nat) (v : Cluster) (s : State) : (Eff.apply (Eff.cluster k v) s).clk = s.clk := by unfold Eff.apply; dsimp only; split <;> rfl
@[simp] theorem apply_cluster_agenda (k : Nat) (v : Cluster) (s : State) : (Eff.apply (Eff.cluster k v) s).agenda = s.agenda := by unfold Eff.apply; dsimp only; split <;> rfl
@[simp] theorem apply_cluster_cur (k : Nat) (v : Cluster) (s : State) : (Eff.apply (Eff.cluster k v) s).cur = s.cur := by unfold Eff.apply; dsimp only; split <;> rfl
@[simp] theorem apply_cluster_freeCtr (k : Nat) (v : Cluster) (s : State) : (Eff.apply (Eff.cluster k v) s).freeCtr = s.freeCtr := by unfold Eff.apply; dsimp only; split <;> rfl
@[simp] theorem apply_cluster_nextId (k : Nat) (v : Cluster) (s : State) : (Eff.apply (Eff.cluster k v) s).nextId = s.nextId := by unfold Eff.apply; dsimp only; split <;> rfl
@[simp] theorem apply_cluster_order (k : Nat) (v : Cluster) (s : State) : (Eff.apply (Eff.cluster k v) s).order = s.order := by unfold Eff.apply; dsimp only; split <;> rfl
@[simp] theorem apply_cluster_mem (k : Nat) (v : Cluster) (s : State) : (Eff.apply (Eff.cluster k v) s).mem = s.mem := by unfold Eff.apply; dsimp only; split <;> rfl
@[simp] theorem apply_cluster_bad (k : Nat) (v : Cluster) (s : State) : (Eff.apply (Eff.cluster k v) s).bad = s.bad := by unfold Eff.apply; dsimp only; split <;> rfl
@[simp] theorem apply_cluster_cores (k : Nat) (v : Cluster) (s : State) : (Eff.apply (Eff.cluster k v) s).cores = s.cores := by unfold Eff.apply; dsimp only; split <;> rfl
theorem apply_cluster_clusters (k : Nat) (v : Cluster) (s : State) (h : k < 32) : (Eff.apply (Eff.cluster k v) s).clusters = tabSet Cluster.init k v s.clusters := congrArg State.clusters (if_pos h)
@[simp] theorem apply_cluster_dies (k : Nat) (v : Cluster) (s : State) : (Eff.apply (Eff.cluster k v) s).dies = s.dies := by unfold Eff.apply; dsimp only; split <;> rfl
@[simp] theorem apply_cluster_lines (k : Nat) (v : Cluster) (s : State) : (Eff.apply (Eff.cluster k v) s).lines = s.lines := by unfold Eff.apply; dsimp only; split <;> rfl
@[simp] theorem apply_cluster_frames (k : Nat) (v : Cluster) (s : State) : (Eff.apply (Eff.cluster k v) s).frames = s.frames := by unfold Eff.apply; dsimp only; split <;> rfl
@[simp] theorem apply_cluster_ctxs (k : Nat) (v : Cluster) (s : State) : (Eff.apply (Eff.cluster k v) s).ctxs = s.ctxs := by unfold Eff.apply; dsimp only; split <;> rfl
@[simp] theorem apply_cluster_queues (k : Nat) (v : Cluster) (s : State) : (Eff.apply (Eff.cluster k v) s).queues = s.queues := by unfold Eff.apply; dsimp only; split <;> rfl
@[simp] theorem apply_cluster_groups (k : Nat) (v : Cluster) (s : State) : (Eff.apply (Eff.cluster k v) s).groups = s.groups := by unfold Eff.apply; dsimp only; split <;> rfl
@[simp] theorem apply_cluster_works (k : Nat) (v : Cluster) (s : State) : (Eff.apply (Eff.cluster k v) s).works = s.works := by unfold Eff.apply; dsimp only; split <;> rfl
@[simp] theorem apply_cluster_reqs (k : Nat) (v : Cluster) (s : State) : (Eff.apply (Eff.cluster k v) s).reqs = s.reqs := by unfold Eff.apply; dsimp only; split <;> rfl
@[simp] theorem apply_cluster_saves (k : Nat) (v : Cluster) (s : State) : (Eff.apply (Eff.cluster k v) s).saves = s.saves := by unfold Eff.apply; dsimp only; split <;> rfl
@[simp] theorem apply_cluster_links (k : Nat) (v : Cluster) (s : State) : (Eff.apply (Eff.cluster k v) s).links = s.links := by unfold Eff.apply; dsimp only; split <;> rfl
@[simp] theorem apply_cluster_mgmt (k : Nat) (v : Cluster) (s : State) : (Eff.apply (Eff.cluster k v) s).mgmt = s.mgmt := by unfold Eff.apply; dsimp only; split <;> rfl

/-! die -/
@[simp] theorem apply_die_clk (k : Nat) (v : Die) (s : State) : (Eff.apply (Eff.die k v) s).clk = s.clk := by unfold Eff.apply; dsimp only; split <;> rfl
@[simp] theorem apply_die_agenda (k : Nat) (v : Die) (s : State) : (Eff.apply (Eff.die k v) s).agenda = s.agenda := by unfold Eff.apply; dsimp only; split <;> rfl
@[simp] theorem apply_die_cur (k : Nat) (v : Die) (s : State) : (Eff.apply (Eff.die k v) s).cur = s.cur := by unfold Eff.apply; dsimp only; split <;> rfl
@[simp] theorem apply_die_freeCtr (k : Nat) (v : Die) (s : State) : (Eff.apply (Eff.die k v) s).freeCtr = s.freeCtr := by unfold Eff.apply; dsimp only; split <;> rfl
@[simp] theorem apply_die_nextId (k : Nat) (v : Die) (s : State) : (Eff.apply (Eff.die k v) s).nextId = s.nextId := by unfold Eff.apply; dsimp only; split <;> rfl
@[simp] theorem apply_die_order (k : Nat) (v : Die) (s : State) : (Eff.apply (Eff.die k v) s).order = s.order := by unfold Eff.apply; dsimp only; split <;> rfl
@[simp] theorem apply_die_mem (k : Nat) (v : Die) (s : State) : (Eff.apply (Eff.die k v) s).mem = s.mem := by unfold Eff.apply; dsimp only; split <;> rfl
@[simp] theorem apply_die_bad (k : Nat) (v : Die) (s : State) : (Eff.apply (Eff.die k v) s).bad = s.bad := by unfold Eff.apply; dsimp only; split <;> rfl
@[simp] theorem apply_die_cores (k : Nat) (v : Die) (s : State) : (Eff.apply (Eff.die k v) s).cores = s.cores := by unfold Eff.apply; dsimp only; split <;> rfl
@[simp] theorem apply_die_clusters (k : Nat) (v : Die) (s : State) : (Eff.apply (Eff.die k v) s).clusters = s.clusters := by unfold Eff.apply; dsimp only; split <;> rfl
theorem apply_die_dies (k : Nat) (v : Die) (s : State) (h : k < 4) : (Eff.apply (Eff.die k v) s).dies = tabSet Die.init k v s.dies := congrArg State.dies (if_pos h)
@[simp] theorem apply_die_lines (k : Nat) (v : Die) (s : State) : (Eff.apply (Eff.die k v) s).lines = s.lines := by unfold Eff.apply; dsimp only; split <;> rfl
@[simp] theorem apply_die_frames (k : Nat) (v : Die) (s : State) : (Eff.apply (Eff.die k v) s).frames = s.frames := by unfold Eff.apply; dsimp only; split <;> rfl
@[simp] theorem apply_die_ctxs (k : Nat) (v : Die) (s : State) : (Eff.apply (Eff.die k v) s).ctxs = s.ctxs := by unfold Eff.apply; dsimp only; split <;> rfl
@[simp] theorem apply_die_queues (k : Nat) (v : Die) (s : State) : (Eff.apply (Eff.die k v) s).queues = s.queues := by unfold Eff.apply; dsimp only; split <;> rfl
@[simp] theorem apply_die_groups (k : Nat) (v : Die) (s : State) : (Eff.apply (Eff.die k v) s).groups = s.groups := by unfold Eff.apply; dsimp only; split <;> rfl
@[simp] theorem apply_die_works (k : Nat) (v : Die) (s : State) : (Eff.apply (Eff.die k v) s).works = s.works := by unfold Eff.apply; dsimp only; split <;> rfl
@[simp] theorem apply_die_reqs (k : Nat) (v : Die) (s : State) : (Eff.apply (Eff.die k v) s).reqs = s.reqs := by unfold Eff.apply; dsimp only; split <;> rfl
@[simp] theorem apply_die_saves (k : Nat) (v : Die) (s : State) : (Eff.apply (Eff.die k v) s).saves = s.saves := by unfold Eff.apply; dsimp only; split <;> rfl
@[simp] theorem apply_die_links (k : Nat) (v : Die) (s : State) : (Eff.apply (Eff.die k v) s).links = s.links := by unfold Eff.apply; dsimp only; split <;> rfl
@[simp] theorem apply_die_mgmt (k : Nat) (v : Die) (s : State) : (Eff.apply (Eff.die k v) s).mgmt = s.mgmt := by unfold Eff.apply; dsimp only; split <;> rfl

/-! line -/
@[simp] theorem apply_line_clk (k : Nat) (v : Line) (s : State) : (Eff.apply (Eff.line k v) s).clk = s.clk := by unfold Eff.apply; dsimp only; split <;> rfl
@[simp] theorem apply_line_agenda (k : Nat) (v : Line) (s : State) : (Eff.apply (Eff.line k v) s).agenda = s.agenda := by unfold Eff.apply; dsimp only; split <;> rfl
@[simp] theorem apply_line_cur (k : Nat) (v : Line) (s : State) : (Eff.apply (Eff.line k v) s).cur = s.cur := by unfold Eff.apply; dsimp only; split <;> rfl
@[simp] theorem apply_line_freeCtr (k : Nat) (v : Line) (s : State) : (Eff.apply (Eff.line k v) s).freeCtr = s.freeCtr := by unfold Eff.apply; dsimp only; split <;> rfl
@[simp] theorem apply_line_nextId (k : Nat) (v : Line) (s : State) : (Eff.apply (Eff.line k v) s).nextId = s.nextId := by unfold Eff.apply; dsimp only; split <;> rfl
@[simp] theorem apply_line_order (k : Nat) (v : Line) (s : State) : (Eff.apply (Eff.line k v) s).order = s.order := by unfold Eff.apply; dsimp only; split <;> rfl
@[simp] theorem apply_line_mem (k : Nat) (v : Line) (s : State) : (Eff.apply (Eff.line k v) s).mem = s.mem := by unfold Eff.apply; dsimp only; split <;> rfl
@[simp] theorem apply_line_bad (k : Nat) (v : Line) (s : State) : (Eff.apply (Eff.line k v) s).bad = s.bad := by unfold Eff.apply; dsimp only; split <;> rfl
@[simp] theorem apply_line_cores (k : Nat) (v : Line) (s : State) : (Eff.apply (Eff.line k v) s).cores = s.cores := by unfold Eff.apply; dsimp only; split <;> rfl
@[simp] theorem apply_line_clusters (k : Nat) (v : Line) (s : State) : (Eff.apply (Eff.line k v) s).clusters = s.clusters := by unfold Eff.apply; dsimp only; split <;> rfl
@[simp] theorem apply_line_dies (k : Nat) (v : Line) (s : State) : (Eff.apply (Eff.line k v) s).dies = s.dies := by unfold Eff.apply; dsimp only; split <;> rfl
theorem apply_line_lines (k : Nat) (v : Line) (s : State) (h : k < 2 ^ 45) : (Eff.apply (Eff.line k v) s).lines = tabSet Line.init k v s.lines := congrArg State.lines (if_pos h)
@[simp] theorem apply_line_frames (k : Nat) (v : Line) (s : State) : (Eff.apply (Eff.line k v) s).frames = s.frames := by unfold Eff.apply; dsimp only; split <;> rfl
@[simp] theorem apply_line_ctxs (k : Nat) (v : Line) (s : State) : (Eff.apply (Eff.line k v) s).ctxs = s.ctxs := by unfold Eff.apply; dsimp only; split <;> rfl
@[simp] theorem apply_line_queues (k : Nat) (v : Line) (s : State) : (Eff.apply (Eff.line k v) s).queues = s.queues := by unfold Eff.apply; dsimp only; split <;> rfl
@[simp] theorem apply_line_groups (k : Nat) (v : Line) (s : State) : (Eff.apply (Eff.line k v) s).groups = s.groups := by unfold Eff.apply; dsimp only; split <;> rfl
@[simp] theorem apply_line_works (k : Nat) (v : Line) (s : State) : (Eff.apply (Eff.line k v) s).works = s.works := by unfold Eff.apply; dsimp only; split <;> rfl
@[simp] theorem apply_line_reqs (k : Nat) (v : Line) (s : State) : (Eff.apply (Eff.line k v) s).reqs = s.reqs := by unfold Eff.apply; dsimp only; split <;> rfl
@[simp] theorem apply_line_saves (k : Nat) (v : Line) (s : State) : (Eff.apply (Eff.line k v) s).saves = s.saves := by unfold Eff.apply; dsimp only; split <;> rfl
@[simp] theorem apply_line_links (k : Nat) (v : Line) (s : State) : (Eff.apply (Eff.line k v) s).links = s.links := by unfold Eff.apply; dsimp only; split <;> rfl
@[simp] theorem apply_line_mgmt (k : Nat) (v : Line) (s : State) : (Eff.apply (Eff.line k v) s).mgmt = s.mgmt := by unfold Eff.apply; dsimp only; split <;> rfl

/-! frame -/
@[simp] theorem apply_frame_clk (k : Nat) (v : FrameSt) (s : State) : (Eff.apply (Eff.frame k v) s).clk = s.clk := by unfold Eff.apply; dsimp only; split <;> rfl
@[simp] theorem apply_frame_agenda (k : Nat) (v : FrameSt) (s : State) : (Eff.apply (Eff.frame k v) s).agenda = s.agenda := by unfold Eff.apply; dsimp only; split <;> rfl
@[simp] theorem apply_frame_cur (k : Nat) (v : FrameSt) (s : State) : (Eff.apply (Eff.frame k v) s).cur = s.cur := by unfold Eff.apply; dsimp only; split <;> rfl
@[simp] theorem apply_frame_freeCtr (k : Nat) (v : FrameSt) (s : State) : (Eff.apply (Eff.frame k v) s).freeCtr = s.freeCtr := by unfold Eff.apply; dsimp only; split <;> rfl
@[simp] theorem apply_frame_nextId (k : Nat) (v : FrameSt) (s : State) : (Eff.apply (Eff.frame k v) s).nextId = s.nextId := by unfold Eff.apply; dsimp only; split <;> rfl
@[simp] theorem apply_frame_order (k : Nat) (v : FrameSt) (s : State) : (Eff.apply (Eff.frame k v) s).order = s.order := by unfold Eff.apply; dsimp only; split <;> rfl
@[simp] theorem apply_frame_mem (k : Nat) (v : FrameSt) (s : State) : (Eff.apply (Eff.frame k v) s).mem = s.mem := by unfold Eff.apply; dsimp only; split <;> rfl
@[simp] theorem apply_frame_bad (k : Nat) (v : FrameSt) (s : State) : (Eff.apply (Eff.frame k v) s).bad = s.bad := by unfold Eff.apply; dsimp only; split <;> rfl
@[simp] theorem apply_frame_cores (k : Nat) (v : FrameSt) (s : State) : (Eff.apply (Eff.frame k v) s).cores = s.cores := by unfold Eff.apply; dsimp only; split <;> rfl
@[simp] theorem apply_frame_clusters (k : Nat) (v : FrameSt) (s : State) : (Eff.apply (Eff.frame k v) s).clusters = s.clusters := by unfold Eff.apply; dsimp only; split <;> rfl
@[simp] theorem apply_frame_dies (k : Nat) (v : FrameSt) (s : State) : (Eff.apply (Eff.frame k v) s).dies = s.dies := by unfold Eff.apply; dsimp only; split <;> rfl
@[simp] theorem apply_frame_lines (k : Nat) (v : FrameSt) (s : State) : (Eff.apply (Eff.frame k v) s).lines = s.lines := by unfold Eff.apply; dsimp only; split <;> rfl
theorem apply_frame_frames (k : Nat) (v : FrameSt) (s : State) (h : k < 2 ^ 36) : (Eff.apply (Eff.frame k v) s).frames = tabSet FrameSt.init k v s.frames := congrArg State.frames (if_pos h)
@[simp] theorem apply_frame_ctxs (k : Nat) (v : FrameSt) (s : State) : (Eff.apply (Eff.frame k v) s).ctxs = s.ctxs := by unfold Eff.apply; dsimp only; split <;> rfl
@[simp] theorem apply_frame_queues (k : Nat) (v : FrameSt) (s : State) : (Eff.apply (Eff.frame k v) s).queues = s.queues := by unfold Eff.apply; dsimp only; split <;> rfl
@[simp] theorem apply_frame_groups (k : Nat) (v : FrameSt) (s : State) : (Eff.apply (Eff.frame k v) s).groups = s.groups := by unfold Eff.apply; dsimp only; split <;> rfl
@[simp] theorem apply_frame_works (k : Nat) (v : FrameSt) (s : State) : (Eff.apply (Eff.frame k v) s).works = s.works := by unfold Eff.apply; dsimp only; split <;> rfl
@[simp] theorem apply_frame_reqs (k : Nat) (v : FrameSt) (s : State) : (Eff.apply (Eff.frame k v) s).reqs = s.reqs := by unfold Eff.apply; dsimp only; split <;> rfl
@[simp] theorem apply_frame_saves (k : Nat) (v : FrameSt) (s : State) : (Eff.apply (Eff.frame k v) s).saves = s.saves := by unfold Eff.apply; dsimp only; split <;> rfl
@[simp] theorem apply_frame_links (k : Nat) (v : FrameSt) (s : State) : (Eff.apply (Eff.frame k v) s).links = s.links := by unfold Eff.apply; dsimp only; split <;> rfl
@[simp] theorem apply_frame_mgmt (k : Nat) (v : FrameSt) (s : State) : (Eff.apply (Eff.frame k v) s).mgmt = s.mgmt := by unfold Eff.apply; dsimp only; split <;> rfl

/-! ctx -/
@[simp] theorem apply_ctx_clk (k : Nat) (v : Ctx) (s : State) : (Eff.apply (Eff.ctx k v) s).clk = s.clk := by unfold Eff.apply; dsimp only; split <;> rfl
@[simp] theorem apply_ctx_agenda (k : Nat) (v : Ctx) (s : State) : (Eff.apply (Eff.ctx k v) s).agenda = s.agenda := by unfold Eff.apply; dsimp only; split <;> rfl
@[simp] theorem apply_ctx_cur (k : Nat) (v : Ctx) (s : State) : (Eff.apply (Eff.ctx k v) s).cur = s.cur := by unfold Eff.apply; dsimp only; split <;> rfl
@[simp] theorem apply_ctx_freeCtr (k : Nat) (v : Ctx) (s : State) : (Eff.apply (Eff.ctx k v) s).freeCtr = s.freeCtr := by unfold Eff.apply; dsimp only; split <;> rfl
@[simp] theorem apply_ctx_nextId (k : Nat) (v : Ctx) (s : State) : (Eff.apply (Eff.ctx k v) s).nextId = s.nextId := by unfold Eff.apply; dsimp only; split <;> rfl
@[simp] theorem apply_ctx_order (k : Nat) (v : Ctx) (s : State) : (Eff.apply (Eff.ctx k v) s).order = s.order := by unfold Eff.apply; dsimp only; split <;> rfl
@[simp] theorem apply_ctx_mem (k : Nat) (v : Ctx) (s : State) : (Eff.apply (Eff.ctx k v) s).mem = s.mem := by unfold Eff.apply; dsimp only; split <;> rfl
@[simp] theorem apply_ctx_bad (k : Nat) (v : Ctx) (s : State) : (Eff.apply (Eff.ctx k v) s).bad = s.bad := by unfold Eff.apply; dsimp only; split <;> rfl
@[simp] theorem apply_ctx_cores (k : Nat) (v : Ctx) (s : State) : (Eff.apply (Eff.ctx k v) s).cores = s.cores := by unfold Eff.apply; dsimp only; split <;> rfl
@[simp] theorem apply_ctx_clusters (k : Nat) (v : Ctx) (s : State) : (Eff.apply (Eff.ctx k v) s).clusters = s.clusters := by unfold Eff.apply; dsimp only; split <;> rfl
@[simp] theorem apply_ctx_dies (k : Nat) (v : Ctx) (s : State) : (Eff.apply (Eff.ctx k v) s).dies = s.dies := by unfold Eff.apply; dsimp only; split <;> rfl
@[simp] theorem apply_ctx_lines (k : Nat) (v : Ctx) (s : State) : (Eff.apply (Eff.ctx k v) s).lines = s.lines := by unfold Eff.apply; dsimp only; split <;> rfl
@[simp] theorem apply_ctx_frames (k : Nat) (v : Ctx) (s : State) : (Eff.apply (Eff.ctx k v) s).frames = s.frames := by unfold Eff.apply; dsimp only; split <;> rfl
theorem apply_ctx_ctxs (k : Nat) (v : Ctx) (s : State) (h : k < 4096) : (Eff.apply (Eff.ctx k v) s).ctxs = tabSet Ctx.init k v s.ctxs := congrArg State.ctxs (if_pos h)
@[simp] theorem apply_ctx_queues (k : Nat) (v : Ctx) (s : State) : (Eff.apply (Eff.ctx k v) s).queues = s.queues := by unfold Eff.apply; dsimp only; split <;> rfl
@[simp] theorem apply_ctx_groups (k : Nat) (v : Ctx) (s : State) : (Eff.apply (Eff.ctx k v) s).groups = s.groups := by unfold Eff.apply; dsimp only; split <;> rfl
@[simp] theorem apply_ctx_works (k : Nat) (v : Ctx) (s : State) : (Eff.apply (Eff.ctx k v) s).works = s.works := by unfold Eff.apply; dsimp only; split <;> rfl
@[simp] theorem apply_ctx_reqs (k : Nat) (v : Ctx) (s : State) : (Eff.apply (Eff.ctx k v) s).reqs = s.reqs := by unfold Eff.apply; dsimp only; split <;> rfl
@[simp] theorem apply_ctx_saves (k : Nat) (v : Ctx) (s : State) : (Eff.apply (Eff.ctx k v) s).saves = s.saves := by unfold Eff.apply; dsimp only; split <;> rfl
@[simp] theorem apply_ctx_links (k : Nat) (v : Ctx) (s : State) : (Eff.apply (Eff.ctx k v) s).links = s.links := by unfold Eff.apply; dsimp only; split <;> rfl
@[simp] theorem apply_ctx_mgmt (k : Nat) (v : Ctx) (s : State) : (Eff.apply (Eff.ctx k v) s).mgmt = s.mgmt := by unfold Eff.apply; dsimp only; split <;> rfl

/-! queue -/
@[simp] theorem apply_queue_clk (k : Nat) (v : Queue) (s : State) : (Eff.apply (Eff.queue k v) s).clk = s.clk := by unfold Eff.apply; dsimp only; split <;> rfl
@[simp] theorem apply_queue_agenda (k : Nat) (v : Queue) (s : State) : (Eff.apply (Eff.queue k v) s).agenda = s.agenda := by unfold Eff.apply; dsimp only; split <;> rfl
@[simp] theorem apply_queue_cur (k : Nat) (v : Queue) (s : State) : (Eff.apply (Eff.queue k v) s).cur = s.cur := by unfold Eff.apply; dsimp only; split <;> rfl
@[simp] theorem apply_queue_freeCtr (k : Nat) (v : Queue) (s : State) : (Eff.apply (Eff.queue k v) s).freeCtr = s.freeCtr := by unfold Eff.apply; dsimp only; split <;> rfl
@[simp] theorem apply_queue_nextId (k : Nat) (v : Queue) (s : State) : (Eff.apply (Eff.queue k v) s).nextId = s.nextId := by unfold Eff.apply; dsimp only; split <;> rfl
@[simp] theorem apply_queue_order (k : Nat) (v : Queue) (s : State) : (Eff.apply (Eff.queue k v) s).order = s.order := by unfold Eff.apply; dsimp only; split <;> rfl
@[simp] theorem apply_queue_mem (k : Nat) (v : Queue) (s : State) : (Eff.apply (Eff.queue k v) s).mem = s.mem := by unfold Eff.apply; dsimp only; split <;> rfl
@[simp] theorem apply_queue_bad (k : Nat) (v : Queue) (s : State) : (Eff.apply (Eff.queue k v) s).bad = s.bad := by unfold Eff.apply; dsimp only; split <;> rfl
@[simp] theorem apply_queue_cores (k : Nat) (v : Queue) (s : State) : (Eff.apply (Eff.queue k v) s).cores = s.cores := by unfold Eff.apply; dsimp only; split <;> rfl
@[simp] theorem apply_queue_clusters (k : Nat) (v : Queue) (s : State) : (Eff.apply (Eff.queue k v) s).clusters = s.clusters := by unfold Eff.apply; dsimp only; split <;> rfl
@[simp] theorem apply_queue_dies (k : Nat) (v : Queue) (s : State) : (Eff.apply (Eff.queue k v) s).dies = s.dies := by unfold Eff.apply; dsimp only; split <;> rfl
@[simp] theorem apply_queue_lines (k : Nat) (v : Queue) (s : State) : (Eff.apply (Eff.queue k v) s).lines = s.lines := by unfold Eff.apply; dsimp only; split <;> rfl
@[simp] theorem apply_queue_frames (k : Nat) (v : Queue) (s : State) : (Eff.apply (Eff.queue k v) s).frames = s.frames := by unfold Eff.apply; dsimp only; split <;> rfl
@[simp] theorem apply_queue_ctxs (k : Nat) (v : Queue) (s : State) : (Eff.apply (Eff.queue k v) s).ctxs = s.ctxs := by unfold Eff.apply; dsimp only; split <;> rfl
theorem apply_queue_queues (k : Nat) (v : Queue) (s : State) (h : k < 16384) : (Eff.apply (Eff.queue k v) s).queues = tabSet Queue.init k v s.queues := congrArg State.queues (if_pos h)
@[simp] theorem apply_queue_groups (k : Nat) (v : Queue) (s : State) : (Eff.apply (Eff.queue k v) s).groups = s.groups := by unfold Eff.apply; dsimp only; split <;> rfl
@[simp] theorem apply_queue_works (k : Nat) (v : Queue) (s : State) : (Eff.apply (Eff.queue k v) s).works = s.works := by unfold Eff.apply; dsimp only; split <;> rfl
@[simp] theorem apply_queue_reqs (k : Nat) (v : Queue) (s : State) : (Eff.apply (Eff.queue k v) s).reqs = s.reqs := by unfold Eff.apply; dsimp only; split <;> rfl
@[simp] theorem apply_queue_saves (k : Nat) (v : Queue) (s : State) : (Eff.apply (Eff.queue k v) s).saves = s.saves := by unfold Eff.apply; dsimp only; split <;> rfl
@[simp] theorem apply_queue_links (k : Nat) (v : Queue) (s : State) : (Eff.apply (Eff.queue k v) s).links = s.links := by unfold Eff.apply; dsimp only; split <;> rfl
@[simp] theorem apply_queue_mgmt (k : Nat) (v : Queue) (s : State) : (Eff.apply (Eff.queue k v) s).mgmt = s.mgmt := by unfold Eff.apply; dsimp only; split <;> rfl

/-! group -/
@[simp] theorem apply_group_clk (k : Nat) (v : Group) (s : State) : (Eff.apply (Eff.group k v) s).clk = s.clk := by unfold Eff.apply; dsimp only; split <;> rfl
@[simp] theorem apply_group_agenda (k : Nat) (v : Group) (s : State) : (Eff.apply (Eff.group k v) s).agenda = s.agenda := by unfold Eff.apply; dsimp only; split <;> rfl
@[simp] theorem apply_group_cur (k : Nat) (v : Group) (s : State) : (Eff.apply (Eff.group k v) s).cur = s.cur := by unfold Eff.apply; dsimp only; split <;> rfl
@[simp] theorem apply_group_freeCtr (k : Nat) (v : Group) (s : State) : (Eff.apply (Eff.group k v) s).freeCtr = s.freeCtr := by unfold Eff.apply; dsimp only; split <;> rfl
@[simp] theorem apply_group_nextId (k : Nat) (v : Group) (s : State) : (Eff.apply (Eff.group k v) s).nextId = s.nextId := by unfold Eff.apply; dsimp only; split <;> rfl
@[simp] theorem apply_group_order (k : Nat) (v : Group) (s : State) : (Eff.apply (Eff.group k v) s).order = s.order := by unfold Eff.apply; dsimp only; split <;> rfl
@[simp] theorem apply_group_mem (k : Nat) (v : Group) (s : State) : (Eff.apply (Eff.group k v) s).mem = s.mem := by unfold Eff.apply; dsimp only; split <;> rfl
@[simp] theorem apply_group_bad (k : Nat) (v : Group) (s : State) : (Eff.apply (Eff.group k v) s).bad = s.bad := by unfold Eff.apply; dsimp only; split <;> rfl
@[simp] theorem apply_group_cores (k : Nat) (v : Group) (s : State) : (Eff.apply (Eff.group k v) s).cores = s.cores := by unfold Eff.apply; dsimp only; split <;> rfl
@[simp] theorem apply_group_clusters (k : Nat) (v : Group) (s : State) : (Eff.apply (Eff.group k v) s).clusters = s.clusters := by unfold Eff.apply; dsimp only; split <;> rfl
@[simp] theorem apply_group_dies (k : Nat) (v : Group) (s : State) : (Eff.apply (Eff.group k v) s).dies = s.dies := by unfold Eff.apply; dsimp only; split <;> rfl
@[simp] theorem apply_group_lines (k : Nat) (v : Group) (s : State) : (Eff.apply (Eff.group k v) s).lines = s.lines := by unfold Eff.apply; dsimp only; split <;> rfl
@[simp] theorem apply_group_frames (k : Nat) (v : Group) (s : State) : (Eff.apply (Eff.group k v) s).frames = s.frames := by unfold Eff.apply; dsimp only; split <;> rfl
@[simp] theorem apply_group_ctxs (k : Nat) (v : Group) (s : State) : (Eff.apply (Eff.group k v) s).ctxs = s.ctxs := by unfold Eff.apply; dsimp only; split <;> rfl
@[simp] theorem apply_group_queues (k : Nat) (v : Group) (s : State) : (Eff.apply (Eff.group k v) s).queues = s.queues := by unfold Eff.apply; dsimp only; split <;> rfl
theorem apply_group_groups (k : Nat) (v : Group) (s : State) (h : k < 32768) : (Eff.apply (Eff.group k v) s).groups = tabSet Group.init k v s.groups := congrArg State.groups (if_pos h)
@[simp] theorem apply_group_works (k : Nat) (v : Group) (s : State) : (Eff.apply (Eff.group k v) s).works = s.works := by unfold Eff.apply; dsimp only; split <;> rfl
@[simp] theorem apply_group_reqs (k : Nat) (v : Group) (s : State) : (Eff.apply (Eff.group k v) s).reqs = s.reqs := by unfold Eff.apply; dsimp only; split <;> rfl
@[simp] theorem apply_group_saves (k : Nat) (v : Group) (s : State) : (Eff.apply (Eff.group k v) s).saves = s.saves := by unfold Eff.apply; dsimp only; split <;> rfl
@[simp] theorem apply_group_links (k : Nat) (v : Group) (s : State) : (Eff.apply (Eff.group k v) s).links = s.links := by unfold Eff.apply; dsimp only; split <;> rfl
@[simp] theorem apply_group_mgmt (k : Nat) (v : Group) (s : State) : (Eff.apply (Eff.group k v) s).mgmt = s.mgmt := by unfold Eff.apply; dsimp only; split <;> rfl

/-! works -/
@[simp] theorem apply_works_clk (l : List Work) (s : State) : (Eff.apply (Eff.works l) s).clk = s.clk := rfl
@[simp] theorem apply_works_agenda (l : List Work) (s : State) : (Eff.apply (Eff.works l) s).agenda = s.agenda := rfl
@[simp] theorem apply_works_cur (l : List Work) (s : State) : (Eff.apply (Eff.works l) s).cur = s.cur := rfl
@[simp] theorem apply_works_freeCtr (l : List Work) (s : State) : (Eff.apply (Eff.works l) s).freeCtr = s.freeCtr := rfl
@[simp] theorem apply_works_nextId (l : List Work) (s : State) : (Eff.apply (Eff.works l) s).nextId = s.nextId := rfl
@[simp] theorem apply_works_order (l : List Work) (s : State) : (Eff.apply (Eff.works l) s).order = s.order := rfl
@[simp] theorem apply_works_mem (l : List Work) (s : State) : (Eff.apply (Eff.works l) s).mem = s.mem := rfl
@[simp] theorem apply_works_bad (l : List Work) (s : State) : (Eff.apply (Eff.works l) s).bad = s.bad := rfl
@[simp] theorem apply_works_cores (l : List Work) (s : State) : (Eff.apply (Eff.works l) s).cores = s.cores := rfl
@[simp] theorem apply_works_clusters (l : List Work) (s : State) : (Eff.apply (Eff.works l) s).clusters = s.clusters := rfl
@[simp] theorem apply_works_dies (l : List Work) (s : State) : (Eff.apply (Eff.works l) s).dies = s.dies := rfl
@[simp] theorem apply_works_lines (l : List Work) (s : State) : (Eff.apply (Eff.works l) s).lines = s.lines := rfl
@[simp] theorem apply_works_frames (l : List Work) (s : State) : (Eff.apply (Eff.works l) s).frames = s.frames := rfl
@[simp] theorem apply_works_ctxs (l : List Work) (s : State) : (Eff.apply (Eff.works l) s).ctxs = s.ctxs := rfl
@[simp] theorem apply_works_queues (l : List Work) (s : State) : (Eff.apply (Eff.works l) s).queues = s.queues := rfl
@[simp] theorem apply_works_groups (l : List Work) (s : State) : (Eff.apply (Eff.works l) s).groups = s.groups := rfl
@[simp] theorem apply_works_works (l : List Work) (s : State) : (Eff.apply (Eff.works l) s).works = l := rfl
@[simp] theorem apply_works_reqs (l : List Work) (s : State) : (Eff.apply (Eff.works l) s).reqs = s.reqs := rfl
@[simp] theorem apply_works_saves (l : List Work) (s : State) : (Eff.apply (Eff.works l) s).saves = s.saves := rfl
@[simp] theorem apply_works_links (l : List Work) (s : State) : (Eff.apply (Eff.works l) s).links = s.links := rfl
@[simp] theorem apply_works_mgmt (l : List Work) (s : State) : (Eff.apply (Eff.works l) s).mgmt = s.mgmt := rfl

/-! reqs -/
@[simp] theorem apply_reqs_clk (l : List Req) (s : State) : (Eff.apply (Eff.reqs l) s).clk = s.clk := rfl
@[simp] theorem apply_reqs_agenda (l : List Req) (s : State) : (Eff.apply (Eff.reqs l) s).agenda = s.agenda := rfl
@[simp] theorem apply_reqs_cur (l : List Req) (s : State) : (Eff.apply (Eff.reqs l) s).cur = s.cur := rfl
@[simp] theorem apply_reqs_freeCtr (l : List Req) (s : State) : (Eff.apply (Eff.reqs l) s).freeCtr = s.freeCtr := rfl
@[simp] theorem apply_reqs_nextId (l : List Req) (s : State) : (Eff.apply (Eff.reqs l) s).nextId = s.nextId := rfl
@[simp] theorem apply_reqs_order (l : List Req) (s : State) : (Eff.apply (Eff.reqs l) s).order = s.order := rfl
@[simp] theorem apply_reqs_mem (l : List Req) (s : State) : (Eff.apply (Eff.reqs l) s).mem = s.mem := rfl
@[simp] theorem apply_reqs_bad (l : List Req) (s : State) : (Eff.apply (Eff.reqs l) s).bad = s.bad := rfl
@[simp] theorem apply_reqs_cores (l : List Req) (s : State) : (Eff.apply (Eff.reqs l) s).cores = s.cores := rfl
@[simp] theorem apply_reqs_clusters (l : List Req) (s : State) : (Eff.apply (Eff.reqs l) s).clusters = s.clusters := rfl
@[simp] theorem apply_reqs_dies (l : List Req) (s : State) : (Eff.apply (Eff.reqs l) s).dies = s.dies := rfl
@[simp] theorem apply_reqs_lines (l : List Req) (s : State) : (Eff.apply (Eff.reqs l) s).lines = s.lines := rfl
@[simp] theorem apply_reqs_frames (l : List Req) (s : State) : (Eff.apply (Eff.reqs l) s).frames = s.frames := rfl
@[simp] theorem apply_reqs_ctxs (l : List Req) (s : State) : (Eff.apply (Eff.reqs l) s).ctxs = s.ctxs := rfl
@[simp] theorem apply_reqs_queues (l : List Req) (s : State) : (Eff.apply (Eff.reqs l) s).queues = s.queues := rfl
@[simp] theorem apply_reqs_groups (l : List Req) (s : State) : (Eff.apply (Eff.reqs l) s).groups = s.groups := rfl
@[simp] theorem apply_reqs_works (l : List Req) (s : State) : (Eff.apply (Eff.reqs l) s).works = s.works := rfl
@[simp] theorem apply_reqs_reqs (l : List Req) (s : State) : (Eff.apply (Eff.reqs l) s).reqs = l := rfl
@[simp] theorem apply_reqs_saves (l : List Req) (s : State) : (Eff.apply (Eff.reqs l) s).saves = s.saves := rfl
@[simp] theorem apply_reqs_links (l : List Req) (s : State) : (Eff.apply (Eff.reqs l) s).links = s.links := rfl
@[simp] theorem apply_reqs_mgmt (l : List Req) (s : State) : (Eff.apply (Eff.reqs l) s).mgmt = s.mgmt := rfl

/-! saves -/
@[simp] theorem apply_saves_clk (l : List SaveImg) (s : State) : (Eff.apply (Eff.saves l) s).clk = s.clk := rfl
@[simp] theorem apply_saves_agenda (l : List SaveImg) (s : State) : (Eff.apply (Eff.saves l) s).agenda = s.agenda := rfl
@[simp] theorem apply_saves_cur (l : List SaveImg) (s : State) : (Eff.apply (Eff.saves l) s).cur = s.cur := rfl
@[simp] theorem apply_saves_freeCtr (l : List SaveImg) (s : State) : (Eff.apply (Eff.saves l) s).freeCtr = s.freeCtr := rfl
@[simp] theorem apply_saves_nextId (l : List SaveImg) (s : State) : (Eff.apply (Eff.saves l) s).nextId = s.nextId := rfl
@[simp] theorem apply_saves_order (l : List SaveImg) (s : State) : (Eff.apply (Eff.saves l) s).order = s.order := rfl
@[simp] theorem apply_saves_mem (l : List SaveImg) (s : State) : (Eff.apply (Eff.saves l) s).mem = s.mem := rfl
@[simp] theorem apply_saves_bad (l : List SaveImg) (s : State) : (Eff.apply (Eff.saves l) s).bad = s.bad := rfl
@[simp] theorem apply_saves_cores (l : List SaveImg) (s : State) : (Eff.apply (Eff.saves l) s).cores = s.cores := rfl
@[simp] theorem apply_saves_clusters (l : List SaveImg) (s : State) : (Eff.apply (Eff.saves l) s).clusters = s.clusters := rfl
@[simp] theorem apply_saves_dies (l : List SaveImg) (s : State) : (Eff.apply (Eff.saves l) s).dies = s.dies := rfl
@[simp] theorem apply_saves_lines (l : List SaveImg) (s : State) : (Eff.apply (Eff.saves l) s).lines = s.lines := rfl
@[simp] theorem apply_saves_frames (l : List SaveImg) (s : State) : (Eff.apply (Eff.saves l) s).frames = s.frames := rfl
@[simp] theorem apply_saves_ctxs (l : List SaveImg) (s : State) : (Eff.apply (Eff.saves l) s).ctxs = s.ctxs := rfl
@[simp] theorem apply_saves_queues (l : List SaveImg) (s : State) : (Eff.apply (Eff.saves l) s).queues = s.queues := rfl
@[simp] theorem apply_saves_groups (l : List SaveImg) (s : State) : (Eff.apply (Eff.saves l) s).groups = s.groups := rfl
@[simp] theorem apply_saves_works (l : List SaveImg) (s : State) : (Eff.apply (Eff.saves l) s).works = s.works := rfl
@[simp] theorem apply_saves_reqs (l : List SaveImg) (s : State) : (Eff.apply (Eff.saves l) s).reqs = s.reqs := rfl
@[simp] theorem apply_saves_saves (l : List SaveImg) (s : State) : (Eff.apply (Eff.saves l) s).saves = l := rfl
@[simp] theorem apply_saves_links (l : List SaveImg) (s : State) : (Eff.apply (Eff.saves l) s).links = s.links := rfl
@[simp] theorem apply_saves_mgmt (l : List SaveImg) (s : State) : (Eff.apply (Eff.saves l) s).mgmt = s.mgmt := rfl

/-! link -/
@[simp] theorem apply_link_clk (k : Nat) (v : Link) (s : State) : (Eff.apply (Eff.link k v) s).clk = s.clk := by unfold Eff.apply; dsimp only; split <;> rfl
@[simp] theorem apply_link_agenda (k : Nat) (v : Link) (s : State) : (Eff.apply (Eff.link k v) s).agenda = s.agenda := by unfold Eff.apply; dsimp only; split <;> rfl
@[simp] theorem apply_link_cur (k : Nat) (v : Link) (s : State) : (Eff.apply (Eff.link k v) s).cur = s.cur := by unfold Eff.apply; dsimp only; split <;> rfl
@[simp] theorem apply_link_freeCtr (k : Nat) (v : Link) (s : State) : (Eff.apply (Eff.link k v) s).freeCtr = s.freeCtr := by unfold Eff.apply; dsimp only; split <;> rfl
@[simp] theorem apply_link_nextId (k : Nat) (v : Link) (s : State) : (Eff.apply (Eff.link k v) s).nextId = s.nextId := by unfold Eff.apply; dsimp only; split <;> rfl
@[simp] theorem apply_link_order (k : Nat) (v : Link) (s : State) : (Eff.apply (Eff.link k v) s).order = s.order := by unfold Eff.apply; dsimp only; split <;> rfl
@[simp] theorem apply_link_mem (k : Nat) (v : Link) (s : State) : (Eff.apply (Eff.link k v) s).mem = s.mem := by unfold Eff.apply; dsimp only; split <;> rfl
@[simp] theorem apply_link_bad (k : Nat) (v : Link) (s : State) : (Eff.apply (Eff.link k v) s).bad = s.bad := by unfold Eff.apply; dsimp only; split <;> rfl
@[simp] theorem apply_link_cores (k : Nat) (v : Link) (s : State) : (Eff.apply (Eff.link k v) s).cores = s.cores := by unfold Eff.apply; dsimp only; split <;> rfl
@[simp] theorem apply_link_clusters (k : Nat) (v : Link) (s : State) : (Eff.apply (Eff.link k v) s).clusters = s.clusters := by unfold Eff.apply; dsimp only; split <;> rfl
@[simp] theorem apply_link_dies (k : Nat) (v : Link) (s : State) : (Eff.apply (Eff.link k v) s).dies = s.dies := by unfold Eff.apply; dsimp only; split <;> rfl
@[simp] theorem apply_link_lines (k : Nat) (v : Link) (s : State) : (Eff.apply (Eff.link k v) s).lines = s.lines := by unfold Eff.apply; dsimp only; split <;> rfl
@[simp] theorem apply_link_frames (k : Nat) (v : Link) (s : State) : (Eff.apply (Eff.link k v) s).frames = s.frames := by unfold Eff.apply; dsimp only; split <;> rfl
@[simp] theorem apply_link_ctxs (k : Nat) (v : Link) (s : State) : (Eff.apply (Eff.link k v) s).ctxs = s.ctxs := by unfold Eff.apply; dsimp only; split <;> rfl
@[simp] theorem apply_link_queues (k : Nat) (v : Link) (s : State) : (Eff.apply (Eff.link k v) s).queues = s.queues := by unfold Eff.apply; dsimp only; split <;> rfl
@[simp] theorem apply_link_groups (k : Nat) (v : Link) (s : State) : (Eff.apply (Eff.link k v) s).groups = s.groups := by unfold Eff.apply; dsimp only; split <;> rfl
@[simp] theorem apply_link_works (k : Nat) (v : Link) (s : State) : (Eff.apply (Eff.link k v) s).works = s.works := by unfold Eff.apply; dsimp only; split <;> rfl
@[simp] theorem apply_link_reqs (k : Nat) (v : Link) (s : State) : (Eff.apply (Eff.link k v) s).reqs = s.reqs := by unfold Eff.apply; dsimp only; split <;> rfl
@[simp] theorem apply_link_saves (k : Nat) (v : Link) (s : State) : (Eff.apply (Eff.link k v) s).saves = s.saves := by unfold Eff.apply; dsimp only; split <;> rfl
theorem apply_link_links (k : Nat) (v : Link) (s : State) (h : k < 18) : (Eff.apply (Eff.link k v) s).links = tabSet Link.init k v s.links := congrArg State.links (if_pos h)
@[simp] theorem apply_link_mgmt (k : Nat) (v : Link) (s : State) : (Eff.apply (Eff.link k v) s).mgmt = s.mgmt := by unfold Eff.apply; dsimp only; split <;> rfl

/-! mgmt -/
@[simp] theorem apply_mgmt_clk (v : Mgmt) (s : State) : (Eff.apply (Eff.mgmt v) s).clk = s.clk := rfl
@[simp] theorem apply_mgmt_agenda (v : Mgmt) (s : State) : (Eff.apply (Eff.mgmt v) s).agenda = s.agenda := rfl
@[simp] theorem apply_mgmt_cur (v : Mgmt) (s : State) : (Eff.apply (Eff.mgmt v) s).cur = s.cur := rfl
@[simp] theorem apply_mgmt_freeCtr (v : Mgmt) (s : State) : (Eff.apply (Eff.mgmt v) s).freeCtr = s.freeCtr := rfl
@[simp] theorem apply_mgmt_nextId (v : Mgmt) (s : State) : (Eff.apply (Eff.mgmt v) s).nextId = s.nextId := rfl
@[simp] theorem apply_mgmt_order (v : Mgmt) (s : State) : (Eff.apply (Eff.mgmt v) s).order = s.order := rfl
@[simp] theorem apply_mgmt_mem (v : Mgmt) (s : State) : (Eff.apply (Eff.mgmt v) s).mem = s.mem := rfl
@[simp] theorem apply_mgmt_bad (v : Mgmt) (s : State) : (Eff.apply (Eff.mgmt v) s).bad = s.bad := rfl
@[simp] theorem apply_mgmt_cores (v : Mgmt) (s : State) : (Eff.apply (Eff.mgmt v) s).cores = s.cores := rfl
@[simp] theorem apply_mgmt_clusters (v : Mgmt) (s : State) : (Eff.apply (Eff.mgmt v) s).clusters = s.clusters := rfl
@[simp] theorem apply_mgmt_dies (v : Mgmt) (s : State) : (Eff.apply (Eff.mgmt v) s).dies = s.dies := rfl
@[simp] theorem apply_mgmt_lines (v : Mgmt) (s : State) : (Eff.apply (Eff.mgmt v) s).lines = s.lines := rfl
@[simp] theorem apply_mgmt_frames (v : Mgmt) (s : State) : (Eff.apply (Eff.mgmt v) s).frames = s.frames := rfl
@[simp] theorem apply_mgmt_ctxs (v : Mgmt) (s : State) : (Eff.apply (Eff.mgmt v) s).ctxs = s.ctxs := rfl
@[simp] theorem apply_mgmt_queues (v : Mgmt) (s : State) : (Eff.apply (Eff.mgmt v) s).queues = s.queues := rfl
@[simp] theorem apply_mgmt_groups (v : Mgmt) (s : State) : (Eff.apply (Eff.mgmt v) s).groups = s.groups := rfl
@[simp] theorem apply_mgmt_works (v : Mgmt) (s : State) : (Eff.apply (Eff.mgmt v) s).works = s.works := rfl
@[simp] theorem apply_mgmt_reqs (v : Mgmt) (s : State) : (Eff.apply (Eff.mgmt v) s).reqs = s.reqs := rfl
@[simp] theorem apply_mgmt_saves (v : Mgmt) (s : State) : (Eff.apply (Eff.mgmt v) s).saves = s.saves := rfl
@[simp] theorem apply_mgmt_links (v : Mgmt) (s : State) : (Eff.apply (Eff.mgmt v) s).links = s.links := rfl
@[simp] theorem apply_mgmt_mgmt (v : Mgmt) (s : State) : (Eff.apply (Eff.mgmt v) s).mgmt = v := rfl

/-! Reads of a component after an effect. -/
@[simp] theorem core_apply_tick (n : Nat) (s : State) (j : Nat) : (Eff.apply (Eff.tick n) s).core j = s.core j := by
  unfold State.core; rw [apply_tick_cores]
@[simp] theorem cluster_apply_tick (n : Nat) (s : State) (j : Nat) : (Eff.apply (Eff.tick n) s).cluster j = s.cluster j := by
  unfold State.cluster; rw [apply_tick_clusters]
@[simp] theorem die_apply_tick (n : Nat) (s : State) (j : Nat) : (Eff.apply (Eff.tick n) s).die j = s.die j := by
  unfold State.die; rw [apply_tick_dies]
@[simp] theorem line_apply_tick (n : Nat) (s : State) (j : Nat) : (Eff.apply (Eff.tick n) s).line j = s.line j := by
  unfold State.line; rw [apply_tick_lines]
@[simp] theorem frame_apply_tick (n : Nat) (s : State) (j : Nat) : (Eff.apply (Eff.tick n) s).frame j = s.frame j := by
  unfold State.frame; rw [apply_tick_frames]
@[simp] theorem ctx_apply_tick (n : Nat) (s : State) (j : Nat) : (Eff.apply (Eff.tick n) s).ctx j = s.ctx j := by
  unfold State.ctx; rw [apply_tick_ctxs]
@[simp] theorem queue_apply_tick (n : Nat) (s : State) (j : Nat) : (Eff.apply (Eff.tick n) s).queue j = s.queue j := by
  unfold State.queue; rw [apply_tick_queues]
@[simp] theorem group_apply_tick (n : Nat) (s : State) (j : Nat) : (Eff.apply (Eff.tick n) s).group j = s.group j := by
  unfold State.group; rw [apply_tick_groups]
@[simp] theorem link_apply_tick (n : Nat) (s : State) (j : Nat) : (Eff.apply (Eff.tick n) s).link j = s.link j := by
  unfold State.link; rw [apply_tick_links]
@[simp] theorem byte_apply_tick (n : Nat) (s : State) (j : Nat) : (Eff.apply (Eff.tick n) s).byte j = s.byte j := by
  unfold State.byte; rw [apply_tick_mem]
@[simp] theorem core_apply_cur (f : Firing) (s : State) (j : Nat) : (Eff.apply (Eff.cur f) s).core j = s.core j := by
  unfold State.core; rw [apply_cur_cores]
@[simp] theorem cluster_apply_cur (f : Firing) (s : State) (j : Nat) : (Eff.apply (Eff.cur f) s).cluster j = s.cluster j := by
  unfold State.cluster; rw [apply_cur_clusters]
@[simp] theorem die_apply_cur (f : Firing) (s : State) (j : Nat) : (Eff.apply (Eff.cur f) s).die j = s.die j := by
  unfold State.die; rw [apply_cur_dies]
@[simp] theorem line_apply_cur (f : Firing) (s : State) (j : Nat) : (Eff.apply (Eff.cur f) s).line j = s.line j := by
  unfold State.line; rw [apply_cur_lines]
@[simp] theorem frame_apply_cur (f : Firing) (s : State) (j : Nat) : (Eff.apply (Eff.cur f) s).frame j = s.frame j := by
  unfold State.frame; rw [apply_cur_frames]
@[simp] theorem ctx_apply_cur (f : Firing) (s : State) (j : Nat) : (Eff.apply (Eff.cur f) s).ctx j = s.ctx j := by
  unfold State.ctx; rw [apply_cur_ctxs]
@[simp] theorem queue_apply_cur (f : Firing) (s : State) (j : Nat) : (Eff.apply (Eff.cur f) s).queue j = s.queue j := by
  unfold State.queue; rw [apply_cur_queues]
@[simp] theorem group_apply_cur (f : Firing) (s : State) (j : Nat) : (Eff.apply (Eff.cur f) s).group j = s.group j := by
  unfold State.group; rw [apply_cur_groups]
@[simp] theorem link_apply_cur (f : Firing) (s : State) (j : Nat) : (Eff.apply (Eff.cur f) s).link j = s.link j := by
  unfold State.link; rw [apply_cur_links]
@[simp] theorem byte_apply_cur (f : Firing) (s : State) (j : Nat) : (Eff.apply (Eff.cur f) s).byte j = s.byte j := by
  unfold State.byte; rw [apply_cur_mem]
@[simp] theorem core_apply_nextFree (s : State) (j : Nat) : (Eff.apply (Eff.nextFree) s).core j = s.core j := by
  unfold State.core; rw [apply_nextFree_cores]
@[simp] theorem cluster_apply_nextFree (s : State) (j : Nat) : (Eff.apply (Eff.nextFree) s).cluster j = s.cluster j := by
  unfold State.cluster; rw [apply_nextFree_clusters]
@[simp] theorem die_apply_nextFree (s : State) (j : Nat) : (Eff.apply (Eff.nextFree) s).die j = s.die j := by
  unfold State.die; rw [apply_nextFree_dies]
@[simp] theorem line_apply_nextFree (s : State) (j : Nat) : (Eff.apply (Eff.nextFree) s).line j = s.line j := by
  unfold State.line; rw [apply_nextFree_lines]
@[simp] theorem frame_apply_nextFree (s : State) (j : Nat) : (Eff.apply (Eff.nextFree) s).frame j = s.frame j := by
  unfold State.frame; rw [apply_nextFree_frames]
@[simp] theorem ctx_apply_nextFree (s : State) (j : Nat) : (Eff.apply (Eff.nextFree) s).ctx j = s.ctx j := by
  unfold State.ctx; rw [apply_nextFree_ctxs]
@[simp] theorem queue_apply_nextFree (s : State) (j : Nat) : (Eff.apply (Eff.nextFree) s).queue j = s.queue j := by
  unfold State.queue; rw [apply_nextFree_queues]
@[simp] theorem group_apply_nextFree (s : State) (j : Nat) : (Eff.apply (Eff.nextFree) s).group j = s.group j := by
  unfold State.group; rw [apply_nextFree_groups]
@[simp] theorem link_apply_nextFree (s : State) (j : Nat) : (Eff.apply (Eff.nextFree) s).link j = s.link j := by
  unfold State.link; rw [apply_nextFree_links]
@[simp] theorem byte_apply_nextFree (s : State) (j : Nat) : (Eff.apply (Eff.nextFree) s).byte j = s.byte j := by
  unfold State.byte; rw [apply_nextFree_mem]
@[simp] theorem core_apply_nextId (s : State) (j : Nat) : (Eff.apply (Eff.nextId) s).core j = s.core j := by
  unfold State.core; rw [apply_nextId_cores]
@[simp] theorem cluster_apply_nextId (s : State) (j : Nat) : (Eff.apply (Eff.nextId) s).cluster j = s.cluster j := by
  unfold State.cluster; rw [apply_nextId_clusters]
@[simp] theorem die_apply_nextId (s : State) (j : Nat) : (Eff.apply (Eff.nextId) s).die j = s.die j := by
  unfold State.die; rw [apply_nextId_dies]
@[simp] theorem line_apply_nextId (s : State) (j : Nat) : (Eff.apply (Eff.nextId) s).line j = s.line j := by
  unfold State.line; rw [apply_nextId_lines]
@[simp] theorem frame_apply_nextId (s : State) (j : Nat) : (Eff.apply (Eff.nextId) s).frame j = s.frame j := by
  unfold State.frame; rw [apply_nextId_frames]
@[simp] theorem ctx_apply_nextId (s : State) (j : Nat) : (Eff.apply (Eff.nextId) s).ctx j = s.ctx j := by
  unfold State.ctx; rw [apply_nextId_ctxs]
@[simp] theorem queue_apply_nextId (s : State) (j : Nat) : (Eff.apply (Eff.nextId) s).queue j = s.queue j := by
  unfold State.queue; rw [apply_nextId_queues]
@[simp] theorem group_apply_nextId (s : State) (j : Nat) : (Eff.apply (Eff.nextId) s).group j = s.group j := by
  unfold State.group; rw [apply_nextId_groups]
@[simp] theorem link_apply_nextId (s : State) (j : Nat) : (Eff.apply (Eff.nextId) s).link j = s.link j := by
  unfold State.link; rw [apply_nextId_links]
@[simp] theorem byte_apply_nextId (s : State) (j : Nat) : (Eff.apply (Eff.nextId) s).byte j = s.byte j := by
  unfold State.byte; rw [apply_nextId_mem]
@[simp] theorem core_apply_nextOrder (s : State) (j : Nat) : (Eff.apply (Eff.nextOrder) s).core j = s.core j := by
  unfold State.core; rw [apply_nextOrder_cores]
@[simp] theorem cluster_apply_nextOrder (s : State) (j : Nat) : (Eff.apply (Eff.nextOrder) s).cluster j = s.cluster j := by
  unfold State.cluster; rw [apply_nextOrder_clusters]
@[simp] theorem die_apply_nextOrder (s : State) (j : Nat) : (Eff.apply (Eff.nextOrder) s).die j = s.die j := by
  unfold State.die; rw [apply_nextOrder_dies]
@[simp] theorem line_apply_nextOrder (s : State) (j : Nat) : (Eff.apply (Eff.nextOrder) s).line j = s.line j := by
  unfold State.line; rw [apply_nextOrder_lines]
@[simp] theorem frame_apply_nextOrder (s : State) (j : Nat) : (Eff.apply (Eff.nextOrder) s).frame j = s.frame j := by
  unfold State.frame; rw [apply_nextOrder_frames]
@[simp] theorem ctx_apply_nextOrder (s : State) (j : Nat) : (Eff.apply (Eff.nextOrder) s).ctx j = s.ctx j := by
  unfold State.ctx; rw [apply_nextOrder_ctxs]
@[simp] theorem queue_apply_nextOrder (s : State) (j : Nat) : (Eff.apply (Eff.nextOrder) s).queue j = s.queue j := by
  unfold State.queue; rw [apply_nextOrder_queues]
@[simp] theorem group_apply_nextOrder (s : State) (j : Nat) : (Eff.apply (Eff.nextOrder) s).group j = s.group j := by
  unfold State.group; rw [apply_nextOrder_groups]
@[simp] theorem link_apply_nextOrder (s : State) (j : Nat) : (Eff.apply (Eff.nextOrder) s).link j = s.link j := by
  unfold State.link; rw [apply_nextOrder_links]
@[simp] theorem byte_apply_nextOrder (s : State) (j : Nat) : (Eff.apply (Eff.nextOrder) s).byte j = s.byte j := by
  unfold State.byte; rw [apply_nextOrder_mem]
@[simp] theorem core_apply_mem (a : Nat) (b : Byte) (s : State) (j : Nat) : (Eff.apply (Eff.mem a b) s).core j = s.core j := by
  unfold State.core; rw [apply_mem_cores]
@[simp] theorem cluster_apply_mem (a : Nat) (b : Byte) (s : State) (j : Nat) : (Eff.apply (Eff.mem a b) s).cluster j = s.cluster j := by
  unfold State.cluster; rw [apply_mem_clusters]
@[simp] theorem die_apply_mem (a : Nat) (b : Byte) (s : State) (j : Nat) : (Eff.apply (Eff.mem a b) s).die j = s.die j := by
  unfold State.die; rw [apply_mem_dies]
@[simp] theorem line_apply_mem (a : Nat) (b : Byte) (s : State) (j : Nat) : (Eff.apply (Eff.mem a b) s).line j = s.line j := by
  unfold State.line; rw [apply_mem_lines]
@[simp] theorem frame_apply_mem (a : Nat) (b : Byte) (s : State) (j : Nat) : (Eff.apply (Eff.mem a b) s).frame j = s.frame j := by
  unfold State.frame; rw [apply_mem_frames]
@[simp] theorem ctx_apply_mem (a : Nat) (b : Byte) (s : State) (j : Nat) : (Eff.apply (Eff.mem a b) s).ctx j = s.ctx j := by
  unfold State.ctx; rw [apply_mem_ctxs]
@[simp] theorem queue_apply_mem (a : Nat) (b : Byte) (s : State) (j : Nat) : (Eff.apply (Eff.mem a b) s).queue j = s.queue j := by
  unfold State.queue; rw [apply_mem_queues]
@[simp] theorem group_apply_mem (a : Nat) (b : Byte) (s : State) (j : Nat) : (Eff.apply (Eff.mem a b) s).group j = s.group j := by
  unfold State.group; rw [apply_mem_groups]
@[simp] theorem link_apply_mem (a : Nat) (b : Byte) (s : State) (j : Nat) : (Eff.apply (Eff.mem a b) s).link j = s.link j := by
  unfold State.link; rw [apply_mem_links]
@[simp] theorem byte_apply_mem_same (a : Nat) (b : Byte) (s : State) (h : a < 2 ^ 52) : (Eff.apply (Eff.mem a b) s).byte a = b := by
  unfold State.byte; rw [apply_mem_mem _ _ _ h]; exact tabGet_tabSet_same _ _ _ _
theorem byte_apply_mem_other (a : Nat) (b : Byte) (s : State) (j : Nat) (h : j ≠ a) : (Eff.apply (Eff.mem a b) s).byte j = s.byte j := by
  unfold State.byte Eff.apply; dsimp only; split
  · exact tabGet_tabSet_other _ _ h _ _
  · rfl
@[simp] theorem core_apply_bad (l : List Nat) (s : State) (j : Nat) : (Eff.apply (Eff.bad l) s).core j = s.core j := by
  unfold State.core; rw [apply_bad_cores]
@[simp] theorem cluster_apply_bad (l : List Nat) (s : State) (j : Nat) : (Eff.apply (Eff.bad l) s).cluster j = s.cluster j := by
  unfold State.cluster; rw [apply_bad_clusters]
@[simp] theorem die_apply_bad (l : List Nat) (s : State) (j : Nat) : (Eff.apply (Eff.bad l) s).die j = s.die j := by
  unfold State.die; rw [apply_bad_dies]
@[simp] theorem line_apply_bad (l : List Nat) (s : State) (j : Nat) : (Eff.apply (Eff.bad l) s).line j = s.line j := by
  unfold State.line; rw [apply_bad_lines]
@[simp] theorem frame_apply_bad (l : List Nat) (s : State) (j : Nat) : (Eff.apply (Eff.bad l) s).frame j = s.frame j := by
  unfold State.frame; rw [apply_bad_frames]
@[simp] theorem ctx_apply_bad (l : List Nat) (s : State) (j : Nat) : (Eff.apply (Eff.bad l) s).ctx j = s.ctx j := by
  unfold State.ctx; rw [apply_bad_ctxs]
@[simp] theorem queue_apply_bad (l : List Nat) (s : State) (j : Nat) : (Eff.apply (Eff.bad l) s).queue j = s.queue j := by
  unfold State.queue; rw [apply_bad_queues]
@[simp] theorem group_apply_bad (l : List Nat) (s : State) (j : Nat) : (Eff.apply (Eff.bad l) s).group j = s.group j := by
  unfold State.group; rw [apply_bad_groups]
@[simp] theorem link_apply_bad (l : List Nat) (s : State) (j : Nat) : (Eff.apply (Eff.bad l) s).link j = s.link j := by
  unfold State.link; rw [apply_bad_links]
@[simp] theorem byte_apply_bad (l : List Nat) (s : State) (j : Nat) : (Eff.apply (Eff.bad l) s).byte j = s.byte j := by
  unfold State.byte; rw [apply_bad_mem]
@[simp] theorem core_apply_core_same (k : Nat) (v : Core) (s : State) (h : k < 128) : (Eff.apply (Eff.core k v) s).core k = v := by
  unfold State.core; rw [apply_core_cores _ _ _ h]; exact tabGet_tabSet_same _ _ _ _
theorem core_apply_core_other (k : Nat) (v : Core) (s : State) (j : Nat) (h : j ≠ k) : (Eff.apply (Eff.core k v) s).core j = s.core j := by
  unfold State.core Eff.apply; dsimp only; split
  · exact tabGet_tabSet_other _ _ h _ _
  · rfl
@[simp] theorem cluster_apply_core (k : Nat) (v : Core) (s : State) (j : Nat) : (Eff.apply (Eff.core k v) s).cluster j = s.cluster j := by
  unfold State.cluster; rw [apply_core_clusters]
@[simp] theorem die_apply_core (k : Nat) (v : Core) (s : State) (j : Nat) : (Eff.apply (Eff.core k v) s).die j = s.die j := by
  unfold State.die; rw [apply_core_dies]
@[simp] theorem line_apply_core (k : Nat) (v : Core) (s : State) (j : Nat) : (Eff.apply (Eff.core k v) s).line j = s.line j := by
  unfold State.line; rw [apply_core_lines]
@[simp] theorem frame_apply_core (k : Nat) (v : Core) (s : State) (j : Nat) : (Eff.apply (Eff.core k v) s).frame j = s.frame j := by
  unfold State.frame; rw [apply_core_frames]
@[simp] theorem ctx_apply_core (k : Nat) (v : Core) (s : State) (j : Nat) : (Eff.apply (Eff.core k v) s).ctx j = s.ctx j := by
  unfold State.ctx; rw [apply_core_ctxs]
@[simp] theorem queue_apply_core (k : Nat) (v : Core) (s : State) (j : Nat) : (Eff.apply (Eff.core k v) s).queue j = s.queue j := by
  unfold State.queue; rw [apply_core_queues]
@[simp] theorem group_apply_core (k : Nat) (v : Core) (s : State) (j : Nat) : (Eff.apply (Eff.core k v) s).group j = s.group j := by
  unfold State.group; rw [apply_core_groups]
@[simp] theorem link_apply_core (k : Nat) (v : Core) (s : State) (j : Nat) : (Eff.apply (Eff.core k v) s).link j = s.link j := by
  unfold State.link; rw [apply_core_links]
@[simp] theorem byte_apply_core (k : Nat) (v : Core) (s : State) (j : Nat) : (Eff.apply (Eff.core k v) s).byte j = s.byte j := by
  unfold State.byte; rw [apply_core_mem]
@[simp] theorem core_apply_cluster (k : Nat) (v : Cluster) (s : State) (j : Nat) : (Eff.apply (Eff.cluster k v) s).core j = s.core j := by
  unfold State.core; rw [apply_cluster_cores]
@[simp] theorem cluster_apply_cluster_same (k : Nat) (v : Cluster) (s : State) (h : k < 32) : (Eff.apply (Eff.cluster k v) s).cluster k = v := by
  unfold State.cluster; rw [apply_cluster_clusters _ _ _ h]; exact tabGet_tabSet_same _ _ _ _
theorem cluster_apply_cluster_other (k : Nat) (v : Cluster) (s : State) (j : Nat) (h : j ≠ k) : (Eff.apply (Eff.cluster k v) s).cluster j = s.cluster j := by
  unfold State.cluster Eff.apply; dsimp only; split
  · exact tabGet_tabSet_other _ _ h _ _
  · rfl
@[simp] theorem die_apply_cluster (k : Nat) (v : Cluster) (s : State) (j : Nat) : (Eff.apply (Eff.cluster k v) s).die j = s.die j := by
  unfold State.die; rw [apply_cluster_dies]
@[simp] theorem line_apply_cluster (k : Nat) (v : Cluster) (s : State) (j : Nat) : (Eff.apply (Eff.cluster k v) s).line j = s.line j := by
  unfold State.line; rw [apply_cluster_lines]
@[simp] theorem frame_apply_cluster (k : Nat) (v : Cluster) (s : State) (j : Nat) : (Eff.apply (Eff.cluster k v) s).frame j = s.frame j := by
  unfold State.frame; rw [apply_cluster_frames]
@[simp] theorem ctx_apply_cluster (k : Nat) (v : Cluster) (s : State) (j : Nat) : (Eff.apply (Eff.cluster k v) s).ctx j = s.ctx j := by
  unfold State.ctx; rw [apply_cluster_ctxs]
@[simp] theorem queue_apply_cluster (k : Nat) (v : Cluster) (s : State) (j : Nat) : (Eff.apply (Eff.cluster k v) s).queue j = s.queue j := by
  unfold State.queue; rw [apply_cluster_queues]
@[simp] theorem group_apply_cluster (k : Nat) (v : Cluster) (s : State) (j : Nat) : (Eff.apply (Eff.cluster k v) s).group j = s.group j := by
  unfold State.group; rw [apply_cluster_groups]
@[simp] theorem link_apply_cluster (k : Nat) (v : Cluster) (s : State) (j : Nat) : (Eff.apply (Eff.cluster k v) s).link j = s.link j := by
  unfold State.link; rw [apply_cluster_links]
@[simp] theorem byte_apply_cluster (k : Nat) (v : Cluster) (s : State) (j : Nat) : (Eff.apply (Eff.cluster k v) s).byte j = s.byte j := by
  unfold State.byte; rw [apply_cluster_mem]
@[simp] theorem core_apply_die (k : Nat) (v : Die) (s : State) (j : Nat) : (Eff.apply (Eff.die k v) s).core j = s.core j := by
  unfold State.core; rw [apply_die_cores]
@[simp] theorem cluster_apply_die (k : Nat) (v : Die) (s : State) (j : Nat) : (Eff.apply (Eff.die k v) s).cluster j = s.cluster j := by
  unfold State.cluster; rw [apply_die_clusters]
@[simp] theorem die_apply_die_same (k : Nat) (v : Die) (s : State) (h : k < 4) : (Eff.apply (Eff.die k v) s).die k = v := by
  unfold State.die; rw [apply_die_dies _ _ _ h]; exact tabGet_tabSet_same _ _ _ _
theorem die_apply_die_other (k : Nat) (v : Die) (s : State) (j : Nat) (h : j ≠ k) : (Eff.apply (Eff.die k v) s).die j = s.die j := by
  unfold State.die Eff.apply; dsimp only; split
  · exact tabGet_tabSet_other _ _ h _ _
  · rfl
@[simp] theorem line_apply_die (k : Nat) (v : Die) (s : State) (j : Nat) : (Eff.apply (Eff.die k v) s).line j = s.line j := by
  unfold State.line; rw [apply_die_lines]
@[simp] theorem frame_apply_die (k : Nat) (v : Die) (s : State) (j : Nat) : (Eff.apply (Eff.die k v) s).frame j = s.frame j := by
  unfold State.frame; rw [apply_die_frames]
@[simp] theorem ctx_apply_die (k : Nat) (v : Die) (s : State) (j : Nat) : (Eff.apply (Eff.die k v) s).ctx j = s.ctx j := by
  unfold State.ctx; rw [apply_die_ctxs]
@[simp] theorem queue_apply_die (k : Nat) (v : Die) (s : State) (j : Nat) : (Eff.apply (Eff.die k v) s).queue j = s.queue j := by
  unfold State.queue; rw [apply_die_queues]
@[simp] theorem group_apply_die (k : Nat) (v : Die) (s : State) (j : Nat) : (Eff.apply (Eff.die k v) s).group j = s.group j := by
  unfold State.group; rw [apply_die_groups]
@[simp] theorem link_apply_die (k : Nat) (v : Die) (s : State) (j : Nat) : (Eff.apply (Eff.die k v) s).link j = s.link j := by
  unfold State.link; rw [apply_die_links]
@[simp] theorem byte_apply_die (k : Nat) (v : Die) (s : State) (j : Nat) : (Eff.apply (Eff.die k v) s).byte j = s.byte j := by
  unfold State.byte; rw [apply_die_mem]
@[simp] theorem core_apply_line (k : Nat) (v : Line) (s : State) (j : Nat) : (Eff.apply (Eff.line k v) s).core j = s.core j := by
  unfold State.core; rw [apply_line_cores]
@[simp] theorem cluster_apply_line (k : Nat) (v : Line) (s : State) (j : Nat) : (Eff.apply (Eff.line k v) s).cluster j = s.cluster j := by
  unfold State.cluster; rw [apply_line_clusters]
@[simp] theorem die_apply_line (k : Nat) (v : Line) (s : State) (j : Nat) : (Eff.apply (Eff.line k v) s).die j = s.die j := by
  unfold State.die; rw [apply_line_dies]
@[simp] theorem line_apply_line_same (k : Nat) (v : Line) (s : State) (h : k < 2 ^ 45) : (Eff.apply (Eff.line k v) s).line k = v := by
  unfold State.line; rw [apply_line_lines _ _ _ h]; exact tabGet_tabSet_same _ _ _ _
theorem line_apply_line_other (k : Nat) (v : Line) (s : State) (j : Nat) (h : j ≠ k) : (Eff.apply (Eff.line k v) s).line j = s.line j := by
  unfold State.line Eff.apply; dsimp only; split
  · exact tabGet_tabSet_other _ _ h _ _
  · rfl
@[simp] theorem frame_apply_line (k : Nat) (v : Line) (s : State) (j : Nat) : (Eff.apply (Eff.line k v) s).frame j = s.frame j := by
  unfold State.frame; rw [apply_line_frames]
@[simp] theorem ctx_apply_line (k : Nat) (v : Line) (s : State) (j : Nat) : (Eff.apply (Eff.line k v) s).ctx j = s.ctx j := by
  unfold State.ctx; rw [apply_line_ctxs]
@[simp] theorem queue_apply_line (k : Nat) (v : Line) (s : State) (j : Nat) : (Eff.apply (Eff.line k v) s).queue j = s.queue j := by
  unfold State.queue; rw [apply_line_queues]
@[simp] theorem group_apply_line (k : Nat) (v : Line) (s : State) (j : Nat) : (Eff.apply (Eff.line k v) s).group j = s.group j := by
  unfold State.group; rw [apply_line_groups]
@[simp] theorem link_apply_line (k : Nat) (v : Line) (s : State) (j : Nat) : (Eff.apply (Eff.line k v) s).link j = s.link j := by
  unfold State.link; rw [apply_line_links]
@[simp] theorem byte_apply_line (k : Nat) (v : Line) (s : State) (j : Nat) : (Eff.apply (Eff.line k v) s).byte j = s.byte j := by
  unfold State.byte; rw [apply_line_mem]
@[simp] theorem core_apply_frame (k : Nat) (v : FrameSt) (s : State) (j : Nat) : (Eff.apply (Eff.frame k v) s).core j = s.core j := by
  unfold State.core; rw [apply_frame_cores]
@[simp] theorem cluster_apply_frame (k : Nat) (v : FrameSt) (s : State) (j : Nat) : (Eff.apply (Eff.frame k v) s).cluster j = s.cluster j := by
  unfold State.cluster; rw [apply_frame_clusters]
@[simp] theorem die_apply_frame (k : Nat) (v : FrameSt) (s : State) (j : Nat) : (Eff.apply (Eff.frame k v) s).die j = s.die j := by
  unfold State.die; rw [apply_frame_dies]
@[simp] theorem line_apply_frame (k : Nat) (v : FrameSt) (s : State) (j : Nat) : (Eff.apply (Eff.frame k v) s).line j = s.line j := by
  unfold State.line; rw [apply_frame_lines]
@[simp] theorem frame_apply_frame_same (k : Nat) (v : FrameSt) (s : State) (h : k < 2 ^ 36) : (Eff.apply (Eff.frame k v) s).frame k = v := by
  unfold State.frame; rw [apply_frame_frames _ _ _ h]; exact tabGet_tabSet_same _ _ _ _
theorem frame_apply_frame_other (k : Nat) (v : FrameSt) (s : State) (j : Nat) (h : j ≠ k) : (Eff.apply (Eff.frame k v) s).frame j = s.frame j := by
  unfold State.frame Eff.apply; dsimp only; split
  · exact tabGet_tabSet_other _ _ h _ _
  · rfl
@[simp] theorem ctx_apply_frame (k : Nat) (v : FrameSt) (s : State) (j : Nat) : (Eff.apply (Eff.frame k v) s).ctx j = s.ctx j := by
  unfold State.ctx; rw [apply_frame_ctxs]
@[simp] theorem queue_apply_frame (k : Nat) (v : FrameSt) (s : State) (j : Nat) : (Eff.apply (Eff.frame k v) s).queue j = s.queue j := by
  unfold State.queue; rw [apply_frame_queues]
@[simp] theorem group_apply_frame (k : Nat) (v : FrameSt) (s : State) (j : Nat) : (Eff.apply (Eff.frame k v) s).group j = s.group j := by
  unfold State.group; rw [apply_frame_groups]
@[simp] theorem link_apply_frame (k : Nat) (v : FrameSt) (s : State) (j : Nat) : (Eff.apply (Eff.frame k v) s).link j = s.link j := by
  unfold State.link; rw [apply_frame_links]
@[simp] theorem byte_apply_frame (k : Nat) (v : FrameSt) (s : State) (j : Nat) : (Eff.apply (Eff.frame k v) s).byte j = s.byte j := by
  unfold State.byte; rw [apply_frame_mem]
@[simp] theorem core_apply_ctx (k : Nat) (v : Ctx) (s : State) (j : Nat) : (Eff.apply (Eff.ctx k v) s).core j = s.core j := by
  unfold State.core; rw [apply_ctx_cores]
@[simp] theorem cluster_apply_ctx (k : Nat) (v : Ctx) (s : State) (j : Nat) : (Eff.apply (Eff.ctx k v) s).cluster j = s.cluster j := by
  unfold State.cluster; rw [apply_ctx_clusters]
@[simp] theorem die_apply_ctx (k : Nat) (v : Ctx) (s : State) (j : Nat) : (Eff.apply (Eff.ctx k v) s).die j = s.die j := by
  unfold State.die; rw [apply_ctx_dies]
@[simp] theorem line_apply_ctx (k : Nat) (v : Ctx) (s : State) (j : Nat) : (Eff.apply (Eff.ctx k v) s).line j = s.line j := by
  unfold State.line; rw [apply_ctx_lines]
@[simp] theorem frame_apply_ctx (k : Nat) (v : Ctx) (s : State) (j : Nat) : (Eff.apply (Eff.ctx k v) s).frame j = s.frame j := by
  unfold State.frame; rw [apply_ctx_frames]
@[simp] theorem ctx_apply_ctx_same (k : Nat) (v : Ctx) (s : State) (h : k < 4096) : (Eff.apply (Eff.ctx k v) s).ctx k = v := by
  unfold State.ctx; rw [apply_ctx_ctxs _ _ _ h]; exact tabGet_tabSet_same _ _ _ _
theorem ctx_apply_ctx_other (k : Nat) (v : Ctx) (s : State) (j : Nat) (h : j ≠ k) : (Eff.apply (Eff.ctx k v) s).ctx j = s.ctx j := by
  unfold State.ctx Eff.apply; dsimp only; split
  · exact tabGet_tabSet_other _ _ h _ _
  · rfl
@[simp] theorem queue_apply_ctx (k : Nat) (v : Ctx) (s : State) (j : Nat) : (Eff.apply (Eff.ctx k v) s).queue j = s.queue j := by
  unfold State.queue; rw [apply_ctx_queues]
@[simp] theorem group_apply_ctx (k : Nat) (v : Ctx) (s : State) (j : Nat) : (Eff.apply (Eff.ctx k v) s).group j = s.group j := by
  unfold State.group; rw [apply_ctx_groups]
@[simp] theorem link_apply_ctx (k : Nat) (v : Ctx) (s : State) (j : Nat) : (Eff.apply (Eff.ctx k v) s).link j = s.link j := by
  unfold State.link; rw [apply_ctx_links]
@[simp] theorem byte_apply_ctx (k : Nat) (v : Ctx) (s : State) (j : Nat) : (Eff.apply (Eff.ctx k v) s).byte j = s.byte j := by
  unfold State.byte; rw [apply_ctx_mem]
@[simp] theorem core_apply_queue (k : Nat) (v : Queue) (s : State) (j : Nat) : (Eff.apply (Eff.queue k v) s).core j = s.core j := by
  unfold State.core; rw [apply_queue_cores]
@[simp] theorem cluster_apply_queue (k : Nat) (v : Queue) (s : State) (j : Nat) : (Eff.apply (Eff.queue k v) s).cluster j = s.cluster j := by
  unfold State.cluster; rw [apply_queue_clusters]
@[simp] theorem die_apply_queue (k : Nat) (v : Queue) (s : State) (j : Nat) : (Eff.apply (Eff.queue k v) s).die j = s.die j := by
  unfold State.die; rw [apply_queue_dies]
@[simp] theorem line_apply_queue (k : Nat) (v : Queue) (s : State) (j : Nat) : (Eff.apply (Eff.queue k v) s).line j = s.line j := by
  unfold State.line; rw [apply_queue_lines]
@[simp] theorem frame_apply_queue (k : Nat) (v : Queue) (s : State) (j : Nat) : (Eff.apply (Eff.queue k v) s).frame j = s.frame j := by
  unfold State.frame; rw [apply_queue_frames]
@[simp] theorem ctx_apply_queue (k : Nat) (v : Queue) (s : State) (j : Nat) : (Eff.apply (Eff.queue k v) s).ctx j = s.ctx j := by
  unfold State.ctx; rw [apply_queue_ctxs]
@[simp] theorem queue_apply_queue_same (k : Nat) (v : Queue) (s : State) (h : k < 16384) : (Eff.apply (Eff.queue k v) s).queue k = v := by
  unfold State.queue; rw [apply_queue_queues _ _ _ h]; exact tabGet_tabSet_same _ _ _ _
theorem queue_apply_queue_other (k : Nat) (v : Queue) (s : State) (j : Nat) (h : j ≠ k) : (Eff.apply (Eff.queue k v) s).queue j = s.queue j := by
  unfold State.queue Eff.apply; dsimp only; split
  · exact tabGet_tabSet_other _ _ h _ _
  · rfl
@[simp] theorem group_apply_queue (k : Nat) (v : Queue) (s : State) (j : Nat) : (Eff.apply (Eff.queue k v) s).group j = s.group j := by
  unfold State.group; rw [apply_queue_groups]
@[simp] theorem link_apply_queue (k : Nat) (v : Queue) (s : State) (j : Nat) : (Eff.apply (Eff.queue k v) s).link j = s.link j := by
  unfold State.link; rw [apply_queue_links]
@[simp] theorem byte_apply_queue (k : Nat) (v : Queue) (s : State) (j : Nat) : (Eff.apply (Eff.queue k v) s).byte j = s.byte j := by
  unfold State.byte; rw [apply_queue_mem]
@[simp] theorem core_apply_group (k : Nat) (v : Group) (s : State) (j : Nat) : (Eff.apply (Eff.group k v) s).core j = s.core j := by
  unfold State.core; rw [apply_group_cores]
@[simp] theorem cluster_apply_group (k : Nat) (v : Group) (s : State) (j : Nat) : (Eff.apply (Eff.group k v) s).cluster j = s.cluster j := by
  unfold State.cluster; rw [apply_group_clusters]
@[simp] theorem die_apply_group (k : Nat) (v : Group) (s : State) (j : Nat) : (Eff.apply (Eff.group k v) s).die j = s.die j := by
  unfold State.die; rw [apply_group_dies]
@[simp] theorem line_apply_group (k : Nat) (v : Group) (s : State) (j : Nat) : (Eff.apply (Eff.group k v) s).line j = s.line j := by
  unfold State.line; rw [apply_group_lines]
@[simp] theorem frame_apply_group (k : Nat) (v : Group) (s : State) (j : Nat) : (Eff.apply (Eff.group k v) s).frame j = s.frame j := by
  unfold State.frame; rw [apply_group_frames]
@[simp] theorem ctx_apply_group (k : Nat) (v : Group) (s : State) (j : Nat) : (Eff.apply (Eff.group k v) s).ctx j = s.ctx j := by
  unfold State.ctx; rw [apply_group_ctxs]
@[simp] theorem queue_apply_group (k : Nat) (v : Group) (s : State) (j : Nat) : (Eff.apply (Eff.group k v) s).queue j = s.queue j := by
  unfold State.queue; rw [apply_group_queues]
@[simp] theorem group_apply_group_same (k : Nat) (v : Group) (s : State) (h : k < 32768) : (Eff.apply (Eff.group k v) s).group k = v := by
  unfold State.group; rw [apply_group_groups _ _ _ h]; exact tabGet_tabSet_same _ _ _ _
theorem group_apply_group_other (k : Nat) (v : Group) (s : State) (j : Nat) (h : j ≠ k) : (Eff.apply (Eff.group k v) s).group j = s.group j := by
  unfold State.group Eff.apply; dsimp only; split
  · exact tabGet_tabSet_other _ _ h _ _
  · rfl
@[simp] theorem link_apply_group (k : Nat) (v : Group) (s : State) (j : Nat) : (Eff.apply (Eff.group k v) s).link j = s.link j := by
  unfold State.link; rw [apply_group_links]
@[simp] theorem byte_apply_group (k : Nat) (v : Group) (s : State) (j : Nat) : (Eff.apply (Eff.group k v) s).byte j = s.byte j := by
  unfold State.byte; rw [apply_group_mem]
@[simp] theorem core_apply_works (l : List Work) (s : State) (j : Nat) : (Eff.apply (Eff.works l) s).core j = s.core j := by
  unfold State.core; rw [apply_works_cores]
@[simp] theorem cluster_apply_works (l : List Work) (s : State) (j : Nat) : (Eff.apply (Eff.works l) s).cluster j = s.cluster j := by
  unfold State.cluster; rw [apply_works_clusters]
@[simp] theorem die_apply_works (l : List Work) (s : State) (j : Nat) : (Eff.apply (Eff.works l) s).die j = s.die j := by
  unfold State.die; rw [apply_works_dies]
@[simp] theorem line_apply_works (l : List Work) (s : State) (j : Nat) : (Eff.apply (Eff.works l) s).line j = s.line j := by
  unfold State.line; rw [apply_works_lines]
@[simp] theorem frame_apply_works (l : List Work) (s : State) (j : Nat) : (Eff.apply (Eff.works l) s).frame j = s.frame j := by
  unfold State.frame; rw [apply_works_frames]
@[simp] theorem ctx_apply_works (l : List Work) (s : State) (j : Nat) : (Eff.apply (Eff.works l) s).ctx j = s.ctx j := by
  unfold State.ctx; rw [apply_works_ctxs]
@[simp] theorem queue_apply_works (l : List Work) (s : State) (j : Nat) : (Eff.apply (Eff.works l) s).queue j = s.queue j := by
  unfold State.queue; rw [apply_works_queues]
@[simp] theorem group_apply_works (l : List Work) (s : State) (j : Nat) : (Eff.apply (Eff.works l) s).group j = s.group j := by
  unfold State.group; rw [apply_works_groups]
@[simp] theorem link_apply_works (l : List Work) (s : State) (j : Nat) : (Eff.apply (Eff.works l) s).link j = s.link j := by
  unfold State.link; rw [apply_works_links]
@[simp] theorem byte_apply_works (l : List Work) (s : State) (j : Nat) : (Eff.apply (Eff.works l) s).byte j = s.byte j := by
  unfold State.byte; rw [apply_works_mem]
@[simp] theorem core_apply_reqs (l : List Req) (s : State) (j : Nat) : (Eff.apply (Eff.reqs l) s).core j = s.core j := by
  unfold State.core; rw [apply_reqs_cores]
@[simp] theorem cluster_apply_reqs (l : List Req) (s : State) (j : Nat) : (Eff.apply (Eff.reqs l) s).cluster j = s.cluster j := by
  unfold State.cluster; rw [apply_reqs_clusters]
@[simp] theorem die_apply_reqs (l : List Req) (s : State) (j : Nat) : (Eff.apply (Eff.reqs l) s).die j = s.die j := by
  unfold State.die; rw [apply_reqs_dies]
@[simp] theorem line_apply_reqs (l : List Req) (s : State) (j : Nat) : (Eff.apply (Eff.reqs l) s).line j = s.line j := by
  unfold State.line; rw [apply_reqs_lines]
@[simp] theorem frame_apply_reqs (l : List Req) (s : State) (j : Nat) : (Eff.apply (Eff.reqs l) s).frame j = s.frame j := by
  unfold State.frame; rw [apply_reqs_frames]
@[simp] theorem ctx_apply_reqs (l : List Req) (s : State) (j : Nat) : (Eff.apply (Eff.reqs l) s).ctx j = s.ctx j := by
  unfold State.ctx; rw [apply_reqs_ctxs]
@[simp] theorem queue_apply_reqs (l : List Req) (s : State) (j : Nat) : (Eff.apply (Eff.reqs l) s).queue j = s.queue j := by
  unfold State.queue; rw [apply_reqs_queues]
@[simp] theorem group_apply_reqs (l : List Req) (s : State) (j : Nat) : (Eff.apply (Eff.reqs l) s).group j = s.group j := by
  unfold State.group; rw [apply_reqs_groups]
@[simp] theorem link_apply_reqs (l : List Req) (s : State) (j : Nat) : (Eff.apply (Eff.reqs l) s).link j = s.link j := by
  unfold State.link; rw [apply_reqs_links]
@[simp] theorem byte_apply_reqs (l : List Req) (s : State) (j : Nat) : (Eff.apply (Eff.reqs l) s).byte j = s.byte j := by
  unfold State.byte; rw [apply_reqs_mem]
@[simp] theorem core_apply_saves (l : List SaveImg) (s : State) (j : Nat) : (Eff.apply (Eff.saves l) s).core j = s.core j := by
  unfold State.core; rw [apply_saves_cores]
@[simp] theorem cluster_apply_saves (l : List SaveImg) (s : State) (j : Nat) : (Eff.apply (Eff.saves l) s).cluster j = s.cluster j := by
  unfold State.cluster; rw [apply_saves_clusters]
@[simp] theorem die_apply_saves (l : List SaveImg) (s : State) (j : Nat) : (Eff.apply (Eff.saves l) s).die j = s.die j := by
  unfold State.die; rw [apply_saves_dies]
@[simp] theorem line_apply_saves (l : List SaveImg) (s : State) (j : Nat) : (Eff.apply (Eff.saves l) s).line j = s.line j := by
  unfold State.line; rw [apply_saves_lines]
@[simp] theorem frame_apply_saves (l : List SaveImg) (s : State) (j : Nat) : (Eff.apply (Eff.saves l) s).frame j = s.frame j := by
  unfold State.frame; rw [apply_saves_frames]
@[simp] theorem ctx_apply_saves (l : List SaveImg) (s : State) (j : Nat) : (Eff.apply (Eff.saves l) s).ctx j = s.ctx j := by
  unfold State.ctx; rw [apply_saves_ctxs]
@[simp] theorem queue_apply_saves (l : List SaveImg) (s : State) (j : Nat) : (Eff.apply (Eff.saves l) s).queue j = s.queue j := by
  unfold State.queue; rw [apply_saves_queues]
@[simp] theorem group_apply_saves (l : List SaveImg) (s : State) (j : Nat) : (Eff.apply (Eff.saves l) s).group j = s.group j := by
  unfold State.group; rw [apply_saves_groups]
@[simp] theorem link_apply_saves (l : List SaveImg) (s : State) (j : Nat) : (Eff.apply (Eff.saves l) s).link j = s.link j := by
  unfold State.link; rw [apply_saves_links]
@[simp] theorem byte_apply_saves (l : List SaveImg) (s : State) (j : Nat) : (Eff.apply (Eff.saves l) s).byte j = s.byte j := by
  unfold State.byte; rw [apply_saves_mem]
@[simp] theorem core_apply_link (k : Nat) (v : Link) (s : State) (j : Nat) : (Eff.apply (Eff.link k v) s).core j = s.core j := by
  unfold State.core; rw [apply_link_cores]
@[simp] theorem cluster_apply_link (k : Nat) (v : Link) (s : State) (j : Nat) : (Eff.apply (Eff.link k v) s).cluster j = s.cluster j := by
  unfold State.cluster; rw [apply_link_clusters]
@[simp] theorem die_apply_link (k : Nat) (v : Link) (s : State) (j : Nat) : (Eff.apply (Eff.link k v) s).die j = s.die j := by
  unfold State.die; rw [apply_link_dies]
@[simp] theorem line_apply_link (k : Nat) (v : Link) (s : State) (j : Nat) : (Eff.apply (Eff.link k v) s).line j = s.line j := by
  unfold State.line; rw [apply_link_lines]
@[simp] theorem frame_apply_link (k : Nat) (v : Link) (s : State) (j : Nat) : (Eff.apply (Eff.link k v) s).frame j = s.frame j := by
  unfold State.frame; rw [apply_link_frames]
@[simp] theorem ctx_apply_link (k : Nat) (v : Link) (s : State) (j : Nat) : (Eff.apply (Eff.link k v) s).ctx j = s.ctx j := by
  unfold State.ctx; rw [apply_link_ctxs]
@[simp] theorem queue_apply_link (k : Nat) (v : Link) (s : State) (j : Nat) : (Eff.apply (Eff.link k v) s).queue j = s.queue j := by
  unfold State.queue; rw [apply_link_queues]
@[simp] theorem group_apply_link (k : Nat) (v : Link) (s : State) (j : Nat) : (Eff.apply (Eff.link k v) s).group j = s.group j := by
  unfold State.group; rw [apply_link_groups]
@[simp] theorem link_apply_link_same (k : Nat) (v : Link) (s : State) (h : k < 18) : (Eff.apply (Eff.link k v) s).link k = v := by
  unfold State.link; rw [apply_link_links _ _ _ h]; exact tabGet_tabSet_same _ _ _ _
theorem link_apply_link_other (k : Nat) (v : Link) (s : State) (j : Nat) (h : j ≠ k) : (Eff.apply (Eff.link k v) s).link j = s.link j := by
  unfold State.link Eff.apply; dsimp only; split
  · exact tabGet_tabSet_other _ _ h _ _
  · rfl
@[simp] theorem byte_apply_link (k : Nat) (v : Link) (s : State) (j : Nat) : (Eff.apply (Eff.link k v) s).byte j = s.byte j := by
  unfold State.byte; rw [apply_link_mem]
@[simp] theorem core_apply_mgmt (v : Mgmt) (s : State) (j : Nat) : (Eff.apply (Eff.mgmt v) s).core j = s.core j := by
  unfold State.core; rw [apply_mgmt_cores]
@[simp] theorem cluster_apply_mgmt (v : Mgmt) (s : State) (j : Nat) : (Eff.apply (Eff.mgmt v) s).cluster j = s.cluster j := by
  unfold State.cluster; rw [apply_mgmt_clusters]
@[simp] theorem die_apply_mgmt (v : Mgmt) (s : State) (j : Nat) : (Eff.apply (Eff.mgmt v) s).die j = s.die j := by
  unfold State.die; rw [apply_mgmt_dies]
@[simp] theorem line_apply_mgmt (v : Mgmt) (s : State) (j : Nat) : (Eff.apply (Eff.mgmt v) s).line j = s.line j := by
  unfold State.line; rw [apply_mgmt_lines]
@[simp] theorem frame_apply_mgmt (v : Mgmt) (s : State) (j : Nat) : (Eff.apply (Eff.mgmt v) s).frame j = s.frame j := by
  unfold State.frame; rw [apply_mgmt_frames]
@[simp] theorem ctx_apply_mgmt (v : Mgmt) (s : State) (j : Nat) : (Eff.apply (Eff.mgmt v) s).ctx j = s.ctx j := by
  unfold State.ctx; rw [apply_mgmt_ctxs]
@[simp] theorem queue_apply_mgmt (v : Mgmt) (s : State) (j : Nat) : (Eff.apply (Eff.mgmt v) s).queue j = s.queue j := by
  unfold State.queue; rw [apply_mgmt_queues]
@[simp] theorem group_apply_mgmt (v : Mgmt) (s : State) (j : Nat) : (Eff.apply (Eff.mgmt v) s).group j = s.group j := by
  unfold State.group; rw [apply_mgmt_groups]
@[simp] theorem link_apply_mgmt (v : Mgmt) (s : State) (j : Nat) : (Eff.apply (Eff.mgmt v) s).link j = s.link j := by
  unfold State.link; rw [apply_mgmt_links]
@[simp] theorem byte_apply_mgmt (v : Mgmt) (s : State) (j : Nat) : (Eff.apply (Eff.mgmt v) s).byte j = s.byte j := by
  unfold State.byte; rw [apply_mgmt_mem]

/-! Updates of one component as effects. -/
@[simp] theorem start_s (s : State) : (R.start s).s = s := rfl
@[simp] theorem eff_s (r : R s0) (e : Eff) : (r.eff e).s = e.apply r.s := rfl
theorem done_eq (r : R s0) : r.done = .next r.s := rfl
@[simp] theorem updCore_s (r : R s0) (c : Nat) (f : Core → Core) : (updCore r c f).s = (Eff.core c (f (r.s.core c))).apply r.s := rfl
@[simp] theorem updCluster_s (r : R s0) (c : Nat) (f : Cluster → Cluster) : (updCluster r c f).s = (Eff.cluster c (f (r.s.cluster c))).apply r.s := rfl
@[simp] theorem updDie_s (r : R s0) (c : Nat) (f : Die → Die) : (updDie r c f).s = (Eff.die c (f (r.s.die c))).apply r.s := rfl
@[simp] theorem updLine_s (r : R s0) (c : Nat) (f : Line → Line) : (updLine r c f).s = (Eff.line c (f (r.s.line c))).apply r.s := rfl
@[simp] theorem updFrame_s (r : R s0) (c : Nat) (f : FrameSt → FrameSt) : (updFrame r c f).s = (Eff.frame c (f (r.s.frame c))).apply r.s := rfl
@[simp] theorem updCtx_s (r : R s0) (c : Nat) (f : Ctx → Ctx) : (updCtx r c f).s = (Eff.ctx c (f (r.s.ctx c))).apply r.s := rfl
@[simp] theorem updQueue_s (r : R s0) (c : Nat) (f : Queue → Queue) : (updQueue r c f).s = (Eff.queue c (f (r.s.queue c))).apply r.s := rfl
@[simp] theorem updGroup_s (r : R s0) (c : Nat) (f : Group → Group) : (updGroup r c f).s = (Eff.group c (f (r.s.group c))).apply r.s := rfl
@[simp] theorem updLink_s (r : R s0) (c : Nat) (f : Link → Link) : (updLink r c f).s = (Eff.link c (f (r.s.link c))).apply r.s := rfl
@[simp] theorem updMgmt_s (r : R s0) (f : Mgmt → Mgmt) : (updMgmt r f).s = (Eff.mgmt (f r.s.mgmt)).apply r.s := rfl
@[simp] theorem updWorks_s (r : R s0) (f : List Work → List Work) : (updWorks r f).s = (Eff.works (f r.s.works)).apply r.s := rfl
@[simp] theorem updReqs_s (r : R s0) (f : List Req → List Req) : (updReqs r f).s = (Eff.reqs (f r.s.reqs)).apply r.s := rfl
@[simp] theorem each_nil {α : Type} (r : R s0) (f : R s0 → α → R s0) : r.each [] f = r := rfl
@[simp] theorem each_cons {α : Type} (r : R s0) (x : α) (l : List α) (f : R s0 → α → R s0) : r.each (x :: l) f = (f r x).each l f := rfl
@[simp] theorem when_true (r : R s0) (f : R s0 → R s0) : r.when true f = f r := rfl
@[simp] theorem when_false (r : R s0) (f : R s0 → R s0) : r.when false f = r := rfl

end Sys2Proof.Machine
end

