-- ==== Sys2Proof/Laws/Reach.lean ====
section
/-!
SUPPORT. What a chain of effects keeps: the sound tables, the clock that never runs back, the counters that never repeat.
-/

namespace Sys2Proof.Machine

open Sys2Proof

/-- The links that a warm reset keeps are listed in order, within the module's ports. -/
theorem keptLinks_sound (t : Tab Link) (h : (tabWf Link.init t && keysBelow 18 t) = true) :
    (tabWf Link.init (keptLinks t) && keysBelow 18 (keptLinks t)) = true := by
  have above : ∀ (b : Nat) (t : Tab Link), tabAbove b t = true → tabAbove b (keptLinks t) = true := by
    intro b t
    induction t with
    | nil => intro _; rfl
    | cons x t ih =>
      rcases x with ⟨j, v⟩
      simp only [tabAbove, Bool.and_eq_true, decide_eq_true_eq]
      intro h
      have ht := ih h.2
      unfold keptLinks at ht ⊢
      rw [List.filterMap_cons]
      split
      · exact ht
      · next y hy =>
        have hj : y.1 = j := by revert hy; dsimp only; split <;> simp <;> (intro h; simp [← h])
        rcases y with ⟨k, w⟩
        simp only [tabAbove, Bool.and_eq_true, decide_eq_true_eq]
        exact ⟨by simp only at hj; omega, ht⟩
  induction t with
  | nil => rfl
  | cons x t ih =>
    rcases x with ⟨j, v⟩
    simp only [tabWf, keysBelow, List.all_cons, Bool.and_eq_true, decide_eq_true_eq] at h ih
    have ht := ih ⟨h.1.2, h.2.2⟩
    have ha := above j t h.1.1.2
    unfold keptLinks at ht ha ⊢
    rw [List.filterMap_cons]
    split
    · simp only [keysBelow, Bool.and_eq_true]; exact ht
    · next y hy =>
      have hy' : y = (j, v.kept) ∧ (v.st = .active ∨ v.st = .degraded) := by
        revert hy; dsimp only; split <;> simp_all
      obtain ⟨rfl, hst⟩ := hy'
      have hne : v.kept ≠ Link.init := by
        intro h0
        have : v.st = .down := congrArg Link.st h0
        rcases hst with h1 | h1 <;> rw [this] at h1 <;> cases h1
      simp only [tabWf, keysBelow, List.all_cons, Bool.and_eq_true, decide_eq_true_eq]
      exact ⟨⟨⟨hne, ha⟩, ht.1⟩, h.2.1, ht.2⟩

/-- Every effect keeps a sound state sound. -/
theorem apply_sound (e : Eff) (s : State) (h : s.Sound) : (e.apply s).Sound := by
  obtain ⟨h1, h2, h3, h4, h5, h6, h7, h8, h9, h10⟩ := h
  cases e with
  | reset warm m =>
    refine ⟨?_, rfl, rfl, rfl, rfl, rfl, (by decide : (tabWf Ctx.init [(0, Ctx.monitor)] && keysBelow 4096 [(0, Ctx.monitor)]) = true), rfl, rfl, ?_⟩
    · cases warm
      · rfl
      · exact h1
    · cases warm
      · rfl
      · exact keptLinks_sound _ h10
  | mem a b => unfold Eff.apply; dsimp only; split
               · next hk => exact ⟨tab_sound_set 0 hk b s.mem h1, h2, h3, h4, h5, h6, h7, h8, h9, h10⟩
               · exact ⟨h1, h2, h3, h4, h5, h6, h7, h8, h9, h10⟩
  | core k v => unfold Eff.apply; dsimp only; split
                · next hk => exact ⟨h1, tab_sound_set _ hk v _ h2, h3, h4, h5, h6, h7, h8, h9, h10⟩
                · exact ⟨h1, h2, h3, h4, h5, h6, h7, h8, h9, h10⟩
  | cluster k v => unfold Eff.apply; dsimp only; split
                   · next hk => exact ⟨h1, h2, tab_sound_set _ hk v _ h3, h4, h5, h6, h7, h8, h9, h10⟩
                   · exact ⟨h1, h2, h3, h4, h5, h6, h7, h8, h9, h10⟩
  | die k v => unfold Eff.apply; dsimp only; split
               · next hk => exact ⟨h1, h2, h3, tab_sound_set _ hk v _ h4, h5, h6, h7, h8, h9, h10⟩
               · exact ⟨h1, h2, h3, h4, h5, h6, h7, h8, h9, h10⟩
  | line k v => unfold Eff.apply; dsimp only; split
                · next hk => exact ⟨h1, h2, h3, h4, tab_sound_set _ hk v _ h5, h6, h7, h8, h9, h10⟩
                · exact ⟨h1, h2, h3, h4, h5, h6, h7, h8, h9, h10⟩
  | frame k v => unfold Eff.apply; dsimp only; split
                 · next hk => exact ⟨h1, h2, h3, h4, h5, tab_sound_set _ hk v _ h6, h7, h8, h9, h10⟩
                 · exact ⟨h1, h2, h3, h4, h5, h6, h7, h8, h9, h10⟩
  | ctx k v => unfold Eff.apply; dsimp only; split
               · next hk => exact ⟨h1, h2, h3, h4, h5, h6, tab_sound_set _ hk v _ h7, h8, h9, h10⟩
               · exact ⟨h1, h2, h3, h4, h5, h6, h7, h8, h9, h10⟩
  | queue k v => unfold Eff.apply; dsimp only; split
                 · next hk => exact ⟨h1, h2, h3, h4, h5, h6, h7, tab_sound_set _ hk v _ h8, h9, h10⟩
                 · exact ⟨h1, h2, h3, h4, h5, h6, h7, h8, h9, h10⟩
  | group k v => unfold Eff.apply; dsimp only; split
                 · next hk => exact ⟨h1, h2, h3, h4, h5, h6, h7, h8, tab_sound_set _ hk v _ h9, h10⟩
                 · exact ⟨h1, h2, h3, h4, h5, h6, h7, h8, h9, h10⟩
  | link k v => unfold Eff.apply; dsimp only; split
                · next hk => exact ⟨h1, h2, h3, h4, h5, h6, h7, h8, h9, tab_sound_set _ hk v _ h10⟩
                · exact ⟨h1, h2, h3, h4, h5, h6, h7, h8, h9, h10⟩
  | _ => exact ⟨h1, h2, h3, h4, h5, h6, h7, h8, h9, h10⟩

/-- A chain of effects keeps a sound state sound. -/
theorem Reach.sound {s0 s : State} (h : Reach s0 s) (h0 : s0.Sound) : s.Sound := by
  induction h with
  | refl => exact h0
  | step e _ ih => exact apply_sound e _ ih

/-- No effect turns the clock back or gives a number a second time. -/
theorem apply_counters (e : Eff) (s : State) :
    s.clk ≤ (e.apply s).clk ∧ s.nextId ≤ (e.apply s).nextId ∧ s.order ≤ (e.apply s).order ∧ s.freeCtr ≤ (e.apply s).freeCtr := by
  cases e <;> unfold Eff.apply <;> dsimp only <;> first | (split <;> simp) | simp

theorem Reach.counters {s0 s : State} (h : Reach s0 s) :
    s0.clk ≤ s.clk ∧ s0.nextId ≤ s.nextId ∧ s0.order ≤ s.order ∧ s0.freeCtr ≤ s.freeCtr := by
  induction h with
  | refl => simp
  | step e _ ih =>
    have := apply_counters e (by assumption)
    omega

/-- The agenda is nobody's but the step's. -/
theorem apply_agenda (e : Eff) (s : State) : (e.apply s).agenda = s.agenda := by
  cases e <;> unfold Eff.apply <;> dsimp only <;> first | rfl | (split <;> rfl)

theorem Reach.agenda {s0 s : State} (h : Reach s0 s) : s.agenda = s0.agenda := by
  induction h with
  | refl => rfl
  | step e _ ih => rw [apply_agenda]; exact ih

end Sys2Proof.Machine
end

