-- ==== Sys2Proof/Laws/Line.lean ====
section
/-!
SUPPORT. What reads and writes at a home do to memory: a write changes its own bytes and no other; a read changes none.
-/

namespace Sys2Proof.Machine

open Sys2Proof

variable {s0 : State}

/-- A fold of effects that keep memory keeps it. -/
theorem each_mem {α : Type} (f : R s0 → α → R s0) (h : ∀ r x, (f r x).s.mem = r.s.mem) (l : List α) (r : R s0) :
    (r.each l f).s.mem = r.s.mem := by
  induction l generalizing r with
  | nil => rfl
  | cons x l ih => rw [each_cons, ih, h]

@[simp] theorem when_mem (r : R s0) (c : Bool) (f : R s0 → R s0) (h : (f r).s.mem = r.s.mem) : (r.when c f).s.mem = r.s.mem := by
  cases c
  · rfl
  · exact h

/-! ## What leaves memory as it is -/

@[simp] theorem homeFill_mem (r : R s0) (pa : Nat) : (homeFill r pa).s.mem = r.s.mem := by unfold homeFill; split <;> simp
@[simp] theorem homeEvict_mem (r : R s0) (pa : Nat) : (homeEvict r pa).s.mem = r.s.mem := by
  simp [homeEvict, updHome, updSlice]
@[simp] theorem raiseM_mem (r : R s0) (t : Nat) : (raiseM r t).s.mem = r.s.mem := by simp [raiseM]
@[simp] theorem raiseOwner_mem (r : R s0) (o : Owner) (t : Nat) : (raiseOwner r o t).s.mem = r.s.mem := by
  cases o <;> simp [raiseOwner, updJob]
@[simp] theorem acquireM_mem (r : R s0) (c : Nat) : (acquireM r c).s.mem = r.s.mem := by simp [acquireM]
@[simp] theorem grantLease_mem (r : R s0) (pa p n : Nat) : (grantLease r pa p n).s.mem = r.s.mem := by simp [grantLease]
@[simp] theorem writeOwn_mem (r : R s0) (c pa : Nat) (l : List Byte) (a w : Nat) : (writeOwn r c pa l a w).s.mem = r.s.mem := by
  simp [writeOwn]
@[simp] theorem countRead_mem (r : R s0) (pa d : Nat) (leaf : Word) : (countRead r pa d leaf).s.mem = r.s.mem := by
  unfold countRead; split
  · rfl
  · split
    · rfl
    · simp [updHome, updSlice, R.eff]
@[simp] theorem countWrite_mem (r : R s0) (pa : Nat) : (countWrite r pa).s.mem = r.s.mem := by
  unfold countWrite; split
  · rfl
  · simp [updHome, updSlice]
@[simp] theorem resetLanes_mem (r : R s0) (pa n : Nat) : (resetLanes r pa n).s.mem = r.s.mem := by
  unfold resetLanes; split
  · rfl
  · simp [updHome, updSlice]
@[simp] theorem formDeltas_mem (r : R s0) (f g : Nat → Byte) (pa n : Nat) : (formDeltas r f g pa n).s.mem = r.s.mem := by
  unfold formDeltas; dsimp only; split <;> simp
@[simp] theorem wakeReq_mem (r : R s0) (q : Req) (v : Word) (a : Bool) : (wakeReq r q v a).s.mem = r.s.mem := by
  unfold wakeReq; dsimp only
  rw [when_mem]
  · simp [updReq, updHome, updSlice]
  · split <;> simp
@[simp] theorem wakeWaiters_mem (r : R s0) (pa n : Nat) : (wakeWaiters r pa n).s.mem = r.s.mem := by
  unfold wakeWaiters
  exact each_mem _ (fun r w => by split <;> (try split) <;> (try split) <;> simp) _ _
@[simp] theorem sendFlit_mem (r : R s0) (p : Nat) : (sendFlit r p).s.mem = r.s.mem := by simp [sendFlit]
@[simp] theorem askHalf_mem (r : R s0) (n : Nat) (h w : Bool) : (askHalf r n h w).s.mem = r.s.mem := by
  have put : ∀ (c : Prop) [Decidable c] (r1 r2 : R s0), r1.s.mem = r.s.mem → r2.s.mem = r.s.mem → (if c then r1 else r2).s.mem = r.s.mem := by
    intro c _ r1 r2 h1 h2; split <;> assumption
  unfold askHalf
  refine put _ _ _ ?_ (put _ _ _ (by simp) rfl)
  dsimp only
  generalize hostPort r.s _ = x
  cases x with
  | none => simp
  | some p => exact put _ _ _ (by simp) (by simp)
@[simp] theorem dirFreeLine_mem (r : R s0) (n : Nat) : (dirFreeLine r n).s.mem = r.s.mem := by
  unfold dirFreeLine; dsimp only; split <;> simp [updHome, updSlice]
@[simp] theorem dirRecall_mem (r : R s0) (n : Nat) : (dirRecall r n).s.mem = r.s.mem := by
  unfold dirRecall
  simp only [dirFreeLine_mem, askHalf_mem]
  exact each_mem _ (fun r d => by simp) _ _
@[simp] theorem dirGrant_mem (r : R s0) (n : Nat) : (dirGrant r n).1.s.mem = r.s.mem := by
  unfold dirGrant; dsimp only; split
  · simp [updHome, updSlice]
  · split <;> simp [updHome, updSlice]
@[simp] theorem recallHalves_mem (r : R s0) (pa n : Nat) (w : Bool) : (recallHalves r pa n w).s.mem = r.s.mem := by
  unfold recallHalves; dsimp only; split
  · rfl
  · rw [dirFreeLine_mem, when_mem _ _ _ (by simp), when_mem _ _ _ (by simp)]

/-! ## Reads -/

@[simp] theorem homeRead_mem (r : R s0) (p len pa span : Nat) (leaf : Word) : (homeRead r p len pa span leaf).1.s.mem = r.s.mem := by
  unfold homeRead; dsimp only; split <;> simp
@[simp] theorem dieRead_mem (r : R s0) (d p need len pa span : Nat) (leaf : Word) :
    (dieRead r d p need len pa span leaf).1.s.mem = r.s.mem := by
  have put : ∀ {β : Type} (c : Prop) [Decidable c] (r1 r2 : R s0 × β), r1.1.s.mem = r.s.mem → r2.1.s.mem = r.s.mem →
      (if c then r1 else r2).1.s.mem = r.s.mem := by
    intro _ c _ r1 r2 h1 h2; split <;> assumption
  unfold dieRead
  refine put _ _ _ ?_ (by simp)
  generalize Option.filter _ _ = x
  cases x with
  | some c => rfl
  | none => dsimp only; rw [when_mem _ _ _ (by simp)]; simp
@[simp] theorem coreRead_mem (r : R s0) (c : Nat) (lv : Level) (need len pa span : Nat) (leaf : Word) :
    (coreRead r c lv need len pa span leaf).1.s.mem = r.s.mem := by
  unfold coreRead; dsimp only; split
  · simp
  · simp
  · split
    · rfl
    · simp
@[simp] theorem coreLoad_mem (r : R s0) (c ctx : Nat) (lv : Level) (acq : Bool) (pa n : Nat) (leaf : Word) :
    (coreLoad r c ctx lv acq pa n leaf).1.s.mem = r.s.mem := by
  unfold coreLoad; dsimp only; rw [when_mem _ _ _ (by simp)]; simp

/-! ## Writes -/

/-- Bytes put at an address, and no other byte. -/
theorem putBytes_byte (l : List Byte) : ∀ (r : R s0) (pa : Nat), pa + l.length ≤ 2 ^ 52 → ∀ a, (putBytes r pa l).s.byte a =
    if pa ≤ a ∧ a < pa + l.length then l.getD (a - pa) 0 else r.s.byte a := by
  induction l with
  | nil => intro r pa _ a; rw [if_neg (by simp)]; rfl
  | cons b l ih =>
    intro r pa h a
    simp only [List.length_cons] at h ⊢
    have hb : ∀ x, (r.eff (.mem pa b)).s.byte x = if x = pa then b else r.s.byte x := by
      intro x
      have : (r.eff (.mem pa b)).s = { r.s with mem := tabSet 0 pa b r.s.mem } := if_pos (by omega)
      unfold State.byte; rw [this]; exact tabGet_tabSet _ _ _ _ _
    unfold putBytes
    rw [ih _ _ (by omega), hb]
    by_cases h1 : a = pa
    · subst h1; simp
    · have e : a - pa = (a - (pa + 1)) + 1 ∨ a < pa := by omega
      by_cases h2 : pa + 1 ≤ a ∧ a < pa + 1 + l.length
      · rw [if_pos h2, if_pos (by omega)]
        rcases e with e | e
        · rw [e]; rfl
        · omega
      · rw [if_neg h2, if_neg h1, if_neg (by omega)]

theorem byte_congr {s t : State} (h : s.mem = t.mem) (a : Nat) : s.byte a = t.byte a := by unfold State.byte; rw [h]

/-- A write performed at a home changes its own bytes and no other (R400). -/
theorem homeWrite_byte (r : R s0) (o : Owner) (leaf : Word) (plain : Bool) (pa : Nat) (l : List Byte) (h : pa + l.length ≤ 2 ^ 52)
    (a : Nat) : (homeWrite r o leaf plain pa l).s.byte a =
      if pa ≤ a ∧ a < pa + l.length then l.getD (a - pa) 0 else r.s.byte a := by
  have evict : ∀ z : R s0, (if leafCached leaf then z else homeEvict z pa).s.byte a = z.s.byte a := by
    intro z; split
    · rfl
    · exact byte_congr (by simp) a
  have bad : ∀ z : R s0, (if z.s.bad.isEmpty then z else z.eff (.bad (z.s.bad.filter (fun g =>
      !(decide (pa ≤ 8 * g ∧ 8 * g + 8 ≤ pa + l.length)))))).s.mem = z.s.mem := by
    intro z; split <;> rfl
  unfold homeWrite
  dsimp only
  rw [evict]
  rw [byte_congr (t := (putBytes (updLine (homeFill r pa) (pa / 128) fun x =>
      { x with wts := max (ownerTick (homeFill r pa).s o) (((homeFill r pa).s.line (pa / 128)).rts + 1),
               rts := max (ownerTick (homeFill r pa).s o) (((homeFill r pa).s.line (pa / 128)).rts + 1) }) pa l).s)]
  · rw [putBytes_byte _ _ _ h]
    split
    · rfl
    · exact byte_congr (by simp) a
  · rw [wakeWaiters_mem, bad, raiseOwner_mem]
    cases o <;> dsimp only <;> split <;> simp

/-! ## The granules whose data is uncorrectable -/

/-- A fold of effects that keep the uncorrectable granules keeps them. -/
theorem each_bad {α : Type} (f : R s0 → α → R s0) (h : ∀ r x, (f r x).s.bad = r.s.bad) (l : List α) (r : R s0) :
    (r.each l f).s.bad = r.s.bad := by
  induction l generalizing r with
  | nil => rfl
  | cons x l ih => rw [each_cons, ih, h]

@[simp] theorem when_bad (r : R s0) (c : Bool) (f : R s0 → R s0) (h : (f r).s.bad = r.s.bad) : (r.when c f).s.bad = r.s.bad := by
  cases c
  · rfl
  · exact h

@[simp] theorem homeFill_bad (r : R s0) (pa : Nat) : (homeFill r pa).s.bad = r.s.bad := by unfold homeFill; split <;> simp
@[simp] theorem homeEvict_bad (r : R s0) (pa : Nat) : (homeEvict r pa).s.bad = r.s.bad := by
  simp [homeEvict, updHome, updSlice]
@[simp] theorem raiseM_bad (r : R s0) (t : Nat) : (raiseM r t).s.bad = r.s.bad := by simp [raiseM]
@[simp] theorem raiseOwner_bad (r : R s0) (o : Owner) (t : Nat) : (raiseOwner r o t).s.bad = r.s.bad := by
  cases o <;> simp [raiseOwner, updJob]
@[simp] theorem acquireM_bad (r : R s0) (c : Nat) : (acquireM r c).s.bad = r.s.bad := by simp [acquireM]
@[simp] theorem grantLease_bad (r : R s0) (pa p n : Nat) : (grantLease r pa p n).s.bad = r.s.bad := by simp [grantLease]
@[simp] theorem writeOwn_bad (r : R s0) (c pa : Nat) (l : List Byte) (a w : Nat) : (writeOwn r c pa l a w).s.bad = r.s.bad := by
  simp [writeOwn]
@[simp] theorem countRead_bad (r : R s0) (pa d : Nat) (leaf : Word) : (countRead r pa d leaf).s.bad = r.s.bad := by
  unfold countRead; split
  · rfl
  · split
    · rfl
    · simp [updHome, updSlice, R.eff]
@[simp] theorem countWrite_bad (r : R s0) (pa : Nat) : (countWrite r pa).s.bad = r.s.bad := by
  unfold countWrite; split
  · rfl
  · simp [updHome, updSlice]
@[simp] theorem resetLanes_bad (r : R s0) (pa n : Nat) : (resetLanes r pa n).s.bad = r.s.bad := by
  unfold resetLanes; split
  · rfl
  · simp [updHome, updSlice]
@[simp] theorem formDeltas_bad (r : R s0) (f g : Nat → Byte) (pa n : Nat) : (formDeltas r f g pa n).s.bad = r.s.bad := by
  unfold formDeltas; dsimp only; split <;> simp
@[simp] theorem wakeReq_bad (r : R s0) (q : Req) (v : Word) (a : Bool) : (wakeReq r q v a).s.bad = r.s.bad := by
  unfold wakeReq; dsimp only
  rw [when_bad]
  · simp [updReq, updHome, updSlice]
  · split <;> simp
@[simp] theorem wakeWaiters_bad (r : R s0) (pa n : Nat) : (wakeWaiters r pa n).s.bad = r.s.bad := by
  unfold wakeWaiters
  exact each_bad _ (fun r w => by split <;> (try split) <;> (try split) <;> simp) _ _
@[simp] theorem sendFlit_bad (r : R s0) (p : Nat) : (sendFlit r p).s.bad = r.s.bad := by simp [sendFlit]
@[simp] theorem askHalf_bad (r : R s0) (n : Nat) (h w : Bool) : (askHalf r n h w).s.bad = r.s.bad := by
  have put : ∀ (c : Prop) [Decidable c] (r1 r2 : R s0), r1.s.bad = r.s.bad → r2.s.bad = r.s.bad → (if c then r1 else r2).s.bad = r.s.bad := by
    intro c _ r1 r2 h1 h2; split <;> assumption
  unfold askHalf
  refine put _ _ _ ?_ (put _ _ _ (by simp) rfl)
  dsimp only
  generalize hostPort r.s _ = x
  cases x with
  | none => simp
  | some p => exact put _ _ _ (by simp) (by simp)
@[simp] theorem dirFreeLine_bad (r : R s0) (n : Nat) : (dirFreeLine r n).s.bad = r.s.bad := by
  unfold dirFreeLine; dsimp only; split <;> simp [updHome, updSlice]
@[simp] theorem dirRecall_bad (r : R s0) (n : Nat) : (dirRecall r n).s.bad = r.s.bad := by
  unfold dirRecall
  simp only [dirFreeLine_bad, askHalf_bad]
  exact each_bad _ (fun r d => by simp) _ _
@[simp] theorem dirGrant_bad (r : R s0) (n : Nat) : (dirGrant r n).1.s.bad = r.s.bad := by
  unfold dirGrant; dsimp only; split
  · simp [updHome, updSlice]
  · split <;> simp [updHome, updSlice]
@[simp] theorem recallHalves_bad (r : R s0) (pa n : Nat) (w : Bool) : (recallHalves r pa n w).s.bad = r.s.bad := by
  unfold recallHalves; dsimp only; split
  · rfl
  · rw [dirFreeLine_bad, when_bad _ _ _ (by simp), when_bad _ _ _ (by simp)]

@[simp] theorem homeRead_bad (r : R s0) (p len pa span : Nat) (leaf : Word) : (homeRead r p len pa span leaf).1.s.bad = r.s.bad := by
  unfold homeRead; dsimp only; split <;> simp
@[simp] theorem dieRead_bad (r : R s0) (d p need len pa span : Nat) (leaf : Word) :
    (dieRead r d p need len pa span leaf).1.s.bad = r.s.bad := by
  have put : ∀ {β : Type} (c : Prop) [Decidable c] (r1 r2 : R s0 × β), r1.1.s.bad = r.s.bad → r2.1.s.bad = r.s.bad →
      (if c then r1 else r2).1.s.bad = r.s.bad := by
    intro _ c _ r1 r2 h1 h2; split <;> assumption
  unfold dieRead
  refine put _ _ _ ?_ (by simp)
  generalize Option.filter _ _ = x
  cases x with
  | some c => rfl
  | none => dsimp only; rw [when_bad _ _ _ (by simp)]; simp
@[simp] theorem coreRead_bad (r : R s0) (c : Nat) (lv : Level) (need len pa span : Nat) (leaf : Word) :
    (coreRead r c lv need len pa span leaf).1.s.bad = r.s.bad := by
  unfold coreRead; dsimp only; split
  · simp
  · simp
  · split
    · rfl
    · simp
@[simp] theorem coreLoad_bad (r : R s0) (c ctx : Nat) (lv : Level) (acq : Bool) (pa n : Nat) (leaf : Word) :
    (coreLoad r c ctx lv acq pa n leaf).1.s.bad = r.s.bad := by
  unfold coreLoad; dsimp only; rw [when_bad _ _ _ (by simp)]; simp

/-! ## The requests' numbers and the contexts -/

/-- A fold of effects that keep the requests keeps them. -/
theorem each_reqs {α : Type} (f : R s0 → α → R s0) (h : ∀ r x, (f r x).s.reqs = r.s.reqs) (l : List α) (r : R s0) :
    (r.each l f).s.reqs = r.s.reqs := by
  induction l generalizing r with
  | nil => rfl
  | cons x l ih => rw [each_cons, ih, h]

@[simp] theorem when_reqs (r : R s0) (c : Bool) (f : R s0 → R s0) (h : (f r).s.reqs = r.s.reqs) : (r.when c f).s.reqs = r.s.reqs := by
  cases c
  · rfl
  · exact h

@[simp] theorem homeFill_reqs (r : R s0) (pa : Nat) : (homeFill r pa).s.reqs = r.s.reqs := by unfold homeFill; split <;> simp
@[simp] theorem homeEvict_reqs (r : R s0) (pa : Nat) : (homeEvict r pa).s.reqs = r.s.reqs := by
  simp [homeEvict, updHome, updSlice]
@[simp] theorem raiseM_reqs (r : R s0) (t : Nat) : (raiseM r t).s.reqs = r.s.reqs := by simp [raiseM]
@[simp] theorem raiseOwner_reqs (r : R s0) (o : Owner) (t : Nat) : (raiseOwner r o t).s.reqs = r.s.reqs := by
  cases o <;> simp [raiseOwner, updJob]
@[simp] theorem acquireM_reqs (r : R s0) (c : Nat) : (acquireM r c).s.reqs = r.s.reqs := by simp [acquireM]
@[simp] theorem grantLease_reqs (r : R s0) (pa p n : Nat) : (grantLease r pa p n).s.reqs = r.s.reqs := by simp [grantLease]
@[simp] theorem writeOwn_reqs (r : R s0) (c pa : Nat) (l : List Byte) (a w : Nat) : (writeOwn r c pa l a w).s.reqs = r.s.reqs := by
  simp [writeOwn]
@[simp] theorem countRead_reqs (r : R s0) (pa d : Nat) (leaf : Word) : (countRead r pa d leaf).s.reqs = r.s.reqs := by
  unfold countRead; split
  · rfl
  · split
    · rfl
    · simp [updHome, updSlice, R.eff]
@[simp] theorem countWrite_reqs (r : R s0) (pa : Nat) : (countWrite r pa).s.reqs = r.s.reqs := by
  unfold countWrite; split
  · rfl
  · simp [updHome, updSlice]
@[simp] theorem resetLanes_reqs (r : R s0) (pa n : Nat) : (resetLanes r pa n).s.reqs = r.s.reqs := by
  unfold resetLanes; split
  · rfl
  · simp [updHome, updSlice]
@[simp] theorem formDeltas_reqs (r : R s0) (f g : Nat → Byte) (pa n : Nat) : (formDeltas r f g pa n).s.reqs = r.s.reqs := by
  unfold formDeltas; dsimp only; split <;> simp
@[simp] theorem sendFlit_reqs (r : R s0) (p : Nat) : (sendFlit r p).s.reqs = r.s.reqs := by simp [sendFlit]
@[simp] theorem askHalf_reqs (r : R s0) (n : Nat) (h w : Bool) : (askHalf r n h w).s.reqs = r.s.reqs := by
  have put : ∀ (c : Prop) [Decidable c] (r1 r2 : R s0), r1.s.reqs = r.s.reqs → r2.s.reqs = r.s.reqs → (if c then r1 else r2).s.reqs = r.s.reqs := by
    intro c _ r1 r2 h1 h2; split <;> assumption
  unfold askHalf
  refine put _ _ _ ?_ (put _ _ _ (by simp) rfl)
  dsimp only
  generalize hostPort r.s _ = x
  cases x with
  | none => simp
  | some p => exact put _ _ _ (by simp) (by simp)
@[simp] theorem dirFreeLine_reqs (r : R s0) (n : Nat) : (dirFreeLine r n).s.reqs = r.s.reqs := by
  unfold dirFreeLine; dsimp only; split <;> simp [updHome, updSlice]
@[simp] theorem dirRecall_reqs (r : R s0) (n : Nat) : (dirRecall r n).s.reqs = r.s.reqs := by
  unfold dirRecall
  simp only [dirFreeLine_reqs, askHalf_reqs]
  exact each_reqs _ (fun r d => by simp) _ _
@[simp] theorem dirGrant_reqs (r : R s0) (n : Nat) : (dirGrant r n).1.s.reqs = r.s.reqs := by
  unfold dirGrant; dsimp only; split
  · simp [updHome, updSlice]
  · split <;> simp [updHome, updSlice]
@[simp] theorem recallHalves_reqs (r : R s0) (pa n : Nat) (w : Bool) : (recallHalves r pa n w).s.reqs = r.s.reqs := by
  unfold recallHalves; dsimp only; split
  · rfl
  · rw [dirFreeLine_reqs, when_reqs _ _ _ (by simp), when_reqs _ _ _ (by simp)]

@[simp] theorem homeRead_reqs (r : R s0) (p len pa span : Nat) (leaf : Word) : (homeRead r p len pa span leaf).1.s.reqs = r.s.reqs := by
  unfold homeRead; dsimp only; split <;> simp
@[simp] theorem dieRead_reqs (r : R s0) (d p need len pa span : Nat) (leaf : Word) :
    (dieRead r d p need len pa span leaf).1.s.reqs = r.s.reqs := by
  have put : ∀ {β : Type} (c : Prop) [Decidable c] (r1 r2 : R s0 × β), r1.1.s.reqs = r.s.reqs → r2.1.s.reqs = r.s.reqs →
      (if c then r1 else r2).1.s.reqs = r.s.reqs := by
    intro _ c _ r1 r2 h1 h2; split <;> assumption
  unfold dieRead
  refine put _ _ _ ?_ (by simp)
  generalize Option.filter _ _ = x
  cases x with
  | some c => rfl
  | none => dsimp only; rw [when_reqs _ _ _ (by simp)]; simp
@[simp] theorem coreRead_reqs (r : R s0) (c : Nat) (lv : Level) (need len pa span : Nat) (leaf : Word) :
    (coreRead r c lv need len pa span leaf).1.s.reqs = r.s.reqs := by
  unfold coreRead; dsimp only; split
  · simp
  · simp
  · split
    · rfl
    · simp
@[simp] theorem coreLoad_reqs (r : R s0) (c ctx : Nat) (lv : Level) (acq : Bool) (pa n : Nat) (leaf : Word) :
    (coreLoad r c ctx lv acq pa n leaf).1.s.reqs = r.s.reqs := by
  unfold coreLoad; dsimp only; rw [when_reqs _ _ _ (by simp)]; simp

/-- A fold of effects that keep the contexts keeps them. -/
theorem each_ctxs {α : Type} (f : R s0 → α → R s0) (h : ∀ r x, (f r x).s.ctxs = r.s.ctxs) (l : List α) (r : R s0) :
    (r.each l f).s.ctxs = r.s.ctxs := by
  induction l generalizing r with
  | nil => rfl
  | cons x l ih => rw [each_cons, ih, h]

@[simp] theorem when_ctxs (r : R s0) (c : Bool) (f : R s0 → R s0) (h : (f r).s.ctxs = r.s.ctxs) : (r.when c f).s.ctxs = r.s.ctxs := by
  cases c
  · rfl
  · exact h

@[simp] theorem homeFill_ctxs (r : R s0) (pa : Nat) : (homeFill r pa).s.ctxs = r.s.ctxs := by unfold homeFill; split <;> simp
@[simp] theorem homeEvict_ctxs (r : R s0) (pa : Nat) : (homeEvict r pa).s.ctxs = r.s.ctxs := by
  simp [homeEvict, updHome, updSlice]
@[simp] theorem raiseM_ctxs (r : R s0) (t : Nat) : (raiseM r t).s.ctxs = r.s.ctxs := by simp [raiseM]
@[simp] theorem raiseOwner_ctxs (r : R s0) (o : Owner) (t : Nat) : (raiseOwner r o t).s.ctxs = r.s.ctxs := by
  cases o <;> simp [raiseOwner, updJob]
@[simp] theorem acquireM_ctxs (r : R s0) (c : Nat) : (acquireM r c).s.ctxs = r.s.ctxs := by simp [acquireM]
@[simp] theorem grantLease_ctxs (r : R s0) (pa p n : Nat) : (grantLease r pa p n).s.ctxs = r.s.ctxs := by simp [grantLease]
@[simp] theorem writeOwn_ctxs (r : R s0) (c pa : Nat) (l : List Byte) (a w : Nat) : (writeOwn r c pa l a w).s.ctxs = r.s.ctxs := by
  simp [writeOwn]
@[simp] theorem countRead_ctxs (r : R s0) (pa d : Nat) (leaf : Word) : (countRead r pa d leaf).s.ctxs = r.s.ctxs := by
  unfold countRead; split
  · rfl
  · split
    · rfl
    · simp [updHome, updSlice, R.eff]
@[simp] theorem countWrite_ctxs (r : R s0) (pa : Nat) : (countWrite r pa).s.ctxs = r.s.ctxs := by
  unfold countWrite; split
  · rfl
  · simp [updHome, updSlice]
@[simp] theorem resetLanes_ctxs (r : R s0) (pa n : Nat) : (resetLanes r pa n).s.ctxs = r.s.ctxs := by
  unfold resetLanes; split
  · rfl
  · simp [updHome, updSlice]
@[simp] theorem formDeltas_ctxs (r : R s0) (f g : Nat → Byte) (pa n : Nat) : (formDeltas r f g pa n).s.ctxs = r.s.ctxs := by
  unfold formDeltas; dsimp only; split <;> simp
@[simp] theorem wakeReq_ctxs (r : R s0) (q : Req) (v : Word) (a : Bool) : (wakeReq r q v a).s.ctxs = r.s.ctxs := by
  unfold wakeReq; dsimp only
  rw [when_ctxs]
  · simp [updReq, updHome, updSlice]
  · split <;> simp
@[simp] theorem wakeWaiters_ctxs (r : R s0) (pa n : Nat) : (wakeWaiters r pa n).s.ctxs = r.s.ctxs := by
  unfold wakeWaiters
  exact each_ctxs _ (fun r w => by split <;> (try split) <;> (try split) <;> simp) _ _
@[simp] theorem sendFlit_ctxs (r : R s0) (p : Nat) : (sendFlit r p).s.ctxs = r.s.ctxs := by simp [sendFlit]
@[simp] theorem askHalf_ctxs (r : R s0) (n : Nat) (h w : Bool) : (askHalf r n h w).s.ctxs = r.s.ctxs := by
  have put : ∀ (c : Prop) [Decidable c] (r1 r2 : R s0), r1.s.ctxs = r.s.ctxs → r2.s.ctxs = r.s.ctxs → (if c then r1 else r2).s.ctxs = r.s.ctxs := by
    intro c _ r1 r2 h1 h2; split <;> assumption
  unfold askHalf
  refine put _ _ _ ?_ (put _ _ _ (by simp) rfl)
  dsimp only
  generalize hostPort r.s _ = x
  cases x with
  | none => simp
  | some p => exact put _ _ _ (by simp) (by simp)
@[simp] theorem dirFreeLine_ctxs (r : R s0) (n : Nat) : (dirFreeLine r n).s.ctxs = r.s.ctxs := by
  unfold dirFreeLine; dsimp only; split <;> simp [updHome, updSlice]
@[simp] theorem dirRecall_ctxs (r : R s0) (n : Nat) : (dirRecall r n).s.ctxs = r.s.ctxs := by
  unfold dirRecall
  simp only [dirFreeLine_ctxs, askHalf_ctxs]
  exact each_ctxs _ (fun r d => by simp) _ _
@[simp] theorem dirGrant_ctxs (r : R s0) (n : Nat) : (dirGrant r n).1.s.ctxs = r.s.ctxs := by
  unfold dirGrant; dsimp only; split
  · simp [updHome, updSlice]
  · split <;> simp [updHome, updSlice]
@[simp] theorem recallHalves_ctxs (r : R s0) (pa n : Nat) (w : Bool) : (recallHalves r pa n w).s.ctxs = r.s.ctxs := by
  unfold recallHalves; dsimp only; split
  · rfl
  · rw [dirFreeLine_ctxs, when_ctxs _ _ _ (by simp), when_ctxs _ _ _ (by simp)]

@[simp] theorem homeRead_ctxs (r : R s0) (p len pa span : Nat) (leaf : Word) : (homeRead r p len pa span leaf).1.s.ctxs = r.s.ctxs := by
  unfold homeRead; dsimp only; split <;> simp
@[simp] theorem dieRead_ctxs (r : R s0) (d p need len pa span : Nat) (leaf : Word) :
    (dieRead r d p need len pa span leaf).1.s.ctxs = r.s.ctxs := by
  have put : ∀ {β : Type} (c : Prop) [Decidable c] (r1 r2 : R s0 × β), r1.1.s.ctxs = r.s.ctxs → r2.1.s.ctxs = r.s.ctxs →
      (if c then r1 else r2).1.s.ctxs = r.s.ctxs := by
    intro _ c _ r1 r2 h1 h2; split <;> assumption
  unfold dieRead
  refine put _ _ _ ?_ (by simp)
  generalize Option.filter _ _ = x
  cases x with
  | some c => rfl
  | none => dsimp only; rw [when_ctxs _ _ _ (by simp)]; simp
@[simp] theorem coreRead_ctxs (r : R s0) (c : Nat) (lv : Level) (need len pa span : Nat) (leaf : Word) :
    (coreRead r c lv need len pa span leaf).1.s.ctxs = r.s.ctxs := by
  unfold coreRead; dsimp only; split
  · simp
  · simp
  · split
    · rfl
    · simp
@[simp] theorem coreLoad_ctxs (r : R s0) (c ctx : Nat) (lv : Level) (acq : Bool) (pa n : Nat) (leaf : Word) :
    (coreLoad r c ctx lv acq pa n leaf).1.s.ctxs = r.s.ctxs := by
  unfold coreLoad; dsimp only; rw [when_ctxs _ _ _ (by simp)]; simp


/-- A request of a number stands in the list. -/
def State.hasReq (s : State) (id : Nat) : Prop := ∃ q ∈ s.reqs, q.id = id

theorem hasReq_congr {s t : State} (h : s.reqs = t.reqs) (id : Nat) : s.hasReq id ↔ t.hasReq id := by unfold State.hasReq; rw [h]

/-- An update of a request that keeps its number. -/
theorem updReq_hasReq (r : R s0) (n id : Nat) (f : Req → Req) (hf : ∀ q, (f q).id = q.id) : (updReq r n f).s.hasReq id ↔ r.s.hasReq id := by
  unfold State.hasReq updReq
  simp only [updReqs_s, apply_reqs_reqs, List.mem_map]
  constructor
  · rintro ⟨q, ⟨x, hx, rfl⟩, h⟩
    refine ⟨x, hx, ?_⟩
    split at h
    · rw [hf] at h; exact h
    · exact h
  · rintro ⟨x, hx, h⟩
    refine ⟨_, ⟨x, hx, rfl⟩, ?_⟩
    split
    · rw [hf]; exact h
    · exact h

theorem wakeReq_hasReq (r : R s0) (q : Req) (v : Word) (a : Bool) (id : Nat) : (wakeReq r q v a).s.hasReq id ↔ r.s.hasReq id := by
  have drop : ∀ z : R s0, (updHome z q.pa fun x => { x with waiters := x.waiters.filter (·.id ≠ q.id) }).s.hasReq id ↔ z.s.hasReq id :=
    fun z => hasReq_congr (by simp [updHome, updSlice]) id
  unfold wakeReq; dsimp only
  rw [hasReq_congr (when_reqs _ _ _ (by split <;> simp)), drop]
  exact updReq_hasReq _ _ _ _ fun _ => rfl

theorem each_hasReq {α : Type} (f : R s0 → α → R s0) (id : Nat) (h : ∀ r x, (f r x).s.hasReq id ↔ r.s.hasReq id) (l : List α) (r : R s0) :
    (r.each l f).s.hasReq id ↔ r.s.hasReq id := by
  induction l generalizing r with
  | nil => rfl
  | cons x l ih => rw [each_cons, ih, h]

theorem wakeWaiters_hasReq (r : R s0) (pa n id : Nat) : (wakeWaiters r pa n).s.hasReq id ↔ r.s.hasReq id := by
  unfold wakeWaiters
  refine each_hasReq _ id (fun r w => ?_) _ _
  split
  · split
    · split
      · exact wakeReq_hasReq ..
      · rfl
    · rfl
  · rfl

@[simp] theorem putBytes_reqs (l : List Byte) : ∀ (r : R s0) (pa : Nat), (putBytes r pa l).s.reqs = r.s.reqs := by
  induction l with
  | nil => intro r pa; rfl
  | cons b l ih => intro r pa; unfold putBytes; rw [ih]; simp [R.eff]
@[simp] theorem putBytes_ctxs (l : List Byte) : ∀ (r : R s0) (pa : Nat), (putBytes r pa l).s.ctxs = r.s.ctxs := by
  induction l with
  | nil => intro r pa; rfl
  | cons b l ih => intro r pa; unfold putBytes; rw [ih]; simp [R.eff]

/-- A write at a home gives and takes no request's number. -/
theorem homeWrite_hasReq (r : R s0) (o : Owner) (leaf : Word) (plain : Bool) (pa : Nat) (l : List Byte) (id : Nat) :
    (homeWrite r o leaf plain pa l).s.hasReq id ↔ r.s.hasReq id := by
  have evict : ∀ z : R s0, (if leafCached leaf then z else homeEvict z pa).s.hasReq id ↔ z.s.hasReq id := by
    intro z; split
    · rfl
    · exact hasReq_congr (by simp) id
  have bad : ∀ z : R s0, (if z.s.bad.isEmpty then z else z.eff (.bad (z.s.bad.filter (fun g =>
      !(decide (pa ≤ 8 * g ∧ 8 * g + 8 ≤ pa + l.length)))))).s.reqs = z.s.reqs := by
    intro z; split <;> rfl
  unfold homeWrite
  dsimp only
  rw [evict, wakeWaiters_hasReq]
  refine hasReq_congr ?_ id
  rw [bad, raiseOwner_reqs]
  cases o <;> dsimp only <;> split <;> simp

/-- A write at a home leaves the contexts' registers. -/
@[simp] theorem homeWrite_ctxs (r : R s0) (o : Owner) (leaf : Word) (plain : Bool) (pa : Nat) (l : List Byte) :
    (homeWrite r o leaf plain pa l).s.ctxs = r.s.ctxs := by
  have evict : ∀ z : R s0, (if leafCached leaf then z else homeEvict z pa).s.ctxs = z.s.ctxs := by intro z; split <;> simp
  have bad : ∀ z : R s0, (if z.s.bad.isEmpty then z else z.eff (.bad (z.s.bad.filter (fun g =>
      !(decide (pa ≤ 8 * g ∧ 8 * g + 8 ≤ pa + l.length)))))).s.ctxs = z.s.ctxs := by
    intro z; split <;> rfl
  unfold homeWrite
  dsimp only
  rw [evict, wakeWaiters_ctxs, bad, raiseOwner_ctxs]
  cases o <;> dsimp only <;> split <;> simp

end Sys2Proof.Machine
end

