-- ==== Sys2Proof/Laws/Keep.lean ====
section
/-!
SUPPORT. What homes, records and write-backs of frames leave as it is in the cores: everything but their ticks and copies of lines.
-/

namespace Sys2Proof.Machine

open Sys2Proof

variable {s0 : State}

/-- A core without its ticks and its copies of lines. -/
def Core.rest (k : Core) : Core := { k with pts := 0, rmax := 0, l1 := [] }

/-- Every core so. -/
def R.rest (r : R s0) (c : Nat) : Core := (r.s.core c).rest

theorem rest_congr {r q : R s0} (h : r.s.cores = q.s.cores) : r.rest = q.rest := by
  funext c; unfold R.rest State.core; rw [h]

/-- An update of a core that keeps the rest of it. -/
theorem updCore_rest (r : R s0) (c : Nat) (f : Core → Core) (h : ∀ k, (f k).rest = k.rest) : (updCore r c f).rest = r.rest := by
  funext d
  unfold R.rest State.core
  rw [updCore_s]
  unfold Eff.apply
  dsimp only
  split
  · dsimp only
    rw [tabGet_tabSet]
    split
    · next e => subst e; exact h _
    · rfl
  · rfl

@[simp] theorem updCluster_rest (r : R s0) (c : Nat) (f : Cluster → Cluster) : (updCluster r c f).rest = r.rest := rest_congr (by simp)
@[simp] theorem updDie_rest (r : R s0) (c : Nat) (f : Die → Die) : (updDie r c f).rest = r.rest := rest_congr (by simp)
@[simp] theorem updLine_rest (r : R s0) (c : Nat) (f : Line → Line) : (updLine r c f).rest = r.rest := rest_congr (by simp)
@[simp] theorem updFrame_rest (r : R s0) (c : Nat) (f : FrameSt → FrameSt) : (updFrame r c f).rest = r.rest := rest_congr (by simp)
@[simp] theorem updCtx_rest (r : R s0) (c : Nat) (f : Ctx → Ctx) : (updCtx r c f).rest = r.rest := rest_congr (by simp)
@[simp] theorem updQueue_rest (r : R s0) (c : Nat) (f : Queue → Queue) : (updQueue r c f).rest = r.rest := rest_congr (by simp)
@[simp] theorem updGroup_rest (r : R s0) (c : Nat) (f : Group → Group) : (updGroup r c f).rest = r.rest := rest_congr (by simp)
@[simp] theorem updLink_rest (r : R s0) (c : Nat) (f : Link → Link) : (updLink r c f).rest = r.rest := rest_congr (by simp)
@[simp] theorem updMgmt_rest (r : R s0) (f : Mgmt → Mgmt) : (updMgmt r f).rest = r.rest := rest_congr (by simp)
@[simp] theorem updWorks_rest (r : R s0) (f : List Work → List Work) : (updWorks r f).rest = r.rest := rest_congr (by simp)
@[simp] theorem updReqs_rest (r : R s0) (f : List Req → List Req) : (updReqs r f).rest = r.rest := rest_congr (by simp)
@[simp] theorem order_rest (r : R s0) : (r.eff .nextOrder).rest = r.rest := rest_congr rfl
@[simp] theorem putBytes_rest (l : List Byte) : ∀ (r : R s0) (pa : Nat), (putBytes r pa l).rest = r.rest := by
  induction l with
  | nil => intro r pa; rfl
  | cons b l ih =>
    intro r pa
    unfold putBytes
    rw [ih]
    refine rest_congr ?_
    unfold R.eff Eff.apply
    dsimp only
    split <;> rfl

/-- A fold of effects that keep the rest of every core keeps it. -/
theorem each_rest {α : Type} (f : R s0 → α → R s0) (h : ∀ r x, (f r x).rest = r.rest) (l : List α) (r : R s0) :
    (r.each l f).rest = r.rest := by
  induction l generalizing r with
  | nil => rfl
  | cons x l ih => rw [each_cons, ih, h]

@[simp] theorem when_rest (r : R s0) (c : Bool) (f : R s0 → R s0) (h : (f r).rest = r.rest) : (r.when c f).rest = r.rest := by
  cases c
  · rfl
  · exact h

/-! ## What leaves the rest of every core as it is -/

@[simp] theorem homeFill_rest (r : R s0) (pa : Nat) : (homeFill r pa).rest = r.rest := by unfold homeFill; split <;> simp
@[simp] theorem homeEvict_rest (r : R s0) (pa : Nat) : (homeEvict r pa).rest = r.rest := by
  simp [homeEvict, updHome, updSlice]
@[simp] theorem raiseM_rest (r : R s0) (t : Nat) : (raiseM r t).rest = r.rest := by simp [raiseM]
@[simp] theorem raiseOwner_rest (r : R s0) (o : Owner) (t : Nat) : (raiseOwner r o t).rest = r.rest := by
  cases o with
  | core c => unfold raiseOwner; rw [raiseM_rest, updCore_rest]; intro k; rfl
  | _ => simp [raiseOwner, updJob]
@[simp] theorem acquireM_rest (r : R s0) (c : Nat) : (acquireM r c).rest = r.rest := by simp [acquireM]
@[simp] theorem grantLease_rest (r : R s0) (pa p n : Nat) : (grantLease r pa p n).rest = r.rest := by simp [grantLease]
@[simp] theorem writeOwn_rest (r : R s0) (c pa : Nat) (l : List Byte) (a w : Nat) : (writeOwn r c pa l a w).rest = r.rest := by
  unfold writeOwn; dsimp only; rw [updDie_rest]; exact updCore_rest r c _ fun _ => rfl
@[simp] theorem countRead_rest (r : R s0) (pa d : Nat) (leaf : Word) : (countRead r pa d leaf).rest = r.rest := by
  unfold countRead; split
  · rfl
  · split
    · rfl
    · rw [order_rest]; simp [updHome, updSlice]
@[simp] theorem countWrite_rest (r : R s0) (pa : Nat) : (countWrite r pa).rest = r.rest := by
  unfold countWrite; split
  · rfl
  · simp [updHome, updSlice]
@[simp] theorem resetLanes_rest (r : R s0) (pa n : Nat) : (resetLanes r pa n).rest = r.rest := by
  unfold resetLanes; split
  · rfl
  · simp [updHome, updSlice]
@[simp] theorem formDeltas_rest (r : R s0) (f g : Nat → Byte) (pa n : Nat) : (formDeltas r f g pa n).rest = r.rest := by
  unfold formDeltas; dsimp only; split <;> simp
@[simp] theorem wakeReq_rest (r : R s0) (q : Req) (v : Word) (a : Bool) : (wakeReq r q v a).rest = r.rest := by
  unfold wakeReq; dsimp only
  rw [when_rest]
  · simp [updReq, updHome, updSlice]
  · split <;> simp
@[simp] theorem wakeWaiters_rest (r : R s0) (pa n : Nat) : (wakeWaiters r pa n).rest = r.rest := by
  unfold wakeWaiters
  exact each_rest _ (fun r w => by split <;> (try split) <;> (try split) <;> simp) _ _
@[simp] theorem sendFlit_rest (r : R s0) (p : Nat) : (sendFlit r p).rest = r.rest := by simp [sendFlit]
@[simp] theorem askHalf_rest (r : R s0) (n : Nat) (h w : Bool) : (askHalf r n h w).rest = r.rest := by
  have put : ∀ (c : Prop) [Decidable c] (r1 r2 : R s0), r1.rest = r.rest → r2.rest = r.rest → (if c then r1 else r2).rest = r.rest := by
    intro c _ r1 r2 h1 h2; split <;> assumption
  unfold askHalf
  refine put _ _ _ ?_ (put _ _ _ (by simp) rfl)
  dsimp only
  generalize hostPort r.s _ = x
  cases x with
  | none => simp
  | some p => exact put _ _ _ (by simp) (by simp)
@[simp] theorem dirFreeLine_rest (r : R s0) (n : Nat) : (dirFreeLine r n).rest = r.rest := by
  unfold dirFreeLine; dsimp only; split <;> simp [updHome, updSlice]
@[simp] theorem dirRecall_rest (r : R s0) (n : Nat) : (dirRecall r n).rest = r.rest := by
  unfold dirRecall
  simp only [dirFreeLine_rest, askHalf_rest]
  exact each_rest _ (fun r d => by simp) _ _
@[simp] theorem dirGrant_rest (r : R s0) (n : Nat) : (dirGrant r n).1.rest = r.rest := by
  unfold dirGrant; dsimp only; split
  · simp [updHome, updSlice]
  · split <;> simp [updHome, updSlice]
@[simp] theorem recallHalves_rest (r : R s0) (pa n : Nat) (w : Bool) : (recallHalves r pa n w).rest = r.rest := by
  unfold recallHalves; dsimp only; split
  · rfl
  · rw [dirFreeLine_rest, when_rest _ _ _ (by simp), when_rest _ _ _ (by simp)]


/-! ## Writes at a home, records, frames -/

@[simp] theorem homeWrite_rest (r : R s0) (o : Owner) (leaf : Word) (plain : Bool) (pa : Nat) (l : List Byte) :
    (homeWrite r o leaf plain pa l).rest = r.rest := by
  have evict : ∀ z : R s0, (if leafCached leaf then z else homeEvict z pa).rest = z.rest := by
    intro z; split
    · rfl
    · simp
  have bad : ∀ z : R s0, (if z.s.bad.isEmpty then z else z.eff (.bad (z.s.bad.filter (fun g =>
      !(decide (pa ≤ 8 * g ∧ 8 * g + 8 ≤ pa + l.length)))))).rest = z.rest := by
    intro z; split <;> rfl
  unfold homeWrite
  dsimp only
  rw [evict, wakeWaiters_rest, bad, raiseOwner_rest]
  cases o <;> dsimp only <;> split <;> simp

@[simp] theorem putRecord_rest (r : R s0) (c : Nat) (l : List Byte) : (putRecord r c l).rest = r.rest := by
  unfold putRecord
  split
  · simp [setLost]
  · dsimp only; split <;> simp [setLost]

@[simp] theorem numbered_rest (r : R s0) (c : Nat) (l : List Byte) : (numbered r c l).rest = r.rest := by
  unfold numbered; simp

@[simp] theorem flushRecords_rest (c n : Nat) : ∀ r : R s0, (flushRecords r c n).rest = r.rest := by
  induction n with
  | zero => intro r; rfl
  | succ n ih =>
    intro r
    unfold flushRecords
    split
    · rfl
    · split
      · rfl
      · rw [ih]; simp

/-- A record leaves the rest of every core as it is. -/
@[simp] theorem report_rest (r : R s0) (c : Nat) (x : Rec) (u n p : Nat) : (report r c x u n p).rest = r.rest := by
  unfold report; dsimp only; split <;> simp

@[simp] theorem reportFiring_rest (r : R s0) (f : Firing) (x : Rec) : (reportFiring r f x).rest = r.rest := by
  unfold reportFiring; simp

@[simp] theorem writeFrame_rest (r : R s0) (core : Nat) (parts : List Nat) (f : Frame) : (writeFrame r core parts f).rest = r.rest := by
  unfold writeFrame
  exact each_rest _ (fun r i => by split <;> simp) _ _

@[simp] theorem writeBack_rest (r : R s0) (core c : Nat) (u : BitVec 13) : (writeBack r core c u).rest = r.rest := by
  unfold writeBack; split
  · split <;> simp
  · rfl

/-- What the rest of a core tells. -/
theorem rest_strands {r q : R s0} (h : r.rest = q.rest) (c : Nat) : (r.s.core c).strands = (q.s.core c).strands := by
  have := congrArg Core.strands (congrFun h c); exact this
theorem rest_trestles {r q : R s0} (h : r.rest = q.rest) (c : Nat) : (r.s.core c).trestles = (q.s.core c).trestles := by
  have := congrArg Core.trestles (congrFun h c); exact this
theorem rest_flights {r q : R s0} (h : r.rest = q.rest) (c : Nat) : (r.s.core c).flights = (q.s.core c).flights := by
  have := congrArg Core.flights (congrFun h c); exact this
theorem rest_pes {r q : R s0} (h : r.rest = q.rest) (c : Nat) : (r.s.core c).pes = (q.s.core c).pes := by
  have := congrArg Core.pes (congrFun h c); exact this
theorem rest_ports {r q : R s0} (h : r.rest = q.rest) (c : Nat) : (r.s.core c).ports = (q.s.core c).ports := by
  have := congrArg Core.ports (congrFun h c); exact this
theorem rest_matrix {r q : R s0} (h : r.rest = q.rest) (c : Nat) : (r.s.core c).matrix = (q.s.core c).matrix := by
  have := congrArg Core.matrix (congrFun h c); exact this

/-! ## The control tables -/

/-- Queues, groups, units, save images and clusters. -/
def R.control (r : R s0) : Tab Queue × Tab Group × List Work × List SaveImg × Tab Cluster :=
  (r.s.queues, r.s.groups, r.s.works, r.s.saves, r.s.clusters)

@[simp] theorem updCore_control (r : R s0) (c : Nat) (f : Core → Core) : (updCore r c f).control = r.control := by unfold R.control; simp
@[simp] theorem updDie_control (r : R s0) (c : Nat) (f : Die → Die) : (updDie r c f).control = r.control := by unfold R.control; simp
@[simp] theorem updLine_control (r : R s0) (c : Nat) (f : Line → Line) : (updLine r c f).control = r.control := by unfold R.control; simp
@[simp] theorem updCtx_control (r : R s0) (c : Nat) (f : Ctx → Ctx) : (updCtx r c f).control = r.control := by unfold R.control; simp
@[simp] theorem updLink_control (r : R s0) (c : Nat) (f : Link → Link) : (updLink r c f).control = r.control := by unfold R.control; simp
@[simp] theorem updMgmt_control (r : R s0) (f : Mgmt → Mgmt) : (updMgmt r f).control = r.control := by unfold R.control; simp
@[simp] theorem updFrame_control (r : R s0) (c : Nat) (f : FrameSt → FrameSt) : (updFrame r c f).control = r.control := by unfold R.control; simp
@[simp] theorem updReqs_control (r : R s0) (f : List Req → List Req) : (updReqs r f).control = r.control := by unfold R.control; simp
@[simp] theorem order_control (r : R s0) : (r.eff .nextOrder).control = r.control := rfl
@[simp] theorem putBytes_control (l : List Byte) : ∀ (r : R s0) (pa : Nat), (putBytes r pa l).control = r.control := by
  induction l with
  | nil => intro r pa; rfl
  | cons b l ih =>
    intro r pa
    unfold putBytes
    rw [ih]
    unfold R.control
    unfold R.eff Eff.apply
    dsimp only
    split <;> rfl

/-- A fold of effects that keep the control tables keeps it. -/
theorem each_control {α : Type} (f : R s0 → α → R s0) (h : ∀ r x, (f r x).control = r.control) (l : List α) (r : R s0) :
    (r.each l f).control = r.control := by
  induction l generalizing r with
  | nil => rfl
  | cons x l ih => rw [each_cons, ih, h]

@[simp] theorem when_control (r : R s0) (c : Bool) (f : R s0 → R s0) (h : (f r).control = r.control) : (r.when c f).control = r.control := by
  cases c
  · rfl
  · exact h

/-! ## What leaves the control tables as it is -/

@[simp] theorem homeFill_control (r : R s0) (pa : Nat) : (homeFill r pa).control = r.control := by unfold homeFill; split <;> simp
@[simp] theorem homeEvict_control (r : R s0) (pa : Nat) : (homeEvict r pa).control = r.control := by
  simp [homeEvict, updHome, updSlice]
@[simp] theorem raiseM_control (r : R s0) (t : Nat) : (raiseM r t).control = r.control := by simp [raiseM]
@[simp] theorem raiseOwner_control (r : R s0) (o : Owner) (t : Nat) : (raiseOwner r o t).control = r.control := by
  cases o with
  | core c => unfold raiseOwner; simp
  | _ => simp [raiseOwner, updJob]
@[simp] theorem acquireM_control (r : R s0) (c : Nat) : (acquireM r c).control = r.control := by simp [acquireM]
@[simp] theorem grantLease_control (r : R s0) (pa p n : Nat) : (grantLease r pa p n).control = r.control := by simp [grantLease]
@[simp] theorem writeOwn_control (r : R s0) (c pa : Nat) (l : List Byte) (a w : Nat) : (writeOwn r c pa l a w).control = r.control := by
  unfold writeOwn; dsimp only; rw [updDie_control]; simp
@[simp] theorem countRead_control (r : R s0) (pa d : Nat) (leaf : Word) : (countRead r pa d leaf).control = r.control := by
  unfold countRead; split
  · rfl
  · split
    · rfl
    · rw [order_control]; simp [updHome, updSlice]
@[simp] theorem countWrite_control (r : R s0) (pa : Nat) : (countWrite r pa).control = r.control := by
  unfold countWrite; split
  · rfl
  · simp [updHome, updSlice]
@[simp] theorem resetLanes_control (r : R s0) (pa n : Nat) : (resetLanes r pa n).control = r.control := by
  unfold resetLanes; split
  · rfl
  · simp [updHome, updSlice]
@[simp] theorem formDeltas_control (r : R s0) (f g : Nat → Byte) (pa n : Nat) : (formDeltas r f g pa n).control = r.control := by
  unfold formDeltas; dsimp only; split <;> simp
@[simp] theorem wakeReq_control (r : R s0) (q : Req) (v : Word) (a : Bool) : (wakeReq r q v a).control = r.control := by
  unfold wakeReq; dsimp only
  rw [when_control]
  · simp [updReq, updHome, updSlice]
  · split <;> simp
@[simp] theorem wakeWaiters_control (r : R s0) (pa n : Nat) : (wakeWaiters r pa n).control = r.control := by
  unfold wakeWaiters
  exact each_control _ (fun r w => by split <;> (try split) <;> (try split) <;> simp) _ _
@[simp] theorem sendFlit_control (r : R s0) (p : Nat) : (sendFlit r p).control = r.control := by simp [sendFlit]
@[simp] theorem askHalf_control (r : R s0) (n : Nat) (h w : Bool) : (askHalf r n h w).control = r.control := by
  have put : ∀ (c : Prop) [Decidable c] (r1 r2 : R s0), r1.control = r.control → r2.control = r.control → (if c then r1 else r2).control = r.control := by
    intro c _ r1 r2 h1 h2; split <;> assumption
  unfold askHalf
  refine put _ _ _ ?_ (put _ _ _ (by simp) rfl)
  dsimp only
  generalize hostPort r.s _ = x
  cases x with
  | none => simp
  | some p => exact put _ _ _ (by simp) (by simp)
@[simp] theorem dirFreeLine_control (r : R s0) (n : Nat) : (dirFreeLine r n).control = r.control := by
  unfold dirFreeLine; dsimp only; split <;> simp [updHome, updSlice]
@[simp] theorem dirRecall_control (r : R s0) (n : Nat) : (dirRecall r n).control = r.control := by
  unfold dirRecall
  simp only [dirFreeLine_control, askHalf_control]
  exact each_control _ (fun r d => by simp) _ _
@[simp] theorem dirGrant_control (r : R s0) (n : Nat) : (dirGrant r n).1.control = r.control := by
  unfold dirGrant; dsimp only; split
  · simp [updHome, updSlice]
  · split <;> simp [updHome, updSlice]
@[simp] theorem recallHalves_control (r : R s0) (pa n : Nat) (w : Bool) : (recallHalves r pa n w).control = r.control := by
  unfold recallHalves; dsimp only; split
  · rfl
  · rw [dirFreeLine_control, when_control _ _ _ (by simp), when_control _ _ _ (by simp)]


/-! ## Writes at a home, records, frames -/

@[simp] theorem homeWrite_control (r : R s0) (o : Owner) (leaf : Word) (plain : Bool) (pa : Nat) (l : List Byte) :
    (homeWrite r o leaf plain pa l).control = r.control := by
  have evict : ∀ z : R s0, (if leafCached leaf then z else homeEvict z pa).control = z.control := by
    intro z; split
    · rfl
    · simp
  have bad : ∀ z : R s0, (if z.s.bad.isEmpty then z else z.eff (.bad (z.s.bad.filter (fun g =>
      !(decide (pa ≤ 8 * g ∧ 8 * g + 8 ≤ pa + l.length)))))).control = z.control := by
    intro z; split <;> rfl
  unfold homeWrite
  dsimp only
  rw [evict, wakeWaiters_control, bad, raiseOwner_control]
  cases o <;> dsimp only <;> split <;> simp

@[simp] theorem putRecord_control (r : R s0) (c : Nat) (l : List Byte) : (putRecord r c l).control = r.control := by
  unfold putRecord
  split
  · simp [setLost]
  · dsimp only; split <;> simp [setLost]

@[simp] theorem numbered_control (r : R s0) (c : Nat) (l : List Byte) : (numbered r c l).control = r.control := by
  unfold numbered; simp

@[simp] theorem flushRecords_control (c n : Nat) : ∀ r : R s0, (flushRecords r c n).control = r.control := by
  induction n with
  | zero => intro r; rfl
  | succ n ih =>
    intro r
    unfold flushRecords
    split
    · rfl
    · split
      · rfl
      · rw [ih]; simp

/-- A record leaves the control tables as they are. -/
@[simp] theorem report_control (r : R s0) (c : Nat) (x : Rec) (u n p : Nat) : (report r c x u n p).control = r.control := by
  unfold report; dsimp only; split <;> simp

@[simp] theorem reportFiring_control (r : R s0) (f : Firing) (x : Rec) : (reportFiring r f x).control = r.control := by
  unfold reportFiring; simp

@[simp] theorem writeFrame_control (r : R s0) (core : Nat) (parts : List Nat) (f : Frame) : (writeFrame r core parts f).control = r.control := by
  unfold writeFrame
  exact each_control _ (fun r i => by split <;> simp) _ _

@[simp] theorem writeBack_control (r : R s0) (core c : Nat) (u : BitVec 13) : (writeBack r core c u).control = r.control := by
  unfold writeBack; split
  · split <;> simp
  · rfl


/-! ## What the module itself writes -/

@[simp] theorem moduleWrite_control (r : R s0) (c va : Nat) (l : List Byte) : (moduleWrite r c va l).control = r.control := by
  unfold moduleWrite; split <;> simp [reportPlain]
@[simp] theorem moduleWrite_rest (r : R s0) (c va : Nat) (l : List Byte) : (moduleWrite r c va l).rest = r.rest := by
  unfold moduleWrite; split <;> simp [reportPlain]

/-- What the control tables tell. -/
theorem control_queue {r q : R s0} (h : r.control = q.control) (n : Nat) : r.s.queue n = q.s.queue n := by
  have := congrArg Prod.fst h; unfold State.queue; exact congrArg _ this
theorem control_group {r q : R s0} (h : r.control = q.control) (n : Nat) : r.s.group n = q.s.group n := by
  have := congrArg (fun z => z.2.1) h; unfold State.group; exact congrArg _ this
theorem control_works {r q : R s0} (h : r.control = q.control) : r.s.works = q.s.works := congrArg (fun z => z.2.2.1) h
theorem control_cluster {r q : R s0} (h : r.control = q.control) (n : Nat) : r.s.cluster n = q.s.cluster n := by
  have := congrArg (fun z => z.2.2.2.2) h; unfold State.cluster; exact congrArg _ this

/-! ## Frames' states -/

/-- Every frame without its copied bits. -/
def R.pages (r : R s0) (f : Nat) : FrameSt := { r.s.frame f with copied := [] }

theorem pages_congr {r q : R s0} (h : r.s.frames = q.s.frames) : r.pages = q.pages := by
  funext f; unfold R.pages State.frame; rw [h]

theorem updFrame_pages (r : R s0) (n : Nat) (f : FrameSt → FrameSt) (h : ∀ k, ({ f k with copied := [] } : FrameSt) = { k with copied := [] }) :
    (updFrame r n f).pages = r.pages := by
  funext m
  unfold R.pages
  rw [updFrame_s]
  unfold Eff.apply
  dsimp only
  split
  · unfold State.frame
    dsimp only
    rw [tabGet_tabSet]
    split
    · next hm => subst hm; exact h _
    · rfl
  · rfl

@[simp] theorem copied_pages (r : R s0) (n : Nat) (g : FrameSt → List Nat) :
    (updFrame r n fun x => { x with copied := g x }).pages = r.pages := updFrame_pages _ _ _ fun _ => rfl
@[simp] theorem updCore_pages (r : R s0) (c : Nat) (f : Core → Core) : (updCore r c f).pages = r.pages := pages_congr (by simp)
@[simp] theorem updCluster_pages (r : R s0) (c : Nat) (f : Cluster → Cluster) : (updCluster r c f).pages = r.pages := pages_congr (by simp)
@[simp] theorem updDie_pages (r : R s0) (c : Nat) (f : Die → Die) : (updDie r c f).pages = r.pages := pages_congr (by simp)
@[simp] theorem updLine_pages (r : R s0) (c : Nat) (f : Line → Line) : (updLine r c f).pages = r.pages := pages_congr (by simp)
@[simp] theorem updCtx_pages (r : R s0) (c : Nat) (f : Ctx → Ctx) : (updCtx r c f).pages = r.pages := pages_congr (by simp)
@[simp] theorem updLink_pages (r : R s0) (c : Nat) (f : Link → Link) : (updLink r c f).pages = r.pages := pages_congr (by simp)
@[simp] theorem updMgmt_pages (r : R s0) (f : Mgmt → Mgmt) : (updMgmt r f).pages = r.pages := pages_congr (by simp)
@[simp] theorem updReqs_pages (r : R s0) (f : List Req → List Req) : (updReqs r f).pages = r.pages := pages_congr (by simp)
@[simp] theorem order_pages (r : R s0) : (r.eff .nextOrder).pages = r.pages := rfl
@[simp] theorem putBytes_pages (l : List Byte) : ∀ (r : R s0) (pa : Nat), (putBytes r pa l).pages = r.pages := by
  induction l with
  | nil => intro r pa; rfl
  | cons b l ih =>
    intro r pa
    unfold putBytes
    rw [ih]
    unfold R.pages
    unfold R.eff Eff.apply
    dsimp only
    split <;> rfl

/-- A fold of effects that keep the frames' states keeps them. -/
theorem each_pages {α : Type} (f : R s0 → α → R s0) (h : ∀ r x, (f r x).pages = r.pages) (l : List α) (r : R s0) :
    (r.each l f).pages = r.pages := by
  induction l generalizing r with
  | nil => rfl
  | cons x l ih => rw [each_cons, ih, h]

@[simp] theorem when_pages (r : R s0) (c : Bool) (f : R s0 → R s0) (h : (f r).pages = r.pages) : (r.when c f).pages = r.pages := by
  cases c
  · rfl
  · exact h

/-! ## What leaves the frames' states as they are -/

@[simp] theorem homeFill_pages (r : R s0) (pa : Nat) : (homeFill r pa).pages = r.pages := by unfold homeFill; split <;> simp
@[simp] theorem homeEvict_pages (r : R s0) (pa : Nat) : (homeEvict r pa).pages = r.pages := by
  simp [homeEvict, updHome, updSlice]
@[simp] theorem raiseM_pages (r : R s0) (t : Nat) : (raiseM r t).pages = r.pages := by simp [raiseM]
@[simp] theorem raiseOwner_pages (r : R s0) (o : Owner) (t : Nat) : (raiseOwner r o t).pages = r.pages := by
  cases o with
  | core c => unfold raiseOwner; simp
  | _ => simp [raiseOwner, updJob]
@[simp] theorem acquireM_pages (r : R s0) (c : Nat) : (acquireM r c).pages = r.pages := by simp [acquireM]
@[simp] theorem grantLease_pages (r : R s0) (pa p n : Nat) : (grantLease r pa p n).pages = r.pages := by simp [grantLease]
@[simp] theorem writeOwn_pages (r : R s0) (c pa : Nat) (l : List Byte) (a w : Nat) : (writeOwn r c pa l a w).pages = r.pages := by
  unfold writeOwn; dsimp only; rw [updDie_pages]; simp
@[simp] theorem countRead_pages (r : R s0) (pa d : Nat) (leaf : Word) : (countRead r pa d leaf).pages = r.pages := by
  unfold countRead; split
  · rfl
  · split
    · rfl
    · rw [order_pages]; simp [updHome, updSlice]
@[simp] theorem countWrite_pages (r : R s0) (pa : Nat) : (countWrite r pa).pages = r.pages := by
  unfold countWrite; split
  · rfl
  · simp [updHome, updSlice]
@[simp] theorem resetLanes_pages (r : R s0) (pa n : Nat) : (resetLanes r pa n).pages = r.pages := by
  unfold resetLanes; split
  · rfl
  · simp [updHome, updSlice]
@[simp] theorem formDeltas_pages (r : R s0) (f g : Nat → Byte) (pa n : Nat) : (formDeltas r f g pa n).pages = r.pages := by
  unfold formDeltas; dsimp only; split <;> simp
@[simp] theorem wakeReq_pages (r : R s0) (q : Req) (v : Word) (a : Bool) : (wakeReq r q v a).pages = r.pages := by
  unfold wakeReq; dsimp only
  rw [when_pages]
  · simp [updReq, updHome, updSlice]
  · split <;> simp
@[simp] theorem wakeWaiters_pages (r : R s0) (pa n : Nat) : (wakeWaiters r pa n).pages = r.pages := by
  unfold wakeWaiters
  exact each_pages _ (fun r w => by split <;> (try split) <;> (try split) <;> simp) _ _
@[simp] theorem sendFlit_pages (r : R s0) (p : Nat) : (sendFlit r p).pages = r.pages := by simp [sendFlit]
@[simp] theorem askHalf_pages (r : R s0) (n : Nat) (h w : Bool) : (askHalf r n h w).pages = r.pages := by
  have put : ∀ (c : Prop) [Decidable c] (r1 r2 : R s0), r1.pages = r.pages → r2.pages = r.pages → (if c then r1 else r2).pages = r.pages := by
    intro c _ r1 r2 h1 h2; split <;> assumption
  unfold askHalf
  refine put _ _ _ ?_ (put _ _ _ (by simp) rfl)
  dsimp only
  generalize hostPort r.s _ = x
  cases x with
  | none => simp
  | some p => exact put _ _ _ (by simp) (by simp)
@[simp] theorem dirFreeLine_pages (r : R s0) (n : Nat) : (dirFreeLine r n).pages = r.pages := by
  unfold dirFreeLine; dsimp only; split <;> simp [updHome, updSlice]
@[simp] theorem dirRecall_pages (r : R s0) (n : Nat) : (dirRecall r n).pages = r.pages := by
  unfold dirRecall
  simp only [dirFreeLine_pages, askHalf_pages]
  exact each_pages _ (fun r d => by simp) _ _
@[simp] theorem dirGrant_pages (r : R s0) (n : Nat) : (dirGrant r n).1.pages = r.pages := by
  unfold dirGrant; dsimp only; split
  · simp [updHome, updSlice]
  · split <;> simp [updHome, updSlice]
@[simp] theorem recallHalves_pages (r : R s0) (pa n : Nat) (w : Bool) : (recallHalves r pa n w).pages = r.pages := by
  unfold recallHalves; dsimp only; split
  · rfl
  · rw [dirFreeLine_pages, when_pages _ _ _ (by simp), when_pages _ _ _ (by simp)]


/-! ## Writes at a home and records, for frames -/

@[simp] theorem homeWrite_pages (r : R s0) (o : Owner) (leaf : Word) (plain : Bool) (pa : Nat) (l : List Byte) :
    (homeWrite r o leaf plain pa l).pages = r.pages := by
  have evict : ∀ z : R s0, (if leafCached leaf then z else homeEvict z pa).pages = z.pages := by
    intro z; split
    · rfl
    · simp
  have bad : ∀ z : R s0, (if z.s.bad.isEmpty then z else z.eff (.bad (z.s.bad.filter (fun g =>
      !(decide (pa ≤ 8 * g ∧ 8 * g + 8 ≤ pa + l.length)))))).pages = z.pages := by
    intro z; split <;> rfl
  unfold homeWrite
  dsimp only
  rw [evict, wakeWaiters_pages, bad, raiseOwner_pages]
  cases o <;> dsimp only <;> split <;> simp

@[simp] theorem putRecord_pages (r : R s0) (c : Nat) (l : List Byte) : (putRecord r c l).pages = r.pages := by
  unfold putRecord
  split
  · simp [setLost]
  · dsimp only; split <;> simp [setLost]

@[simp] theorem numbered_pages (r : R s0) (c : Nat) (l : List Byte) : (numbered r c l).pages = r.pages := by
  unfold numbered; simp

@[simp] theorem flushRecords_pages (c n : Nat) : ∀ r : R s0, (flushRecords r c n).pages = r.pages := by
  induction n with
  | zero => intro r; rfl
  | succ n ih =>
    intro r
    unfold flushRecords
    split
    · rfl
    · split
      · rfl
      · rw [ih]; simp

/-- A record leaves the frames' states as they are. -/
@[simp] theorem report_pages (r : R s0) (c : Nat) (x : Rec) (u n p : Nat) : (report r c x u n p).pages = r.pages := by
  unfold report; dsimp only; split <;> simp

@[simp] theorem reportFiring_pages (r : R s0) (f : Firing) (x : Rec) : (reportFiring r f x).pages = r.pages := by
  unfold reportFiring; simp

@[simp] theorem writeFrame_pages (r : R s0) (core : Nat) (parts : List Nat) (f : Frame) : (writeFrame r core parts f).pages = r.pages := by
  unfold writeFrame
  exact each_pages _ (fun r i => by split <;> simp) _ _

@[simp] theorem writeBack_pages (r : R s0) (core c : Nat) (u : BitVec 13) : (writeBack r core c u).pages = r.pages := by
  unfold writeBack; split
  · split <;> simp
  · rfl


/-! ## What the module itself writes, for frames -/

@[simp] theorem moduleWrite_pages (r : R s0) (c va : Nat) (l : List Byte) : (moduleWrite r c va l).pages = r.pages := by
  unfold moduleWrite; split <;> simp [reportPlain]

/-! ## Jobs -/

/-- Every job of every die's engines, without its tick. -/
def R.jobs (r : R s0) (d e : Nat) : Job := { (r.s.die d).job e with jts := 0 }

theorem jobs_congr {r q : R s0} (h : r.s.dies = q.s.dies) : r.jobs = q.jobs := by
  funext d e; unfold R.jobs State.die; rw [h]

/-- An update of a die that keeps the rest of its jobs. -/
theorem updDie_jobs (r : R s0) (d : Nat) (f : Die → Die) (h : ∀ k e, ({ (f k).job e with jts := 0 } : Job) = { k.job e with jts := 0 }) :
    (updDie r d f).jobs = r.jobs := by
  funext d' e
  unfold R.jobs State.die
  rw [updDie_s]
  unfold Eff.apply
  dsimp only
  split
  · dsimp only
    rw [tabGet_tabSet]
    split
    · next e' => subst e'; exact h _ _
    · rfl
  · rfl
@[simp] theorem updSlice_jobs (r : R s0) (d n : Nat) (f : Slice → Slice) : (updSlice r d n f).jobs = r.jobs := updDie_jobs _ _ _ fun _ _ => rfl
@[simp] theorem updHome_jobs (r : R s0) (pa : Nat) (f : Slice → Slice) : (updHome r pa f).jobs = r.jobs := updSlice_jobs ..
@[simp] theorem updRegion_jobs (r : R s0) (d n : Nat) (f : Region → Region) : (updRegion r d n f).jobs = r.jobs := updDie_jobs _ _ _ fun _ _ => rfl
@[simp] theorem updCore_jobs (r : R s0) (c : Nat) (f : Core → Core) : (updCore r c f).jobs = r.jobs := jobs_congr (by simp)
@[simp] theorem updLine_jobs (r : R s0) (c : Nat) (f : Line → Line) : (updLine r c f).jobs = r.jobs := jobs_congr (by simp)
@[simp] theorem updCtx_jobs (r : R s0) (c : Nat) (f : Ctx → Ctx) : (updCtx r c f).jobs = r.jobs := jobs_congr (by simp)
@[simp] theorem updLink_jobs (r : R s0) (c : Nat) (f : Link → Link) : (updLink r c f).jobs = r.jobs := jobs_congr (by simp)
@[simp] theorem updMgmt_jobs (r : R s0) (f : Mgmt → Mgmt) : (updMgmt r f).jobs = r.jobs := jobs_congr (by simp)
@[simp] theorem updFrame_jobs (r : R s0) (c : Nat) (f : FrameSt → FrameSt) : (updFrame r c f).jobs = r.jobs := jobs_congr (by simp)
@[simp] theorem updReqs_jobs (r : R s0) (f : List Req → List Req) : (updReqs r f).jobs = r.jobs := jobs_congr (by simp)
@[simp] theorem order_jobs (r : R s0) : (r.eff .nextOrder).jobs = r.jobs := rfl
@[simp] theorem putBytes_jobs (l : List Byte) : ∀ (r : R s0) (pa : Nat), (putBytes r pa l).jobs = r.jobs := by
  induction l with
  | nil => intro r pa; rfl
  | cons b l ih =>
    intro r pa
    unfold putBytes
    rw [ih]
    exact jobs_congr (by simp [R.eff])

/-- A fold of effects that keep jobs keeps them. -/
theorem each_jobs {α : Type} (f : R s0 → α → R s0) (h : ∀ r x, (f r x).jobs = r.jobs) (l : List α) (r : R s0) :
    (r.each l f).jobs = r.jobs := by
  induction l generalizing r with
  | nil => rfl
  | cons x l ih => rw [each_cons, ih, h]

@[simp] theorem when_jobs (r : R s0) (c : Bool) (f : R s0 → R s0) (h : (f r).jobs = r.jobs) : (r.when c f).jobs = r.jobs := by
  cases c
  · rfl
  · exact h

/-! ## What leaves jobs as they are -/

@[simp] theorem homeFill_jobs (r : R s0) (pa : Nat) : (homeFill r pa).jobs = r.jobs := by unfold homeFill; split <;> simp
@[simp] theorem homeEvict_jobs (r : R s0) (pa : Nat) : (homeEvict r pa).jobs = r.jobs := by
  simp [homeEvict]
@[simp] theorem raiseM_jobs (r : R s0) (t : Nat) : (raiseM r t).jobs = r.jobs := by simp [raiseM]
@[simp] theorem raiseOwner_jobs (r : R s0) (o : Owner) (t : Nat) : (raiseOwner r o t).jobs = r.jobs := by
  cases o with
  | core c => unfold raiseOwner; simp
  | job d e =>
    unfold raiseOwner
    rw [raiseM_jobs]
    refine updDie_jobs _ _ _ fun k e' => ?_
    unfold Die.job
    dsimp only
    rw [tabGet_tabSet]
    split
    · next h => subst h; rfl
    · rfl
  | _ => simp [raiseOwner]
@[simp] theorem acquireM_jobs (r : R s0) (c : Nat) : (acquireM r c).jobs = r.jobs := by simp [acquireM]
@[simp] theorem grantLease_jobs (r : R s0) (pa p n : Nat) : (grantLease r pa p n).jobs = r.jobs := by simp [grantLease]
@[simp] theorem writeOwn_jobs (r : R s0) (c pa : Nat) (l : List Byte) (a w : Nat) : (writeOwn r c pa l a w).jobs = r.jobs := by
  unfold writeOwn; dsimp only
  refine (updDie_jobs _ _ _ ?_).trans (updCore_jobs ..)
  intro _ _; rfl
@[simp] theorem countRead_jobs (r : R s0) (pa d : Nat) (leaf : Word) : (countRead r pa d leaf).jobs = r.jobs := by
  unfold countRead; split
  · rfl
  · split
    · rfl
    · rw [order_jobs]; simp
@[simp] theorem countWrite_jobs (r : R s0) (pa : Nat) : (countWrite r pa).jobs = r.jobs := by
  unfold countWrite; split
  · rfl
  · simp
@[simp] theorem resetLanes_jobs (r : R s0) (pa n : Nat) : (resetLanes r pa n).jobs = r.jobs := by
  unfold resetLanes; split
  · rfl
  · simp
@[simp] theorem formDeltas_jobs (r : R s0) (f g : Nat → Byte) (pa n : Nat) : (formDeltas r f g pa n).jobs = r.jobs := by
  unfold formDeltas; dsimp only; split
  · rfl
  · refine updDie_jobs _ _ _ ?_
    intro _ _; rfl
@[simp] theorem wakeReq_jobs (r : R s0) (q : Req) (v : Word) (a : Bool) : (wakeReq r q v a).jobs = r.jobs := by
  unfold wakeReq; dsimp only
  rw [when_jobs]
  · simp [updReq]
  · split <;> simp
@[simp] theorem wakeWaiters_jobs (r : R s0) (pa n : Nat) : (wakeWaiters r pa n).jobs = r.jobs := by
  unfold wakeWaiters
  exact each_jobs _ (fun r w => by split <;> (try split) <;> (try split) <;> simp) _ _
@[simp] theorem sendFlit_jobs (r : R s0) (p : Nat) : (sendFlit r p).jobs = r.jobs := by simp [sendFlit]
@[simp] theorem askHalf_jobs (r : R s0) (n : Nat) (h w : Bool) : (askHalf r n h w).jobs = r.jobs := by
  have put : ∀ (c : Prop) [Decidable c] (r1 r2 : R s0), r1.jobs = r.jobs → r2.jobs = r.jobs → (if c then r1 else r2).jobs = r.jobs := by
    intro c _ r1 r2 h1 h2; split <;> assumption
  unfold askHalf
  refine put _ _ _ ?_ (put _ _ _ (by simp) rfl)
  dsimp only
  generalize hostPort r.s _ = x
  cases x with
  | none => simp
  | some p => exact put _ _ _ (by simp) (by simp)
@[simp] theorem dirFreeLine_jobs (r : R s0) (n : Nat) : (dirFreeLine r n).jobs = r.jobs := by
  unfold dirFreeLine; dsimp only; split <;> simp
@[simp] theorem dirRecall_jobs (r : R s0) (n : Nat) : (dirRecall r n).jobs = r.jobs := by
  unfold dirRecall
  simp only [dirFreeLine_jobs, askHalf_jobs]
  refine each_jobs _ (fun r d => ?_) _ _
  refine updDie_jobs _ _ _ ?_
  intro _ _; rfl
@[simp] theorem dirGrant_jobs (r : R s0) (n : Nat) : (dirGrant r n).1.jobs = r.jobs := by
  unfold dirGrant; dsimp only; split
  · simp
  · split <;> simp
@[simp] theorem recallHalves_jobs (r : R s0) (pa n : Nat) (w : Bool) : (recallHalves r pa n w).jobs = r.jobs := by
  unfold recallHalves; dsimp only; split
  · rfl
  · rw [dirFreeLine_jobs, when_jobs _ _ _ (by simp), when_jobs _ _ _ (by simp)]


/-! ## Writes at a home, records, frames -/

@[simp] theorem homeWrite_jobs (r : R s0) (o : Owner) (leaf : Word) (plain : Bool) (pa : Nat) (l : List Byte) :
    (homeWrite r o leaf plain pa l).jobs = r.jobs := by
  have evict : ∀ z : R s0, (if leafCached leaf then z else homeEvict z pa).jobs = z.jobs := by
    intro z; split
    · rfl
    · simp
  have bad : ∀ z : R s0, (if z.s.bad.isEmpty then z else z.eff (.bad (z.s.bad.filter (fun g =>
      !(decide (pa ≤ 8 * g ∧ 8 * g + 8 ≤ pa + l.length)))))).jobs = z.jobs := by
    intro z; split <;> rfl
  unfold homeWrite
  dsimp only
  rw [evict, wakeWaiters_jobs, bad, raiseOwner_jobs]
  cases o <;> dsimp only <;> split <;> simp

@[simp] theorem putRecord_jobs (r : R s0) (c : Nat) (l : List Byte) : (putRecord r c l).jobs = r.jobs := by
  unfold putRecord
  split
  · simp [setLost]
  · dsimp only; split <;> simp [setLost]

@[simp] theorem numbered_jobs (r : R s0) (c : Nat) (l : List Byte) : (numbered r c l).jobs = r.jobs := by
  unfold numbered; simp

@[simp] theorem flushRecords_jobs (c n : Nat) : ∀ r : R s0, (flushRecords r c n).jobs = r.jobs := by
  induction n with
  | zero => intro r; rfl
  | succ n ih =>
    intro r
    unfold flushRecords
    split
    · rfl
    · split
      · rfl
      · rw [ih]; simp

/-- A record leaves jobs as they are. -/
@[simp] theorem report_jobs (r : R s0) (c : Nat) (x : Rec) (u n p : Nat) : (report r c x u n p).jobs = r.jobs := by
  unfold report; dsimp only; split <;> simp

@[simp] theorem reportFiring_jobs (r : R s0) (f : Firing) (x : Rec) : (reportFiring r f x).jobs = r.jobs := by
  unfold reportFiring; simp

@[simp] theorem writeFrame_jobs (r : R s0) (core : Nat) (parts : List Nat) (f : Frame) : (writeFrame r core parts f).jobs = r.jobs := by
  unfold writeFrame
  exact each_jobs _ (fun r i => by split <;> simp) _ _

@[simp] theorem writeBack_jobs (r : R s0) (core c : Nat) (u : BitVec 13) : (writeBack r core c u).jobs = r.jobs := by
  unfold writeBack; split
  · split <;> simp
  · rfl


/-! ## What the module itself writes -/

@[simp] theorem moduleWrite_jobs (r : R s0) (c va : Nat) (l : List Byte) : (moduleWrite r c va l).jobs = r.jobs := by
  unfold moduleWrite; split <;> simp [reportPlain]



end Sys2Proof.Machine
end

