-- ==== Sys2Proof/Laws/Numbers.lean ====
section
/-!
SUPPORT. Lanes: the lane of a packed result, the bits above the lanes, and the lane lists of operands.
-/

namespace Sys2Proof.Machine

open Sys2Proof

theorem packN_lt (w : Nat) (l : List Nat) : packN w l < 2 ^ (w * l.length) := by
  induction l with
  | nil => simp [packN]
  | cons x l ih =>
    have h1 : x % 2 ^ w < 2 ^ w := Nat.mod_lt _ (Nat.two_pow_pos w)
    have h2 : 2 ^ (w * (l.length + 1)) = 2 ^ w * 2 ^ (w * l.length) := by rw [← pow_add]; congr 1; ring
    simp only [packN, List.length_cons, h2]
    calc x % 2 ^ w + 2 ^ w * packN w l < 2 ^ w + 2 ^ w * packN w l := by omega
      _ = 2 ^ w * (packN w l + 1) := by ring
      _ ≤ 2 ^ w * 2 ^ (w * l.length) := Nat.mul_le_mul_left _ ih

theorem bitsN_packN (w : Nat) (l : List Nat) (i : Nat) (h : i < l.length) :
    bitsN (packN w l) (w * i) w = l[i] % 2 ^ w := by
  induction l generalizing i with
  | nil => simp at h
  | cons x l ih =>
    have hp : 0 < 2 ^ w := Nat.two_pow_pos w
    have h1 : x % 2 ^ w < 2 ^ w := Nat.mod_lt _ hp
    cases i with
    | zero => simp [bitsN, packN, Nat.add_mul_mod_self_left]
    | succ i =>
      have := ih i (by simpa using h)
      simp only [bitsN, packN, List.getElem_cons_succ] at this ⊢
      rw [← this, Nat.mul_succ, Nat.add_comm (w * i) w, pow_add, ← Nat.div_div_eq_div_mul]
      rw [Nat.add_mul_div_left _ _ hp, Nat.div_eq_of_lt h1, Nat.zero_add]

theorem tyWidth_mul_tyLanes (ty : Ty) : tyWidth ty * tyLanes ty ≤ 64 := by cases ty <;> decide

theorem lanesOf_length (ty : Ty) (v : Word) : (lanesOf ty v).length = tyLanes ty := by simp [lanesOf]

theorem lanesOf_getElem (ty : Ty) (v : Word) (i : Nat) (h : i < (lanesOf ty v).length) :
    (lanesOf ty v)[i] = laneOf (tyWidth ty) i v := by simp [lanesOf]

theorem laneOf_lt (w i : Nat) (v : Word) : laneOf w i v < 2 ^ w := Nat.mod_lt _ (Nat.two_pow_pos w)

theorem laneOf_ofNat_packN (ty : Ty) (l : List Nat) (hl : l.length = tyLanes ty) (i : Nat) (h : i < l.length) :
    laneOf (tyWidth ty) i (BitVec.ofNat 64 (packN (tyWidth ty) l)) = l[i] % 2 ^ tyWidth ty := by
  have h1 := packN_lt (tyWidth ty) l
  have h2 : 2 ^ (tyWidth ty * l.length) ≤ 2 ^ 64 := Nat.pow_le_pow_right (by omega) (hl ▸ tyWidth_mul_tyLanes ty)
  unfold laneOf
  rw [BitVec.toNat_ofNat, Nat.mod_eq_of_lt (by omega), bitsN_packN]

theorem sInt32_low (x : Nat) (h : x < 2 ^ 32) : (BitVec.ofInt 64 (sInt 32 x)).toNat % 2 ^ 32 = x := by
  simp only [sInt, pow2, BitVec.toNat_ofInt]
  split <;> omega

/-- A lane of a result (R73). -/
theorem laneOf_fillTy (ty : Ty) (l : List Nat) (hl : l.length = tyLanes ty) (i : Nat) (h : i < l.length) :
    laneOf (tyWidth ty) i (fillTy ty l) = l[i] % 2 ^ tyWidth ty := by
  by_cases hs : ty = .s32
  · subst hs
    simp only [tyLanes] at hl
    have hi : i = 0 := by omega
    subst hi
    match l, hl with
    | [x], _ =>
      simp only [fillTy, packN, tyWidth, laneOf, bitsN, List.getElem_cons_zero, Nat.mul_zero, pow_zero, Nat.div_one,
        Nat.add_zero]
      rw [sInt32_low _ (Nat.mod_lt _ (by decide)), Nat.mod_mod]
  · have : fillTy ty l = BitVec.ofNat 64 (packN (tyWidth ty) l) := by cases ty <;> first | rfl | exact absurd rfl hs
    rw [this, laneOf_ofNat_packN ty l hl i h]

/-- Above the lanes a result is zero, or under s32 the sign. -/
theorem fillTy_lt (ty : Ty) (l : List Nat) (hl : l.length = tyLanes ty) (hs : ty ≠ .s32) :
    (fillTy ty l).toNat < 2 ^ (tyLanes ty * tyWidth ty) := by
  have h1 := packN_lt (tyWidth ty) l
  have h2 : 2 ^ (tyWidth ty * l.length) ≤ 2 ^ 64 := Nat.pow_le_pow_right (by omega) (hl ▸ tyWidth_mul_tyLanes ty)
  have : fillTy ty l = BitVec.ofNat 64 (packN (tyWidth ty) l) := by cases ty <;> first | rfl | exact absurd rfl hs
  rw [this, BitVec.toNat_ofNat, Nat.mod_eq_of_lt (by omega), Nat.mul_comm, ← hl]
  exact h1

theorem fillTy_s32 (l : List Nat) : fillTy .s32 l = ((fillTy .s32 l).extractLsb' 0 32).signExtend 64 := by
  have key : ∀ x : Nat, x < 2 ^ 32 →
      (BitVec.ofInt 64 (sInt 32 x) : Word) = ((BitVec.ofInt 64 (sInt 32 x) : Word).extractLsb' 0 32).signExtend 64 := by
    intro x hx
    have h0 : (BitVec.ofInt 64 (sInt 32 x) : Word).extractLsb' 0 32 = BitVec.ofNat 32 x := by
      apply BitVec.eq_of_toNat_eq
      rw [BitVec.extractLsb'_toNat, BitVec.toNat_ofNat, Nat.shiftRight_zero, sInt32_low x hx, Nat.mod_eq_of_lt hx]
    rw [h0]
    apply BitVec.eq_of_toInt_eq
    rw [BitVec.toInt_signExtend_of_le (by omega), BitVec.toInt_ofNat', BitVec.toInt_ofInt]
    simp only [sInt, pow2, Int.bmod]
    split <;> omega
  exact key _ (Nat.mod_lt _ (by decide))

end Sys2Proof.Machine
end

