-- ==== Sys2Proof/Laws/Ops.lean ====
section
/-!
SUPPORT. What the shared operations do, said once: the operand rules, the tokens of a firing, requests, and the firing of
instructions that only compute.
-/

namespace Sys2Proof.Machine

open Sys2Proof

variable {s0 : State}

/-! ## Operand rules (R45, R46) -/

@[simp] theorem predRule_always (p : Tok) : predRule .always p = .fire := rfl

theorem predRule_onTrue {p : Tok} (hk : p.kind = .data) (hv : p.value ≠ 0) : predRule .onTrue p = .fire := by
  simp [predRule, hk]; exact hv

theorem predRule_onFalse {p : Tok} (hk : p.kind = .data) (hv : p.value = 0) : predRule .onFalse p = .fire := by
  simp [predRule, hk, hv]

/-- DATA operands decide nothing. -/
theorem kindRule_data (l : List Tok) (h : ∀ t ∈ l, t.kind = .data) : kindRule l = none := by
  have h1 : l.any (fun t => t.kind = .null) = false := by
    simp only [List.any_eq_false, decide_eq_true_eq]; intro t ht; simp [h t ht]
  have h2 : l.find? (fun t => isStop t.kind) = none := by
    simp only [List.find?_eq_none]; intro t ht; simp [h t ht, isStop]
  have h3 : l.find? (fun t => t.kind = .error) = none := by
    simp only [List.find?_eq_none, decide_eq_true_eq]; intro t ht; simp [h t ht]
  simp [kindRule, h1, h2, h3]

/-- A NULL operand decides before every other kind. -/
theorem kindRule_null (l : List Tok) (t : Tok) (ht : t ∈ l) (hk : t.kind = .null) : kindRule l = some (.null, 0) := by
  have h1 : l.any (fun t => t.kind = .null) = true := by
    simp only [List.any_eq_true, decide_eq_true_eq]; exact ⟨t, ht, hk⟩
  simp [kindRule, h1]

theorem ruled_body {h : Hdr} {f : Firing} {ops : List Tok} (tg : List Target) (body : Res)
    (hp : predRule h.pm (opTok f.p) = .fire) (hd : ∀ t ∈ ops, t.kind = .data) : ruled h tg f ops body = body := by
  simp [ruled, hp, kindRule_data ops hd]

theorem ruledOwn_body {h : Hdr} {f : Firing} (tg : List Target) (g : Bool) (body : Res)
    (hp : predRule h.pm (opTok f.p) = .fire) : ruledOwn h tg f g body = body := by
  simp [ruledOwn, hp]

/-! ## Walks (R358) -/

/-- A walk at level 0: the entry is a leaf, absent or malformed. -/
theorem walkFrom_zero (s : State) (va ta : Nat) : walkFrom s va 0 ta =
    let ea := ta + 8 * (va / 2 ^ (8 * 0 + 16) % 2 ^ 8)
    let e := s.nat (localPa s ea) 8
    if e % 2 = 0 then .fault false 0 ea
    else if malformed e 0 then .fault true 0 ea
    else if field e 1 1 = 1 then
      let k := 8 * 0 + 16
      .ok (field e 51 k * 2 ^ k + va % 2 ^ k) (BitVec.ofNat 64 e) 0 ea
    else .fault true 0 ea := rfl

/-- A walk at a level above 0: a leaf there, or the walk of the next table. -/
theorem walkFrom_succ (s : State) (va ta l : Nat) : walkFrom s va (l + 1) ta =
    let ea := ta + 8 * (va / 2 ^ (8 * (l + 1) + 16) % 2 ^ 8)
    let e := s.nat (localPa s ea) 8
    if e % 2 = 0 then .fault false (l + 1) ea
    else if malformed e (l + 1) then .fault true (l + 1) ea
    else if field e 1 1 = 1 then
      let k := 8 * (l + 1) + 16
      .ok (field e 51 k * 2 ^ k + va % 2 ^ k) (BitVec.ofNat 64 e) (l + 1) ea
    else walkFrom s va l (field e 51 11 * 2 ^ 11) := rfl

/-- A walk reads memory and nothing else. -/
theorem walkFrom_congr {s t : State} (hm : s.mem = t.mem) (va : Nat) :
    ∀ lv ta, walkFrom s va lv ta = walkFrom t va lv ta := by
  have hn : ∀ a n, s.nat a n = t.nat a n := fun a n => by simp only [State.nat, State.bytes, State.byte, hm]
  have hl : ∀ a, localPa s a = localPa t a := fun a => rfl
  intro lv
  induction lv with
  | zero => intro ta; rw [walkFrom_zero, walkFrom_zero]; simp only [hn, hl]
  | succ l ih => intro ta; rw [walkFrom_succ, walkFrom_succ]; simp only [hn, hl, ih]

theorem walk_congr {s t : State} (hm : s.mem = t.mem) (hx : s.ctxs = t.ctxs) (c va : Nat) :
    walk s c va = walk t c va := by
  have : s.ctx c = t.ctx c := by unfold State.ctx; rw [hx]
  unfold walk
  rw [this]
  dsimp only
  rw [walkFrom_congr hm]

/-! ## Tokens -/

/-- Tokens set out: the core's tokens in flight, and nothing else. -/
theorem emitSends_s (r : R s0) (f : Firing) (l : List Send) (hc : f.core < 128) :
    (emitSends r f l).s = { r.s with
      cores := tabSet Core.init f.core { r.s.core f.core with flights := (r.s.core f.core).flights ++ l.filterMap (flightOf r.s f) } r.s.cores } := by
  simp only [emitSends, updCore_s]
  exact if_pos hc

/-- An instruction whose effect is its tokens, on a PE that passes its check. -/
theorem fireRes_sends (s : State) (x : Res) (hc : s.cur.core < 128) (hp : peFails s s.cur = false) (hf : x.fl = fNone) :
    fireRes s x = .next { s with
      cores := tabSet Core.init s.cur.core
        { s.core s.cur.core with flights := (s.core s.cur.core).flights ++ x.sends.filterMap (flightOf s s.cur) } s.cores } := by
  simp only [fireRes, finish, done_eq, orFlagsOf, hf, if_true, start_s, hp, when_false]
  rw [emitSends_s _ _ _ hc]
  rfl

/-- A firing without a carry bit among its operands lifts nothing (R401). -/
theorem liftCarry_none (r : R s0) (f : Firing) (h : f.carry = false) : liftCarry r f = r := by simp [liftCarry, h]

/-- Request `id` gets a new field by field form: nothing but the list of requests changes. -/
theorem addReq_s (r : R s0) (mk : Nat → Req) :
    (addReq r mk).s = { r.s with reqs := r.s.reqs ++ [mk r.s.nextId], nextId := r.s.nextId + 1 } := rfl

end Sys2Proof.Machine
end

