-- ==== Sys2Proof/Laws/PerInstr.lean ====
section
/-!
SUPPORT. Of every instruction: each field of its word is within the width that R95 gives it (an event has no word).
-/

namespace Sys2Proof.Laws.Encoding

open Sys2Proof Sys2Proof.Machine

/-- The fields of the instruction's word are within their widths (R95, R101). -/
def Statement (i : Instr) : Prop :=
  ∀ r, toRaw i = some r → r.op < 2 ^ 8 ∧ r.pm < 3 ∧ r.ty < 2 ^ 4 ∧ r.md < 2 ^ 4 ∧ r.t1 < 2 ^ 9 ∧ r.t0 < 2 ^ 9 ∧ r.low < 2 ^ 28 ∧
    r.ext < 2 ^ 64

/-- An event has no word. -/
theorem event {i : Instr} (h : toRaw i = none) : Statement i := fun r hr => by rw [h] at hr; cases hr

/-- A word of its parts. -/
theorem word {i : Instr} {op : Nat} {h : Hdr} {ty md low ext : Nat} (hi : toRaw i = some (rawOf op h ty md low ext)) (h1 : op < 2 ^ 8)
    (h2 : ty < 2 ^ 4) (h3 : md < 2 ^ 4) (h4 : low < 2 ^ 28) (h5 : ext < 2 ^ 64) : Statement i := fun r hr => by
  rw [hi] at hr; cases hr
  exact ⟨h1, encPm_lt _, h2, h3, encT_lt _, encT_lt _, h4, h5⟩

theorem tyCode_lt (t : Ty) : tyCode t < 2 ^ 4 := by cases t <;> decide
theorem bitN_lt (b : Bool) : bitN b < 2 := by cases b <;> decide
theorem encRound_lt (r : Round) : encRound r < 2 ^ 4 := by rcases r with ⟨m, s⟩; cases m <;> cases s <;> decide
theorem memMd_lt (m : Mem) : memMd m < 2 ^ 4 := by rcases m with ⟨c, o, k, l, s, f⟩; cases c <;> cases o <;> cases k <;> simp [memMd, bitN, encOrder]
theorem memLow_lt (m : Mem) : memLow m < 2 ^ 28 := by
  have := m.lsid.isLt; have := m.scope.isLt; have := m.off.isLt
  unfold memLow; omega

theorem mov (h : Hdr) : Statement (.mov h) := word rfl (by decide) (by decide) (by decide) (by decide) (by decide)
theorem fan3 (h : Hdr) (t2 : Target) : Statement (.fan3 h t2) :=
  word rfl (by decide) (by decide) (by decide) (by have := encT_lt t2; omega) (by decide)
theorem fan4 (h : Hdr) (t2 : Target) (t3 : Target) : Statement (.fan4 h t2 t3) :=
  word rfl (by decide) (by decide) (by decide) (by have := encT_lt t2; omega) (by have := encT_lt t3; omega)
theorem nul (h : Hdr) : Statement (.nul h) := word rfl (by decide) (by decide) (by decide) (by decide) (by decide)
theorem steer (h : Hdr) (n : Bool) : Statement (.steer h n) :=
  word rfl (by decide) (by decide) (by have := bitN_lt n; omega) (by decide) (by decide)
theorem gate (h : Hdr) (n : Bool) : Statement (.gate h n) :=
  word rfl (by decide) (by decide) (by have := bitN_lt n; omega) (by decide) (by decide)
theorem merge (h : Hdr) : Statement (.merge h) := word rfl (by decide) (by decide) (by decide) (by decide) (by decide)
theorem iter (h : Hdr) (w : Fin 1024) : Statement (.iter h w) :=
  word rfl (by decide) (by decide) (by decide) (by have := w.isLt; omega) (by decide)
theorem iterx (h : Hdr) (imm : Option (BitVec 16)) : Statement (.iterx h imm) := by
  cases imm with
  | none => exact word rfl (by decide) (by decide) (by decide) (by decide) (by decide)
  | some k => exact word rfl (by decide) (by decide) (show 1 < 2 ^ 4 by decide) (by have := k.isLt; show k.toNat < _; omega) (by decide)
theorem tagget (h : Hdr) : Statement (.tagget h) := word rfl (by decide) (by decide) (by decide) (by decide) (by decide)
theorem tagset (h : Hdr) : Statement (.tagset h) := word rfl (by decide) (by decide) (by decide) (by decide) (by decide)
theorem slotset (h : Hdr) (s : Fin 7) : Statement (.slotset h s) :=
  word rfl (by decide) (by decide) (by decide) (by have := s.isLt; omega) (by decide)
theorem sticky (h : Hdr) : Statement (.sticky h) := word rfl (by decide) (by decide) (by decide) (by decide) (by decide)
theorem purge (h : Hdr) : Statement (.purge h) := word rfl (by decide) (by decide) (by decide) (by decide) (by decide)
theorem stop (h : Hdr) (l : Fin 4) : Statement (.stop h l) :=
  word rfl (by decide) (by decide) (by decide) (by have := l.isLt; omega) (by decide)
theorem stopt (h : Hdr) (l : Fin 4) : Statement (.stopt h l) :=
  word rfl (by decide) (by decide) (by decide) (by have := l.isLt; omega) (by decide)
theorem add (h : Hdr) (ty : Ty) : Statement (.add h ty) := word rfl (by decide) (tyCode_lt _) (by decide) (by decide) (by decide)
theorem sub (h : Hdr) (ty : Ty) : Statement (.sub h ty) := word rfl (by decide) (tyCode_lt _) (by decide) (by decide) (by decide)
theorem adds (h : Hdr) (ty : Ty) : Statement (.adds h ty) := word rfl (by decide) (tyCode_lt _) (by decide) (by decide) (by decide)
theorem subs (h : Hdr) (ty : Ty) : Statement (.subs h ty) := word rfl (by decide) (tyCode_lt _) (by decide) (by decide) (by decide)
theorem neg (h : Hdr) (ty : Ty) : Statement (.neg h ty) := word rfl (by decide) (tyCode_lt _) (by decide) (by decide) (by decide)
theorem abs (h : Hdr) (ty : Ty) : Statement (.abs h ty) := word rfl (by decide) (tyCode_lt _) (by decide) (by decide) (by decide)
theorem mul (h : Hdr) (ty : Ty) : Statement (.mul h ty) := word rfl (by decide) (tyCode_lt _) (by decide) (by decide) (by decide)
theorem mulh (h : Hdr) (ty : Ty) : Statement (.mulh h ty) := word rfl (by decide) (tyCode_lt _) (by decide) (by decide) (by decide)
theorem div (h : Hdr) (ty : Ty) : Statement (.div h ty) := word rfl (by decide) (tyCode_lt _) (by decide) (by decide) (by decide)
theorem rem (h : Hdr) (ty : Ty) : Statement (.rem h ty) := word rfl (by decide) (tyCode_lt _) (by decide) (by decide) (by decide)
theorem min (h : Hdr) (ty : Ty) : Statement (.min h ty) := word rfl (by decide) (tyCode_lt _) (by decide) (by decide) (by decide)
theorem max (h : Hdr) (ty : Ty) : Statement (.max h ty) := word rfl (by decide) (tyCode_lt _) (by decide) (by decide) (by decide)
theorem lea (h : Hdr) (ty : Ty) (s : Fin 8) (off : BitVec 17) : Statement (.lea h ty s off) :=
  word rfl (by decide) (tyCode_lt _) (by decide) (by have := s.isLt; have := off.isLt; omega) (by decide)
theorem sel (h : Hdr) (ty : Ty) : Statement (.sel h ty) := word rfl (by decide) (tyCode_lt _) (by decide) (by decide) (by decide)
theorem sext (h : Hdr) (ty : Ty) (n : Fin 64) : Statement (.sext h ty n) :=
  word rfl (by decide) (tyCode_lt _) (by decide) (by have := n.isLt; omega) (by decide)
theorem zext (h : Hdr) (ty : Ty) (n : Fin 64) : Statement (.zext h ty n) :=
  word rfl (by decide) (tyCode_lt _) (by decide) (by have := n.isLt; omega) (by decide)
theorem and (h : Hdr) (ty : Ty) : Statement (.and h ty) := word rfl (by decide) (tyCode_lt _) (by decide) (by decide) (by decide)
theorem or (h : Hdr) (ty : Ty) : Statement (.or h ty) := word rfl (by decide) (tyCode_lt _) (by decide) (by decide) (by decide)
theorem xor (h : Hdr) (ty : Ty) : Statement (.xor h ty) := word rfl (by decide) (tyCode_lt _) (by decide) (by decide) (by decide)
theorem andn (h : Hdr) (ty : Ty) : Statement (.andn h ty) := word rfl (by decide) (tyCode_lt _) (by decide) (by decide) (by decide)
theorem not (h : Hdr) (ty : Ty) : Statement (.not h ty) := word rfl (by decide) (tyCode_lt _) (by decide) (by decide) (by decide)
theorem shl (h : Hdr) (ty : Ty) : Statement (.shl h ty) := word rfl (by decide) (tyCode_lt _) (by decide) (by decide) (by decide)
theorem shr (h : Hdr) (ty : Ty) : Statement (.shr h ty) := word rfl (by decide) (tyCode_lt _) (by decide) (by decide) (by decide)
theorem sra (h : Hdr) (ty : Ty) : Statement (.sra h ty) := word rfl (by decide) (tyCode_lt _) (by decide) (by decide) (by decide)
theorem rol (h : Hdr) (ty : Ty) : Statement (.rol h ty) := word rfl (by decide) (tyCode_lt _) (by decide) (by decide) (by decide)
theorem clz (h : Hdr) (ty : Ty) : Statement (.clz h ty) := word rfl (by decide) (tyCode_lt _) (by decide) (by decide) (by decide)
theorem ctz (h : Hdr) (ty : Ty) : Statement (.ctz h ty) := word rfl (by decide) (tyCode_lt _) (by decide) (by decide) (by decide)
theorem popc (h : Hdr) (ty : Ty) : Statement (.popc h ty) := word rfl (by decide) (tyCode_lt _) (by decide) (by decide) (by decide)
theorem bswap (h : Hdr) (ty : Ty) : Statement (.bswap h ty) := word rfl (by decide) (tyCode_lt _) (by decide) (by decide) (by decide)
theorem teq (h : Hdr) (ty : Ty) : Statement (.teq h ty) := word rfl (by decide) (tyCode_lt _) (by decide) (by decide) (by decide)
theorem tne (h : Hdr) (ty : Ty) : Statement (.tne h ty) := word rfl (by decide) (tyCode_lt _) (by decide) (by decide) (by decide)
theorem tlt (h : Hdr) (ty : Ty) : Statement (.tlt h ty) := word rfl (by decide) (tyCode_lt _) (by decide) (by decide) (by decide)
theorem tle (h : Hdr) (ty : Ty) : Statement (.tle h ty) := word rfl (by decide) (tyCode_lt _) (by decide) (by decide) (by decide)
theorem addi (h : Hdr) (ty : Ty) (imm : BitVec 20) : Statement (.addi h ty imm) :=
  word rfl (by decide) (tyCode_lt _) (by decide) (by have := imm.isLt; omega) (by decide)
theorem andi (h : Hdr) (ty : Ty) (imm : BitVec 20) : Statement (.andi h ty imm) :=
  word rfl (by decide) (tyCode_lt _) (by decide) (by have := imm.isLt; omega) (by decide)
theorem ori (h : Hdr) (ty : Ty) (imm : BitVec 20) : Statement (.ori h ty imm) :=
  word rfl (by decide) (tyCode_lt _) (by decide) (by have := imm.isLt; omega) (by decide)
theorem xori (h : Hdr) (ty : Ty) (imm : BitVec 20) : Statement (.xori h ty imm) :=
  word rfl (by decide) (tyCode_lt _) (by decide) (by have := imm.isLt; omega) (by decide)
theorem shli (h : Hdr) (ty : Ty) (k : Fin 64) : Statement (.shli h ty k) :=
  word rfl (by decide) (tyCode_lt _) (by decide) (by have := k.isLt; omega) (by decide)
theorem shri (h : Hdr) (ty : Ty) (k : Fin 64) : Statement (.shri h ty k) :=
  word rfl (by decide) (tyCode_lt _) (by decide) (by have := k.isLt; omega) (by decide)
theorem srai (h : Hdr) (ty : Ty) (k : Fin 64) : Statement (.srai h ty k) :=
  word rfl (by decide) (tyCode_lt _) (by decide) (by have := k.isLt; omega) (by decide)
theorem teqi (h : Hdr) (ty : Ty) (imm : BitVec 20) : Statement (.teqi h ty imm) :=
  word rfl (by decide) (tyCode_lt _) (by decide) (by have := imm.isLt; omega) (by decide)
theorem tlti (h : Hdr) (ty : Ty) (imm : BitVec 20) : Statement (.tlti h ty imm) :=
  word rfl (by decide) (tyCode_lt _) (by decide) (by have := imm.isLt; omega) (by decide)
theorem tlei (h : Hdr) (ty : Ty) (imm : BitVec 20) : Statement (.tlei h ty imm) :=
  word rfl (by decide) (tyCode_lt _) (by decide) (by have := imm.isLt; omega) (by decide)
theorem movi (h : Hdr) (ty : Ty) (imm : BitVec 20) : Statement (.movi h ty imm) :=
  word rfl (by decide) (tyCode_lt _) (by decide) (by have := imm.isLt; omega) (by decide)
theorem movhi (h : Hdr) (ty : Ty) (imm : BitVec 20) : Statement (.movhi h ty imm) :=
  word rfl (by decide) (tyCode_lt _) (by decide) (by have := imm.isLt; omega) (by decide)
theorem movx (h : Hdr) (ty : Ty) (v : Word) : Statement (.movx h ty v) :=
  word rfl (by decide) (tyCode_lt _) (by decide) (by decide) (by have := v.isLt; omega)
theorem fadd (h : Hdr) (ty : Ty) (r : Round) : Statement (.fadd h ty r) :=
  word rfl (by decide) (tyCode_lt _) (encRound_lt r) (by decide) (by decide)
theorem fsub (h : Hdr) (ty : Ty) (r : Round) : Statement (.fsub h ty r) :=
  word rfl (by decide) (tyCode_lt _) (encRound_lt r) (by decide) (by decide)
theorem fmul (h : Hdr) (ty : Ty) (r : Round) : Statement (.fmul h ty r) :=
  word rfl (by decide) (tyCode_lt _) (encRound_lt r) (by decide) (by decide)
theorem fma (h : Hdr) (ty : Ty) (r : Round) : Statement (.fma h ty r) :=
  word rfl (by decide) (tyCode_lt _) (encRound_lt r) (by decide) (by decide)
theorem fms (h : Hdr) (ty : Ty) (r : Round) : Statement (.fms h ty r) :=
  word rfl (by decide) (tyCode_lt _) (encRound_lt r) (by decide) (by decide)
theorem fnma (h : Hdr) (ty : Ty) (r : Round) : Statement (.fnma h ty r) :=
  word rfl (by decide) (tyCode_lt _) (encRound_lt r) (by decide) (by decide)
theorem fmin (h : Hdr) (ty : Ty) : Statement (.fmin h ty) := word rfl (by decide) (tyCode_lt _) (by decide) (by decide) (by decide)
theorem fmax (h : Hdr) (ty : Ty) : Statement (.fmax h ty) := word rfl (by decide) (tyCode_lt _) (by decide) (by decide) (by decide)
theorem fabs (h : Hdr) (ty : Ty) : Statement (.fabs h ty) := word rfl (by decide) (tyCode_lt _) (by decide) (by decide) (by decide)
theorem fneg (h : Hdr) (ty : Ty) : Statement (.fneg h ty) := word rfl (by decide) (tyCode_lt _) (by decide) (by decide) (by decide)
theorem fcps (h : Hdr) (ty : Ty) : Statement (.fcps h ty) := word rfl (by decide) (tyCode_lt _) (by decide) (by decide) (by decide)
theorem fdiv (h : Hdr) (ty : Ty) (r : Round) : Statement (.fdiv h ty r) :=
  word rfl (by decide) (tyCode_lt _) (encRound_lt r) (by decide) (by decide)
theorem fsqrt (h : Hdr) (ty : Ty) (r : Round) : Statement (.fsqrt h ty r) :=
  word rfl (by decide) (tyCode_lt _) (encRound_lt r) (by decide) (by decide)
theorem frcp (h : Hdr) (ty : Ty) (r : Round) : Statement (.frcp h ty r) :=
  word rfl (by decide) (tyCode_lt _) (encRound_lt r) (by decide) (by decide)
theorem frsq (h : Hdr) (ty : Ty) (r : Round) : Statement (.frsq h ty r) :=
  word rfl (by decide) (tyCode_lt _) (encRound_lt r) (by decide) (by decide)
theorem fexp2 (h : Hdr) (ty : Ty) (r : Round) : Statement (.fexp2 h ty r) :=
  word rfl (by decide) (tyCode_lt _) (encRound_lt r) (by decide) (by decide)
theorem tfeq (h : Hdr) (ty : Ty) : Statement (.tfeq h ty) := word rfl (by decide) (tyCode_lt _) (by decide) (by decide) (by decide)
theorem tflt (h : Hdr) (ty : Ty) : Statement (.tflt h ty) := word rfl (by decide) (tyCode_lt _) (by decide) (by decide) (by decide)
theorem tfle (h : Hdr) (ty : Ty) : Statement (.tfle h ty) := word rfl (by decide) (tyCode_lt _) (by decide) (by decide) (by decide)
theorem tfun (h : Hdr) (ty : Ty) : Statement (.tfun h ty) := word rfl (by decide) (tyCode_lt _) (by decide) (by decide) (by decide)
theorem frnd (h : Hdr) (ty : Ty) (r : Round) : Statement (.frnd h ty r) :=
  word rfl (by decide) (tyCode_lt _) (encRound_lt r) (by decide) (by decide)
theorem cvt (h : Hdr) (dty : Ty) (sty : Ty) (r : Round) (q : Fin 8) : Statement (.cvt h dty sty r q) :=
  word rfl (by decide) (tyCode_lt _) (encRound_lt r) (by have := q.isLt; have := tyCode_lt sty; omega) (by decide)
theorem fsum (h : Hdr) (ty : Ty) (r : Round) (w : Bool) : Statement (.fsum h ty r w) :=
  word rfl (by decide) (tyCode_lt _) (encRound_lt r) (by have := bitN_lt w; omega) (by decide)
theorem fdot (h : Hdr) (ty : Ty) (r : Round) (w : Bool) : Statement (.fdot h ty r w) :=
  word rfl (by decide) (tyCode_lt _) (encRound_lt r) (by have := bitN_lt w; omega) (by decide)
theorem pexp (h : Hdr) (ty : Ty) : Statement (.pexp h ty) := word rfl (by decide) (tyCode_lt _) (by decide) (by decide) (by decide)
theorem pmac (h : Hdr) (ty : Ty) (r : Round) : Statement (.pmac h ty r) :=
  word rfl (by decide) (tyCode_lt _) (encRound_lt r) (by decide) (by decide)
theorem ld (h : Hdr) (ty : Ty) (m : Mem) : Statement (.ld h ty m) :=
  word rfl (by decide) (tyCode_lt _) (memMd_lt m) (memLow_lt m) (by decide)
theorem ldx (h : Hdr) (ty : Ty) (m : Mem) : Statement (.ldx h ty m) :=
  word rfl (by decide) (tyCode_lt _) (memMd_lt m) (memLow_lt m) (by decide)
theorem ldl (h : Hdr) (ty : Ty) (m : Mem) : Statement (.ldl h ty m) :=
  word rfl (by decide) (tyCode_lt _) (memMd_lt m) (memLow_lt m) (by decide)
theorem ldt (h : Hdr) (ty : Ty) (m : Mem) : Statement (.ldt h ty m) :=
  word rfl (by decide) (tyCode_lt _) (memMd_lt m) (memLow_lt m) (by decide)
theorem st (h : Hdr) (ty : Ty) (m : Mem) : Statement (.st h ty m) :=
  word rfl (by decide) (tyCode_lt _) (memMd_lt m) (memLow_lt m) (by decide)
theorem stx (h : Hdr) (ty : Ty) (m : Mem) : Statement (.stx h ty m) :=
  word rfl (by decide) (tyCode_lt _) (memMd_lt m) (memLow_lt m) (by decide)
theorem stl (h : Hdr) (ty : Ty) (m : Mem) : Statement (.stl h ty m) :=
  word rfl (by decide) (tyCode_lt _) (memMd_lt m) (memLow_lt m) (by decide)
theorem pref (h : Hdr) (m : Mem) : Statement (.pref h m) := word rfl (by decide) (by decide) (memMd_lt m) (memLow_lt m) (by decide)
theorem amoadd (h : Hdr) (ty : Ty) (m : Mem) : Statement (.amoadd h ty m) :=
  word rfl (by decide) (tyCode_lt _) (memMd_lt m) (memLow_lt m) (by decide)
theorem amoand (h : Hdr) (ty : Ty) (m : Mem) : Statement (.amoand h ty m) :=
  word rfl (by decide) (tyCode_lt _) (memMd_lt m) (memLow_lt m) (by decide)
theorem amoor (h : Hdr) (ty : Ty) (m : Mem) : Statement (.amoor h ty m) :=
  word rfl (by decide) (tyCode_lt _) (memMd_lt m) (memLow_lt m) (by decide)
theorem amoxor (h : Hdr) (ty : Ty) (m : Mem) : Statement (.amoxor h ty m) :=
  word rfl (by decide) (tyCode_lt _) (memMd_lt m) (memLow_lt m) (by decide)
theorem amomin (h : Hdr) (ty : Ty) (m : Mem) : Statement (.amomin h ty m) :=
  word rfl (by decide) (tyCode_lt _) (memMd_lt m) (memLow_lt m) (by decide)
theorem amomax (h : Hdr) (ty : Ty) (m : Mem) : Statement (.amomax h ty m) :=
  word rfl (by decide) (tyCode_lt _) (memMd_lt m) (memLow_lt m) (by decide)
theorem amoswp (h : Hdr) (ty : Ty) (m : Mem) : Statement (.amoswp h ty m) :=
  word rfl (by decide) (tyCode_lt _) (memMd_lt m) (memLow_lt m) (by decide)
theorem amocas (h : Hdr) (ty : Ty) (m : Mem) : Statement (.amocas h ty m) :=
  word rfl (by decide) (tyCode_lt _) (memMd_lt m) (memLow_lt m) (by decide)
theorem amofadd (h : Hdr) (ty : Ty) (m : Mem) : Statement (.amofadd h ty m) :=
  word rfl (by decide) (tyCode_lt _) (memMd_lt m) (memLow_lt m) (by decide)
theorem fence (h : Hdr) (m : Mem) : Statement (.fence h m) := word rfl (by decide) (by decide) (memMd_lt m) (memLow_lt m) (by decide)
theorem waita (h : Hdr) (ty : Ty) (m : Mem) : Statement (.waita h ty m) :=
  word rfl (by decide) (tyCode_lt _) (memMd_lt m) (memLow_lt m) (by decide)
theorem wake (h : Hdr) (m : Mem) : Statement (.wake h m) := word rfl (by decide) (by decide) (memMd_lt m) (memLow_lt m) (by decide)
theorem retry (h : Hdr) : Statement (.retry h) := word rfl (by decide) (by decide) (by decide) (by decide) (by decide)
theorem sopen (h : Hdr) (port : Fin 16) (sc : Fin 4) : Statement (.sopen h port sc) :=
  word rfl (by decide) (by decide) (by decide) (by have := port.isLt; have := sc.isLt; omega) (by decide)
theorem sclose (h : Hdr) : Statement (.sclose h) := word rfl (by decide) (by decide) (by decide) (by decide) (by decide)
theorem spos (h : Hdr) : Statement (.spos h) := word rfl (by decide) (by decide) (by decide) (by decide) (by decide)
theorem mrg (h : Hdr) (ty : Ty) (d : Bool) : Statement (.mrg h ty d) :=
  word rfl (by decide) (tyCode_lt _) (by have := bitN_lt d; omega) (by decide) (by decide)
theorem mrgcfg (h : Hdr) : Statement (.mrgcfg h) := word rfl (by decide) (by decide) (by decide) (by decide) (by decide)
theorem crd (h : Hdr) (ty : Ty) : Statement (.crd h ty) := word rfl (by decide) (tyCode_lt _) (by decide) (by decide) (by decide)
theorem mwld (h : Hdr) (l : Bool) : Statement (.mwld h l) :=
  word rfl (by decide) (by decide) (by decide) (by have := bitN_lt l; omega) (by decide)
theorem mwswap (h : Hdr) : Statement (.mwswap h) := word rfl (by decide) (by decide) (by decide) (by decide) (by decide)
theorem mstr (h : Hdr) : Statement (.mstr h) := word rfl (by decide) (by decide) (by decide) (by decide) (by decide)
theorem mrdo (h : Hdr) : Statement (.mrdo h) := word rfl (by decide) (by decide) (by decide) (by decide) (by decide)
theorem mzero (h : Hdr) : Statement (.mzero h) := word rfl (by decide) (by decide) (by decide) (by decide) (by decide)
theorem mcfg (h : Hdr) : Statement (.mcfg h) := word rfl (by decide) (by decide) (by decide) (by decide) (by decide)
theorem kvld (h : Hdr) (ty : Ty) (m : Mem) : Statement (.kvld h ty m) :=
  word rfl (by decide) (tyCode_lt _) (memMd_lt m) (memLow_lt m) (by decide)
theorem kvst (h : Hdr) (ty : Ty) (m : Mem) : Statement (.kvst h ty m) :=
  word rfl (by decide) (tyCode_lt _) (memMd_lt m) (memLow_lt m) (by decide)
theorem kvapp (h : Hdr) : Statement (.kvapp h) := word rfl (by decide) (by decide) (by decide) (by decide) (by decide)
theorem kvqry (h : Hdr) : Statement (.kvqry h) := word rfl (by decide) (by decide) (by decide) (by decide) (by decide)
theorem smxupd (h : Hdr) (ty : Ty) : Statement (.smxupd h ty) := word rfl (by decide) (tyCode_lt _) (by decide) (by decide) (by decide)
theorem drvdecl (h : Hdr) : Statement (.drvdecl h) := word rfl (by decide) (by decide) (by decide) (by decide) (by decide)
theorem drvdrop (h : Hdr) : Statement (.drvdrop h) := word rfl (by decide) (by decide) (by decide) (by decide) (by decide)
theorem dld (h : Hdr) (ty : Ty) (m : Mem) : Statement (.dld h ty m) :=
  word rfl (by decide) (tyCode_lt _) (memMd_lt m) (memLow_lt m) (by decide)
theorem dldl (h : Hdr) (ty : Ty) (m : Mem) : Statement (.dldl h ty m) :=
  word rfl (by decide) (tyCode_lt _) (memMd_lt m) (memLow_lt m) (by decide)
theorem drvsync (h : Hdr) : Statement (.drvsync h) := word rfl (by decide) (by decide) (by decide) (by decide) (by decide)
theorem drvstat (h : Hdr) : Statement (.drvstat h) := word rfl (by decide) (by decide) (by decide) (by decide) (by decide)
theorem lease (h : Hdr) (n : Fin 256) (d : Bool) : Statement (.lease h n d) :=
  word rfl (by decide) (by decide) (by decide) (by have := bitN_lt d; have := n.isLt; omega) (by decide)
theorem rplhint (h : Hdr) (x : Fin 3) : Statement (.rplhint h x) :=
  word rfl (by decide) (by decide) (by decide) (by have := x.isLt; omega) (by decide)
theorem tickrd (h : Hdr) (x : Fin 4) : Statement (.tickrd h x) :=
  word rfl (by decide) (by decide) (by decide) (by have := x.isLt; omega) (by decide)
theorem rplcnt (h : Hdr) : Statement (.rplcnt h) := word rfl (by decide) (by decide) (by decide) (by decide) (by decide)
theorem read (h : Hdr) (g : Fin 64) : Statement (.read h g) :=
  word rfl (by decide) (by decide) (by decide) (by have := g.isLt; omega) (by decide)
theorem write (h : Hdr) (g : Fin 64) : Statement (.write h g) :=
  word rfl (by decide) (by decide) (by decide) (by have := g.isLt; omega) (by decide)
theorem bro (h : Hdr) (off : BitVec 28) : Statement (.bro h off) :=
  word rfl (by decide) (by decide) (by decide) (by have := off.isLt; omega) (by decide)
theorem bri (h : Hdr) : Statement (.bri h) := word rfl (by decide) (by decide) (by decide) (by decide) (by decide)
theorem call (h : Hdr) (off : BitVec 28) : Statement (.call h off) :=
  word rfl (by decide) (by decide) (by decide) (by have := off.isLt; omega) (by decide)
theorem ret (h : Hdr) : Statement (.ret h) := word rfl (by decide) (by decide) (by decide) (by decide) (by decide)
theorem halt (h : Hdr) : Statement (.halt h) := word rfl (by decide) (by decide) (by decide) (by decide) (by decide)
theorem launch (h : Hdr) (q : Fin 16384) : Statement (.launch h q) :=
  word rfl (by decide) (by decide) (by decide) (by have := q.isLt; omega) (by decide)
theorem unitend (h : Hdr) : Statement (.unitend h) := word rfl (by decide) (by decide) (by decide) (by decide) (by decide)
theorem yield (h : Hdr) : Statement (.yield h) := word rfl (by decide) (by decide) (by decide) (by decide) (by decide)
theorem grpcnt (h : Hdr) : Statement (.grpcnt h) := word rfl (by decide) (by decide) (by decide) (by decide) (by decide)
theorem grpwait (h : Hdr) : Statement (.grpwait h) := word rfl (by decide) (by decide) (by decide) (by decide) (by decide)
theorem grpcan (h : Hdr) : Statement (.grpcan h) := word rfl (by decide) (by decide) (by decide) (by decide) (by decide)
theorem barinit (h : Hdr) : Statement (.barinit h) := word rfl (by decide) (by decide) (by decide) (by decide) (by decide)
theorem baradd (h : Hdr) : Statement (.baradd h) := word rfl (by decide) (by decide) (by decide) (by decide) (by decide)
theorem bararr (h : Hdr) : Statement (.bararr h) := word rfl (by decide) (by decide) (by decide) (by decide) (by decide)
theorem barwt (h : Hdr) : Statement (.barwt h) := word rfl (by decide) (by decide) (by decide) (by decide) (by decide)
theorem bartst (h : Hdr) : Statement (.bartst h) := word rfl (by decide) (by decide) (by decide) (by decide) (by decide)
theorem engpost (h : Hdr) : Statement (.engpost h) := word rfl (by decide) (by decide) (by decide) (by decide) (by decide)
theorem engqry (h : Hdr) : Statement (.engqry h) := word rfl (by decide) (by decide) (by decide) (by decide) (by decide)
theorem trap (h : Hdr) (code : BitVec 16) : Statement (.trap h code) :=
  word rfl (by decide) (by decide) (by decide) (by have := code.isLt; omega) (by decide)
theorem eret (h : Hdr) : Statement (.eret h) := word rfl (by decide) (by decide) (by decide) (by decide) (by decide)
theorem csrrd (h : Hdr) (n : BitVec 12) (x : Bool) : Statement (.csrrd h n x) :=
  word rfl (by decide) (by decide) (by decide) (by have := bitN_lt x; have := n.isLt; omega) (by decide)
theorem csrwr (h : Hdr) (n : BitVec 12) (x : Bool) : Statement (.csrwr h n x) :=
  word rfl (by decide) (by decide) (by decide) (by have := bitN_lt x; have := n.isLt; omega) (by decide)
theorem mark (h : Hdr) : Statement (.mark h) := word rfl (by decide) (by decide) (by decide) (by decide) (by decide)
theorem brk (h : Hdr) : Statement (.brk h) := word rfl (by decide) (by decide) (by decide) (by decide) (by decide)
theorem ownqry (h : Hdr) : Statement (.ownqry h) := word rfl (by decide) (by decide) (by decide) (by decide) (by decide)
theorem cfgld (h : Hdr) (pin : Bool) : Statement (.cfgld h pin) :=
  word rfl (by decide) (by decide) (by decide) (by have := bitN_lt pin; omega) (by decide)
theorem cfgswap (h : Hdr) : Statement (.cfgswap h) := word rfl (by decide) (by decide) (by decide) (by decide) (by decide)
theorem cfgdrain (h : Hdr) : Statement (.cfgdrain h) := word rfl (by decide) (by decide) (by decide) (by decide) (by decide)
theorem cfgpin (h : Hdr) (pin : Bool) : Statement (.cfgpin h pin) :=
  word rfl (by decide) (by decide) (by decide) (by have := bitN_lt pin; omega) (by decide)
theorem cfgqry (h : Hdr) (x : Fin 6) : Statement (.cfgqry h x) :=
  word rfl (by decide) (by decide) (by decide) (by have := x.isLt; omega) (by decide)
theorem tlbinv (h : Hdr) (s : Fin 8) : Statement (.tlbinv h s) :=
  word rfl (by decide) (by decide) (by decide) (by have := s.isLt; omega) (by decide)
theorem tlbinva (h : Hdr) (s : Fin 8) : Statement (.tlbinva h s) :=
  word rfl (by decide) (by decide) (by decide) (by have := s.isLt; omega) (by decide)
theorem biasreq (h : Hdr) : Statement (.biasreq h) := word rfl (by decide) (by decide) (by decide) (by decide) (by decide)
theorem pgmig (h : Hdr) : Statement (.pgmig h) := word rfl (by decide) (by decide) (by decide) (by decide) (by decide)
theorem pgqry (h : Hdr) : Statement (.pgqry h) := word rfl (by decide) (by decide) (by decide) (by decide) (by decide)
theorem tokenAccept (core : Nat) (x : Nat) (y : Nat) : Statement (.tokenAccept core x y) := event rfl
theorem spillRefill (core : Nat) (x : Nat) (y : Nat) : Statement (.spillRefill core x y) := event rfl
theorem slotImageFetch (core : Nat) (x : Nat) (y : Nat) (slot : Nat) : Statement (.slotImageFetch core x y slot) := event rfl
theorem coreQuiescent (core : Nat) (c : Nat) : Statement (.coreQuiescent core c) := event rfl
theorem markerArrival (core : Nat) (n : Nat) : Statement (.markerArrival core n) := event rfl
theorem trestleGrant (core : Nat) (c : Nat) (unit : Nat) (t : Nat) : Statement (.trestleGrant core c unit t) := event rfl
theorem blockMap (core : Nat) (t : Nat) : Statement (.blockMap core t) := event rfl
theorem blockSettlement (core : Nat) (t : Nat) : Statement (.blockSettlement core t) := event rfl
theorem watchdog (core : Nat) (t : Nat) : Statement (.watchdog core t) := event rfl
theorem doorbell (q : Nat) (v : Word) : Statement (.doorbell q v) := event rfl
theorem queueEnable (q : Nat) : Statement (.queueEnable q) := event rfl
theorem queueDisable (q : Nat) : Statement (.queueDisable q) := event rfl
theorem recordTake (die : Nat) : Statement (.recordTake die) := event rfl
theorem unitTakesPlace (core : Nat) : Statement (.unitTakesPlace core) := event rfl
theorem unitCompletion (core : Nat) (c : Nat) (unit : Nat) : Statement (.unitCompletion core c unit) := event rfl
theorem configLoad (cluster : Nat) (n : Nat) : Statement (.configLoad cluster n) := event rfl
theorem drainComplete (id : Nat) : Statement (.drainComplete id) := event rfl
theorem drainTimeout (id : Nat) : Statement (.drainTimeout id) := event rfl
theorem spareRepair (core : Nat) (x : Nat) (y : Nat) : Statement (.spareRepair core x y) := event rfl
theorem portReport (id : Nat) : Statement (.portReport id) := event rfl
theorem portAccessIssue (id : Nat) : Statement (.portAccessIssue id) := event rfl
theorem streamElement (core : Nat) (port : Nat) (sc : Nat) : Statement (.streamElement core port sc) := event rfl
theorem outputStreamToken (core : Nat) (port : Nat) (sc : Nat) : Statement (.outputStreamToken core port sc) := event rfl
theorem mergeInput (core : Nat) (n : Nat) : Statement (.mergeInput core n) := event rfl
theorem mergeNodeDecision (core : Nat) (n : Nat) : Statement (.mergeNodeDecision core n) := event rfl
theorem fifoAccept (core : Nat) (n : Nat) : Statement (.fifoAccept core n) := event rfl
theorem fifoEmit (core : Nat) (m : Nat) : Statement (.fifoEmit core m) := event rfl
theorem formatIsland (core : Nat) (n : Nat) : Statement (.formatIsland core n) := event rfl
theorem matrixCommandFire (core : Nat) (n : Nat) : Statement (.matrixCommandFire core n) := event rfl
theorem planeLoadComplete (core : Nat) : Statement (.planeLoadComplete core) := event rfl
theorem homeAccess (id : Nat) : Statement (.homeAccess id) := event rfl
theorem accessCompletion (id : Nat) : Statement (.accessCompletion id) := event rfl
theorem waitaPoll (id : Nat) : Statement (.waitaPoll id) := event rfl
theorem orderedAtomicArrival (id : Nat) : Statement (.orderedAtomicArrival id) := event rfl
theorem orderedAtomicRetry (id : Nat) : Statement (.orderedAtomicRetry id) := event rfl
theorem deltaApply (die : Nat) (n : Nat) : Statement (.deltaApply die n) := event rfl
theorem rescan (die : Nat) (n : Nat) : Statement (.rescan die n) := event rfl
theorem flushMarker (id : Nat) (home : Nat) : Statement (.flushMarker id home) := event rfl
theorem publish (die : Nat) (n : Nat) (res : Nat) : Statement (.publish die n res) := event rfl
theorem buildComplete (die : Nat) (n : Nat) : Statement (.buildComplete die n) := event rfl
theorem ptsAdvance (core : Nat) : Statement (.ptsAdvance core) := event rfl
theorem trackerDecay : Statement (.trackerDecay) := event rfl
theorem rebase : Statement (.rebase) := event rfl
theorem scrubReport : Statement (.scrubReport) := event rfl
theorem jobArrival (die : Nat) (n : Nat) : Statement (.jobArrival die n) := event rfl
theorem jobStart (die : Nat) (e : Nat) : Statement (.jobStart die e) := event rfl
theorem jobLanding (die : Nat) (e : Nat) : Statement (.jobLanding die e) := event rfl
theorem ringTimeout (die : Nat) (e : Nat) : Statement (.ringTimeout die e) := event rfl
theorem copyingComplete (id : Nat) : Statement (.copyingComplete id) := event rfl
theorem freezingComplete (id : Nat) : Statement (.freezingComplete id) := event rfl
theorem cutComplete (c : Nat) : Statement (.cutComplete c) := event rfl
theorem saveImageWritten (c : Nat) : Statement (.saveImageWritten c) := event rfl
theorem scrub : Statement (.scrub) := event rfl
theorem requestFlit (port : Nat) (r : LinkReq) : Statement (.requestFlit port r) := event rfl
theorem completionFlit (port : Nat) (id : Nat) (v : List Byte) : Statement (.completionFlit port id v) := event rfl
theorem recallFlit (port : Nat) (m : Nat) (pa : Nat) (bytes : List Byte) : Statement (.recallFlit port m pa bytes) := event rfl
theorem collectiveFlit (die : Nat) (e : Nat) (v : List Byte) : Statement (.collectiveFlit die e v) := event rfl
theorem managementFlit (port : Nat) (msg : MgmtMsg) : Statement (.managementFlit port msg) := event rfl
theorem ackFlit (port : Nat) (seq : Nat) : Statement (.ackFlit port seq) := event rfl
theorem nakFlit (port : Nat) (seq : Nat) : Statement (.nakFlit port seq) := event rfl
theorem abortFlit (die : Nat) (e : Nat) : Statement (.abortFlit die e) := event rfl
theorem completionTimeout (id : Nat) : Statement (.completionTimeout id) := event rfl
theorem trainingComplete (port : Nat) (lanes : BitVec 8) : Statement (.trainingComplete port lanes) := event rfl
theorem trainingTimeout (port : Nat) : Statement (.trainingTimeout port) := event rfl
theorem laneLoss (port : Nat) (lane : Nat) : Statement (.laneLoss port lane) := event rfl
theorem peerLoss (port : Nat) : Statement (.peerLoss port) := event rfl
theorem portEnable (port : Nat) : Statement (.portEnable port) := event rfl
theorem portDisable (port : Nat) : Statement (.portDisable port) := event rfl
theorem powerGood : Statement (.powerGood) := event rfl
theorem claim (m : Nat) : Statement (.claim m) := event rfl
theorem handover (m : Nat) (succ : Nat) : Statement (.handover m succ) := event rfl
theorem detach (m : Nat) : Statement (.detach m) := event rfl
theorem cut (m : Nat) (c : Nat) (cls : Nat) : Statement (.cut m c cls) := event rfl
theorem cutCheckpoint (m : Nat) (c : Nat) (cls : Nat) : Statement (.cutCheckpoint m c cls) := event rfl
theorem cutResume (m : Nat) (c : Nat) (cls : Nat) : Statement (.cutResume m c cls) := event rfl
theorem flip (m : Nat) (frame : Nat) (host : Bool) : Statement (.flip m frame host) := event rfl
theorem post (m : Nat) (c : Nat) (a : Word) : Statement (.post m c a) := event rfl
theorem stream (m : Nat) (len : Nat) : Statement (.stream m len) := event rfl
theorem quote (m : Nat) (nonce : List Byte) : Statement (.quote m nonce) := event rfl
theorem resetCold (m : Nat) : Statement (.resetCold m) := event rfl
theorem resetWarm (m : Nat) : Statement (.resetWarm m) := event rfl
theorem ownershipLapse : Statement (.ownershipLapse) := event rfl
theorem throttleStep (watts : BitVec 16) (tj : BitVec 8) : Statement (.throttleStep watts tj) := event rfl
theorem thermalTrip : Statement (.thermalTrip) := event rfl
theorem contextCreate (iss : Nat) (c : Nat) (v : Word) : Statement (.contextCreate iss c v) := event rfl
theorem contextDestroy (iss : Nat) (c : Nat) : Statement (.contextDestroy iss c) := event rfl
theorem tickbaseWrite (iss : Nat) (v : Word) : Statement (.tickbaseWrite iss v) := event rfl
theorem registerWrite (w : Writer) (r : RegName) (v : Word) : Statement (.registerWrite w r v) := event rfl
theorem recallTimeout (id : Nat) : Statement (.recallTimeout id) := event rfl
theorem peerPresent (port : Nat) (peer : Nat) : Statement (.peerPresent port peer) := event rfl
theorem badFlit (port : Nat) (reserved : Bool) : Statement (.badFlit port reserved) := event rfl
theorem resumeComplete (c : Nat) : Statement (.resumeComplete c) := event rfl
theorem ready : Statement (.ready) := event rfl
theorem duplicatedStateCompare (cs : List Nat) : Statement (.duplicatedStateCompare cs) := event rfl

end Sys2Proof.Laws.Encoding
end

