-- ==== Sys2Proof/Tests/Slice0.lean ====
section
/-!
SUPPORT. Small tests: the checks of WellFormed, words written out from the encoding tables of the spec (R95 to R103), the
spec's worked values, and for the statements with hypotheses states and operands that meet them.
-/

set_option linter.unusedVariables false
set_option Elab.async false

namespace Sys2Proof.Tests

open Sys2Proof Sys2Proof.Machine Sys2Proof.Claim

/-! ## Ill-formed terms -/

theorem test_smoke_pe : eventOk (.tokenAccept 127 15 15) = true ∧ eventOk (.tokenAccept 128 0 0) = false ∧
    eventOk (.spillRefill 0 16 0) = false ∧ eventOk (.spareRepair 0 0 16) = false ∧ eventOk (.slotImageFetch 0 0 0 7) = false := by decide
theorem test_smoke_core : eventOk (.coreQuiescent 128 0) = false ∧ eventOk (.coreQuiescent 0 4096) = false ∧
    eventOk (.markerArrival 128 0) = false ∧ eventOk (.unitTakesPlace 128) = false ∧ eventOk (.ptsAdvance 127) = true := by decide
theorem test_smoke_block : eventOk (.trestleGrant 0 0 8192 0) = false ∧ eventOk (.trestleGrant 0 0 0 16) = false ∧
    eventOk (.blockMap 0 16) = false ∧ eventOk (.unitCompletion 0 4096 0) = false ∧ eventOk (.watchdog 127 15) = true := by decide
theorem test_smoke_queue : eventOk (.doorbell 16384 0) = false ∧ eventOk (.queueEnable 16383) = true ∧ eventOk (.recordTake 4) = false ∧
    eventOk (.configLoad 32 0) = false := by decide
theorem test_smoke_tile : eventOk (.streamElement 0 16 0) = false ∧ eventOk (.outputStreamToken 0 0 4) = false ∧
    eventOk (.mergeNodeDecision 0 16) = false ∧ eventOk (.fifoEmit 0 32) = false := by decide
theorem test_smoke_die : eventOk (.flushMarker 0 384) = false ∧ eventOk (.deltaApply 4 0) = false ∧ eventOk (.rescan 0 4096) = false ∧
    eventOk (.publish 4 0 0) = false ∧ eventOk (.jobStart 0 256) = false ∧ eventOk (.cutComplete 4096) = false := by decide
theorem test_smoke_link : eventOk (.ackFlit 18 0) = false ∧ eventOk (.recallFlit 0 16 0 []) = false ∧ eventOk (.laneLoss 0 8) = false ∧
    eventOk (.peerPresent 0 2048) = false ∧ eventOk (.portEnable 17) = true := by decide
theorem test_smoke_host : eventOk (.claim 16) = false ∧ eventOk (.handover 0 16) = false ∧ eventOk (.cut 0 0 8) = false ∧
    eventOk (.flip 16 0 true) = false ∧ eventOk (.quote 0 []) = false ∧ eventOk (.contextCreate 4096 0 0) = false ∧
    eventOk (.contextDestroy 0 4096) = false ∧ eventOk (.tickbaseWrite 4096 0) = false ∧ eventOk (.duplicatedStateCompare [0, 4096]) = false := by
  decide
/-- Words: an ABS of an unsigned type, a predicated SEL, a memory access with `.ord` that is no atomic, a WRITE of g0. -/
theorem test_smoke_word : Instr.wellFormed (.abs ⟨.always, none, none⟩ .z64) = false ∧
    Instr.wellFormed (.sel ⟨.onTrue, none, none⟩ .s64) = false ∧
    Instr.wellFormed (.ld ⟨.always, none, none⟩ .s64 ⟨false, true, .plain, 0, 0, 0⟩) = false ∧
    Instr.wellFormed (.write ⟨.always, none, none⟩ 0) = false ∧ Instr.wellFormed (.write ⟨.always, none, none⟩ 1) = true := by decide

/-! ## Words written out from the encoding tables, one for each instruction -/

/-- `?t`, t0 = i4.a, t1 = i9.b. -/
def fH : Hdr := ⟨.onTrue, some ⟨.a, 4⟩, some ⟨.b, 9⟩⟩
/-- The same targets without a predicate. -/
def uH : Hdr := ⟨.always, some ⟨.a, 4⟩, some ⟨.b, 9⟩⟩
/-- `?t`, no targets; and neither. -/
def nH : Hdr := ⟨.onTrue, none, none⟩
def vH : Hdr := ⟨.always, none, none⟩

theorem test_decode_token_1 :
    decode true 2 0x0040212840000000 0 = .ok (.mov fH) ∧
    decode true 2 0x014021284C780000 0 = .ok (.fan3 fH (some ⟨.p, 15⟩)) ∧
    decode true 2 0x024021284C780000 0x190 = .ok (.fan4 fH (some ⟨.p, 15⟩) (some ⟨.p, 16⟩)) ∧
    decode true 2 0x0340212840000000 0 = .ok (.nul fH) ∧
    decode true 2 0x0440612840000000 0 = .ok (.steer fH true) ∧
    decode true 2 0x0540212840000000 0 = .ok (.gate fH false) ∧
    decode true 2 0x0600212840000000 0 = .ok (.merge uH) ∧
    decode true 2 0x07002128400003FF 0 = .ok (.iter uH 1023) ∧
    decode true 2 0x084061284000ABCD 0 = .ok (.iterx fH (some 0xABCD)) := by
  decide

theorem test_decode_token_2 :
    decode true 2 0x0840212840000000 0 = .ok (.iterx fH none) ∧
    decode true 2 0x0940212840000000 0 = .ok (.tagget fH) ∧
    decode true 2 0x0A40212840000000 0 = .ok (.tagset fH) ∧
    decode true 2 0x0B40212840000006 0 = .ok (.slotset fH 6) ∧
    decode true 2 0x0C40212840000000 0 = .ok (.sticky fH) ∧
    decode true 2 0x0D40212840000000 0 = .ok (.purge fH) ∧
    decode true 2 0x0E40212840000003 0 = .ok (.stop fH 3) ∧
    decode true 2 0x0F40212840000002 0 = .ok (.stopt fH 2) := by
  decide

theorem test_decode_integer_1 :
    decode true 2 0x1040212840000000 0 = .ok (.add fH .s64) ∧
    decode true 2 0x1144212840000000 0 = .ok (.sub fH .z64) ∧
    decode true 2 0x1248212840000000 0 = .ok (.adds fH .s32) ∧
    decode true 2 0x134C212840000000 0 = .ok (.subs fH .z32) ∧
    decode true 2 0x1450212840000000 0 = .ok (.neg fH .s16x4) ∧
    decode true 2 0x1654212840000000 0 = .ok (.mul fH .z16x4) ∧
    decode true 2 0x1758212840000000 0 = .ok (.mulh fH .s8x8) ∧
    decode true 2 0x185C212840000000 0 = .ok (.div fH .z8x8) ∧
    decode true 2 0x1940212840000000 0 = .ok (.rem fH .s64) := by
  decide

theorem test_decode_integer_2 :
    decode true 2 0x1A44212840000000 0 = .ok (.min fH .z64) ∧
    decode true 2 0x1B48212840000000 0 = .ok (.max fH .s32) ∧
    decode true 2 0x1550212840000000 0 = .ok (.abs fH .s16x4) ∧
    decode true 2 0x1C442128400FFFFE 0 = .ok (.lea fH .z64 7 (-2)) ∧
    decode true 2 0x1D08212840000000 0 = .ok (.sel uH .s32) ∧
    decode true 2 0x1E4021284000003F 0 = .ok (.sext fH .s64 63) ∧
    decode true 2 0x1F5C212840000007 0 = .ok (.zext fH .z8x8 7) := by
  decide

theorem test_decode_logic_1 :
    decode true 2 0x204C212840000000 0 = .ok (.and fH .z32) ∧
    decode true 2 0x2150212840000000 0 = .ok (.or fH .s16x4) ∧
    decode true 2 0x2254212840000000 0 = .ok (.xor fH .z16x4) ∧
    decode true 2 0x2358212840000000 0 = .ok (.andn fH .s8x8) ∧
    decode true 2 0x245C212840000000 0 = .ok (.not fH .z8x8) ∧
    decode true 2 0x2540212840000000 0 = .ok (.shl fH .s64) ∧
    decode true 2 0x2644212840000000 0 = .ok (.shr fH .z64) ∧
    decode true 2 0x2748212840000000 0 = .ok (.sra fH .s32) ∧
    decode true 2 0x284C212840000000 0 = .ok (.rol fH .z32) := by
  decide

theorem test_decode_logic_2 :
    decode true 2 0x2950212840000000 0 = .ok (.clz fH .s16x4) ∧
    decode true 2 0x2954212840100000 0 = .ok (.ctz fH .z16x4) ∧
    decode true 2 0x2958212840200000 0 = .ok (.popc fH .s8x8) ∧
    decode true 2 0x2A5C212840000000 0 = .ok (.teq fH .z8x8) ∧
    decode true 2 0x2B40212840000000 0 = .ok (.tne fH .s64) ∧
    decode true 2 0x2C44212840000000 0 = .ok (.tlt fH .z64) ∧
    decode true 2 0x2D48212840000000 0 = .ok (.tle fH .s32) ∧
    decode true 2 0x2954212840300000 0 = .ok (.bswap fH .z16x4) := by
  decide

theorem test_decode_immediate_1 :
    decode true 2 0x30402128400FFFFF 0 = .ok (.addi fH .s64 (-1)) ∧
    decode true 2 0x31442128400FFFFE 0 = .ok (.andi fH .z64 (-2)) ∧
    decode true 2 0x32482128400FFFFD 0 = .ok (.ori fH .s32 (-3)) ∧
    decode true 2 0x334C2128400FFFFC 0 = .ok (.xori fH .z32 (-4)) ∧
    decode true 2 0x37502128400FFFFB 0 = .ok (.teqi fH .s16x4 (-5)) ∧
    decode true 2 0x38542128400FFFFA 0 = .ok (.tlti fH .z16x4 (-6)) ∧
    decode true 2 0x39582128400FFFF9 0 = .ok (.tlei fH .s8x8 (-7)) ∧
    decode true 2 0x3A5C2128400FFFF8 0 = .ok (.movi fH .z8x8 (-8)) ∧
    decode true 2 0x3B442128400FFFF7 0 = .ok (.movhi fH .z64 (-9)) := by
  decide

theorem test_decode_immediate_2 :
    decode true 2 0x344021284000003F 0 = .ok (.shli fH .s64 63) ∧
    decode true 2 0x354C21284000001F 0 = .ok (.shri fH .z32 31) ∧
    decode true 2 0x365021284000000F 0 = .ok (.srai fH .s16x4 15) ∧
    decode true 2 0x3C40212840000000 0x8000000000000001 = .ok (.movx fH .s64 0x8000000000000001) := by
  decide

theorem test_decode_floating_1 :
    decode true 2 0x4060212840000000 0 = .ok (.fadd fH .f32 ⟨.rne, false⟩) ∧
    decode true 2 0x4164612840000000 0 = .ok (.fsub fH .f32x2 ⟨.rtz, false⟩) ∧
    decode true 2 0x4268A12840000000 0 = .ok (.fmul fH .f16x4 ⟨.rdn, false⟩) ∧
    decode true 2 0x4B6CE12840000000 0 = .ok (.fdiv fH .bf16x4 ⟨.rup, false⟩) ∧
    decode true 2 0x4C61212840000000 0 = .ok (.fsqrt fH .f32 ⟨.rna, false⟩) ∧
    decode true 2 0x4D64212840000000 0 = .ok (.frcp fH .f32x2 ⟨.rne, false⟩) ∧
    decode true 2 0x4E68612840000000 0 = .ok (.frsq fH .f16x4 ⟨.rtz, false⟩) ∧
    decode true 2 0x4F6CA12840000000 0 = .ok (.fexp2 fH .bf16x4 ⟨.rdn, false⟩) ∧
    decode true 2 0x5460E12840000000 0 = .ok (.frnd fH .f32 ⟨.rup, false⟩) := by
  decide

theorem test_decode_floating_2 :
    decode true 2 0x4321212840000000 0 = .ok (.fma uH .f32 ⟨.rna, false⟩) ∧
    decode true 2 0x4424E12840000000 0 = .ok (.fms uH .f32x2 ⟨.rup, false⟩) ∧
    decode true 2 0x4528A12840000000 0 = .ok (.fnma uH .f16x4 ⟨.rdn, false⟩) ∧
    decode true 2 0x4660212840000000 0 = .ok (.fmin fH .f32) ∧
    decode true 2 0x4764212840000000 0 = .ok (.fmax fH .f32x2) ∧
    decode true 2 0x4868212840000000 0 = .ok (.fabs fH .f16x4) ∧
    decode true 2 0x496C212840000000 0 = .ok (.fneg fH .bf16x4) ∧
    decode true 2 0x4A60212840000000 0 = .ok (.fcps fH .f32) ∧
    decode true 2 0x5064212840000000 0 = .ok (.tfeq fH .f32x2) := by
  decide

theorem test_decode_floating_3 :
    decode true 2 0x5168212840000000 0 = .ok (.tflt fH .f16x4) ∧
    decode true 2 0x526C212840000000 0 = .ok (.tfle fH .bf16x4) ∧
    decode true 2 0x5360212840000000 0 = .ok (.tfun fH .f32) := by
  decide

theorem test_decode_conversion :
    decode true 2 0x5572E12840800007 0 = .ok (.cvt fH .e4m3x8 .f32 ⟨.rup, true⟩ 7) ∧
    decode true 2 0x5664612840000000 0 = .ok (.fsum fH .f32x2 ⟨.rtz, false⟩ false) ∧
    decode true 2 0x5770A12840000001 0 = .ok (.fdot fH .e4m3x8 ⟨.rdn, false⟩ true) ∧
    decode true 2 0x5860212840000000 0 = .ok (.pexp fH .f32) ∧
    decode true 2 0x5921212840000000 0 = .ok (.pmac uH .f32 ⟨.rna, false⟩) := by
  decide

theorem test_decode_memory_1 :
    decode false 2 0x604861284FEFFFF8 0 = .ok (.ld fH .s32 ⟨false, false, .acq, 31, 6, -8⟩) ∧
    decode true 2 0x6154212840000008 0 = .ok (.ldx fH .z16x4 ⟨false, false, .plain, 0, 0, 8⟩) ∧
    decode true 2 0x6260212840000004 0 = .ok (.ldl fH .f32 ⟨false, false, .plain, 0, 0, 4⟩) ∧
    decode true 2 0x6344612840500000 0 = .ok (.ldt fH .z64 ⟨false, false, .acq, 0, 5, 0⟩) ∧
    decode false 2 0x644880000F600000 0 = .ok (.st nH .s32 ⟨false, false, .rel, 30, 6, 0⟩) ∧
    decode true 2 0x644AA12840600000 0 = .ok (.st fH .s32 ⟨true, false, .rel, 0, 6, 0⟩) ∧
    decode true 2 0x65000000000FFFFF 0 = .ok (.stx vH .s64 ⟨false, false, .plain, 0, 0, -1⟩) ∧
    decode true 2 0x665C000000000010 0 = .ok (.stl nH .z8x8 ⟨false, false, .plain, 0, 0, 16⟩) ∧
    decode true 2 0x6740000000500040 0 = .ok (.pref nH ⟨false, false, .plain, 0, 5, 64⟩) := by
  decide

theorem test_decode_memory_2 :
    decode true 2 0x7040212840600000 0 = .ok (.amoadd fH .s64 ⟨false, false, .plain, 0, 6, 0⟩) ∧
    decode true 2 0x7145612840600008 0 = .ok (.amoand fH .z64 ⟨false, true, .acq, 0, 6, 8⟩) ∧
    decode true 2 0x7248A12840600010 0 = .ok (.amoor fH .s32 ⟨false, false, .rel, 0, 6, 16⟩) ∧
    decode true 2 0x734D212840600018 0 = .ok (.amoxor fH .z32 ⟨false, true, .plain, 0, 6, 24⟩) ∧
    decode true 2 0x7440612840600020 0 = .ok (.amomin fH .s64 ⟨false, false, .acq, 0, 6, 32⟩) ∧
    decode true 2 0x7545A12840600028 0 = .ok (.amomax fH .z64 ⟨false, true, .rel, 0, 6, 40⟩) ∧
    decode true 2 0x7648212840600030 0 = .ok (.amoswp fH .s32 ⟨false, false, .plain, 0, 6, 48⟩) ∧
    decode true 2 0x7704612840300000 0 = .ok (.amocas uH .z64 ⟨false, false, .acq, 0, 3, 0⟩) ∧
    decode true 2 0x7861212840400000 0 = .ok (.amofadd fH .f32 ⟨false, true, .plain, 0, 4, 0⟩) := by
  decide

theorem test_decode_memory_3 :
    decode true 2 0x7940A12840600000 0 = .ok (.fence fH ⟨false, false, .rel, 0, 6, 0⟩) ∧
    decode true 2 0x7A44612840600000 0 = .ok (.waita fH .z64 ⟨false, false, .acq, 0, 6, 0⟩) ∧
    decode true 2 0x7B40212840600000 0 = .ok (.wake fH ⟨false, false, .plain, 0, 6, 0⟩) ∧
    decode true 2 0x7C40212840000000 0 = .ok (.retry fH) := by
  decide

theorem test_decode_streams_1 :
    decode true 2 0x804021284000002D 0 = .ok (.sopen fH 13 2) ∧
    decode true 2 0x8140212840000000 0 = .ok (.sclose fH) ∧
    decode true 2 0x8240212840000000 0 = .ok (.spos fH) ∧
    decode true 2 0x8364612840000000 0 = .ok (.mrg fH .f32x2 true) ∧
    decode true 2 0x8440212840000000 0 = .ok (.mrgcfg fH) ∧
    decode true 2 0x8560212840000000 0 = .ok (.crd fH .f32) ∧
    decode true 2 0x9040212840000001 0 = .ok (.mwld fH true) ∧
    decode true 2 0x9140212840000000 0 = .ok (.mwswap fH) ∧
    decode true 2 0x9240212840000000 0 = .ok (.mstr fH) := by
  decide

theorem test_decode_streams_2 :
    decode true 2 0x9340212840000000 0 = .ok (.mrdo fH) ∧
    decode true 2 0x9440212840000000 0 = .ok (.mzero fH) ∧
    decode true 2 0x9540212840000000 0 = .ok (.mcfg fH) := by
  decide

theorem test_decode_keys_1 :
    decode true 2 0xA06C212840000010 0 = .ok (.kvld fH .bf16x4 ⟨false, false, .plain, 0, 0, 16⟩) ∧
    decode false 2 0xA170000001800008 0 = .ok (.kvst nH .e4m3x8 ⟨false, false, .plain, 3, 0, 8⟩) ∧
    decode true 2 0xA240212840000000 0 = .ok (.kvapp fH) ∧
    decode true 2 0xA340212840000000 0 = .ok (.kvqry fH) ∧
    decode true 2 0xA464212840000000 0 = .ok (.smxupd fH .f32x2) ∧
    decode true 2 0xB040212840000000 0 = .ok (.drvdecl fH) ∧
    decode true 2 0xB140212840000000 0 = .ok (.drvdrop fH) ∧
    decode true 2 0xB440212840000000 0 = .ok (.drvsync fH) ∧
    decode true 2 0xB540212840000000 0 = .ok (.drvstat fH) := by
  decide

theorem test_decode_keys_2 :
    decode true 2 0xB2446128406FFFFF 0 = .ok (.dld fH .z64 ⟨false, false, .acq, 0, 6, -1⟩) ∧
    decode true 2 0xB344212840000003 0 = .ok (.dldl fH .z64 ⟨false, false, .plain, 0, 0, 3⟩) ∧
    decode true 2 0xB8402128400001FF 0 = .ok (.lease fH 255 true) ∧
    decode true 2 0xB940212840000002 0 = .ok (.rplhint fH 2) ∧
    decode true 2 0xBA40212840000003 0 = .ok (.tickrd fH 3) ∧
    decode true 2 0xBB40212840000000 0 = .ok (.rplcnt fH) := by
  decide

theorem test_decode_block_1 :
    decode false 2 0xC04021284000003F 0 = .ok (.read fH 63) ∧
    decode false 2 0xC140000000000001 0 = .ok (.write nH 1) ∧
    decode false 2 0xC24000000FFFFFFF 0 = .ok (.bro nH (-1)) ∧
    decode false 2 0xC440000000000005 0 = .ok (.call nH 5) ∧
    decode false 2 0xC340000000000000 0 = .ok (.bri nH) ∧
    decode false 2 0xC540000000000000 0 = .ok (.ret nH) ∧
    decode false 2 0xC640000000000000 0 = .ok (.halt nH) ∧
    decode true 2 0xD040212840003FFF 0 = .ok (.launch fH 16383) ∧
    decode true 2 0xD140212840000000 0 = .ok (.unitend fH) := by
  decide

theorem test_decode_block_2 :
    decode true 2 0xD540212840000000 0 = .ok (.yield fH) ∧
    decode true 2 0xD240212840000000 0 = .ok (.grpcnt fH) ∧
    decode true 2 0xD340212840000000 0 = .ok (.grpwait fH) ∧
    decode true 2 0xD440212840000000 0 = .ok (.grpcan fH) ∧
    decode true 2 0xD840212840000000 0 = .ok (.barinit fH) ∧
    decode true 2 0xD940212840000000 0 = .ok (.baradd fH) ∧
    decode true 2 0xDA40212840000000 0 = .ok (.bararr fH) ∧
    decode true 2 0xDB40212840000000 0 = .ok (.barwt fH) ∧
    decode true 2 0xDC40212840000000 0 = .ok (.bartst fH) := by
  decide

theorem test_decode_block_3 :
    decode true 2 0xDD40212840000000 0 = .ok (.engpost fH) ∧
    decode true 2 0xDE40212840000000 0 = .ok (.engqry fH) := by
  decide

theorem test_decode_system_1 :
    decode true 2 0xE040212840008001 0 = .ok (.trap fH 0x8001) ∧
    decode true 2 0xE140212840000000 0 = .ok (.eret fH) ∧
    decode true 2 0xE240212840001010 0 = .ok (.csrrd fH 0x010 true) ∧
    decode true 2 0xE340212840000010 0 = .ok (.csrwr fH 0x010 false) ∧
    decode true 2 0xE440212840000000 0 = .ok (.mark fH) ∧
    decode true 2 0xE540212840000000 0 = .ok (.brk fH) ∧
    decode true 2 0xE640212840000000 0 = .ok (.ownqry fH) ∧
    decode true 2 0xE840212840000001 0 = .ok (.cfgld fH true) ∧
    decode true 2 0xE940212840000000 0 = .ok (.cfgswap fH) := by
  decide

theorem test_decode_system_2 :
    decode true 2 0xEA40212840000000 0 = .ok (.cfgdrain fH) ∧
    decode true 2 0xEB40212840000000 0 = .ok (.cfgpin fH false) ∧
    decode true 2 0xEC40212840000005 0 = .ok (.cfgqry fH 5) ∧
    decode true 2 0xED40212840000006 0 = .ok (.tlbinv fH 6) ∧
    decode true 2 0xED40212840100003 0 = .ok (.tlbinva fH 3) ∧
    decode true 2 0xED40212840200000 0 = .ok (.biasreq fH) ∧
    decode true 2 0xED40212840300000 0 = .ok (.pgmig fH) ∧
    decode true 2 0xED40212840400000 0 = .ok (.pgqry fH) := by
  decide

/-! ## Worked values of the spec -/

/-- A firing of context 0 at PE (1, 1) of core 0, in a configuration. -/
def at_ (a b p : List Tok) : State := { State.reset with cur := ⟨0, 1, 1, 0, none, ⟨0, 0, 0⟩, 0, a, b, p⟩ }
/-- A token of a kind and a value, and a DATA token. -/
def tk (k : Kind) (v : Word) : Tok := ⟨k, .consume, false, false, .a, 0, ⟨0, 0, 0⟩, v⟩
def dt (v : Word) : List Tok := [tk .data v]
/-- The tokens that left core 0, and the flags of context 0. -/
def sentOf (o : Host.Outcome State Fault Refusal) : List (Kind × Word) :=
  match o with
  | .next t => (t.core 0).flights.map fun f => (f.tok.kind, f.tok.value)
  | _ => []
def flagsOf (o : Host.Outcome State Fault Refusal) : Nat :=
  match o with
  | .next t => (t.ctx 0).flags.toNat
  | _ => 32
/-- One target. -/
def oH : Hdr := ⟨.always, some ⟨.a, 4⟩, none⟩

/-- R119's table. -/
theorem test_adds : let s := at_ (dt 0x40FF0005807F9C64) (dt 0x400100FBFF019C64) []
    sentOf (exec (.add oH .s8x8) s) = [(.data, 0x800000007F8038C8)] ∧ sentOf (exec (.adds oH .s8x8) s) = [(.data, 0x7F000000807F807F)] ∧
    sentOf (exec (.adds oH .z8x8) s) = [(.data, 0x80FF00FFFF80FFC8)] := by decide
/-- R121's table. -/
theorem test_div : sentOf (exec (.div oH .s32) (at_ (dt 7) (dt (-2)) [])) = [(.data, -3)] ∧
    sentOf (exec (.rem oH .s32) (at_ (dt (-7)) (dt 2) [])) = [(.data, -1)] ∧
    sentOf (exec (.div oH .z32) (at_ (dt 7) (dt 0) [])) = [(.data, 0xFFFFFFFF)] ∧
    sentOf (exec (.div oH .s64) (at_ (dt 0x8000000000000000) (dt (-1)) [])) = [(.data, 0x8000000000000000)] := by decide
theorem test_mulh : sentOf (exec (.mulh oH .s64) (at_ (dt (-1)) (dt (-1)) [])) = [(.data, 0)] ∧
    sentOf (exec (.mulh oH .z64) (at_ (dt (-1)) (dt (-1)) [])) = [(.data, 0xFFFFFFFFFFFFFFFE)] := by decide
/-- The borderline tables of R123, R126, R128, R132 and R135. -/
theorem test_lanes : sentOf (exec (.tlt oH .s8x8) (at_ (dt 0xFF) (dt 1) [])) = [(.data, 0xFF)] ∧
    sentOf (exec (.tlt oH .z8x8) (at_ (dt 0xFF) (dt 1) [])) = [(.data, 0)] ∧
    sentOf (exec (.shl oH .s32) (at_ (dt 1) (dt 31) [])) = [(.data, 0xFFFFFFFF80000000)] ∧
    sentOf (exec (.shr oH .z32) (at_ (dt 0x80000000) (dt 31) [])) = [(.data, 1)] ∧
    sentOf (exec (.clz oH .s32) (at_ (dt 0xFFFFFFFF80000000) [] [])) = [(.data, 0)] ∧
    sentOf (exec (.sext oH .s8x8 3) (at_ (dt 0x0C) [] [])) = [(.data, 0xFC)] ∧
    sentOf (exec (.addi oH .z32 (-1)) (at_ (dt 0) [] [])) = [(.data, 0xFFFFFFFF)] ∧
    sentOf (exec (.movi oH .s8x8 (-128)) (at_ [] [] [])) = [(.data, 0x8080808080808080)] := by decide
/-- R148, R151: 1/3 under two modes; 2^0.5, 2^3 and 2^−149. -/
theorem test_frcp : sentOf (exec (.frcp oH .f32 ⟨.rne, false⟩) (at_ (dt 0x40400000) [] [])) = [(.data, 0x3EAAAAAB)] ∧
    sentOf (exec (.frcp oH .f32 ⟨.rtz, false⟩) (at_ (dt 0x40400000) [] [])) = [(.data, 0x3EAAAAAA)] := by decide +kernel
theorem test_fexp2 : sentOf (exec (.fexp2 oH .f32 ⟨.rne, false⟩) (at_ (dt 0x3F000000) [] [])) = [(.data, 0x3FB504F3)] ∧
    sentOf (exec (.fexp2 oH .f32 ⟨.rne, false⟩) (at_ (dt 0x40400000) [] [])) = [(.data, 0x41000000)] ∧
    sentOf (exec (.fexp2 oH .f32 ⟨.rne, false⟩) (at_ (dt 0xC3150000) [] [])) = [(.data, 1)] := by decide +kernel
/-- R92, R158: the pairwise tree. -/
theorem test_fsum : sentOf (exec (.fsum oH .f16x4 ⟨.rne, false⟩ false) (at_ (dt 0x3C003C0000006800) [] [])) = [(.data, 0x6801)] ∧
    sentOf (exec (.fdot oH .e4m3x8 ⟨.rne, false⟩ true) (at_ (dt 0xF80178) (dt 0x780178) [])) = [(.data, 0)] := by decide +kernel
/-- R154, R161, R162: 0.6 as P4, the worked exponentials with m = 3.0, and a weighted sum. -/
theorem test_probability : sentOf (exec (.cvt oH .p4x8 .f32 ⟨.rne, false⟩ 0) (at_ (dt 0x3F19999A) [] [])) = [(.data, 0x41)] ∧
    sentOf (exec (.cvt oH .e4m3x8 .f32 ⟨.rne, true⟩ 2) (at_ (dt 0x43FA0000) [] [])) = [(.data, 0x7E0000)] ∧
    sentOf (exec (.pexp oH .f32) (at_ (dt 0x3F800000) (dt 0x40400000) [])) = [(.data, 0x3F3F3F3F3F3F3F03)] ∧
    sentOf (exec (.pexp oH .f32) (at_ (dt 0x40300000) (dt 0x40400000) [])) = [(.data, 0x3F3F3F3F3F3F3F81)] ∧
    sentOf (exec (.pmac oH .f32 ⟨.rne, false⟩) (at_ (dt 0x81) (dt 0x41000000) (dt 0x3F800000))) = [(.data, 0x40E00000)] := by decide +kernel
/-- R393: step 1 of the worked softmax. -/
theorem test_softmax : sentOf (exec (.smxupd ⟨.always, some ⟨.a, 4⟩, some ⟨.a, 5⟩⟩ .f32x2)
    (at_ (dt 0x3F8000003F800000) (dt 0x3F80000040400000) [])) = [(.data, 0x3F90000040400000), (.data, 0x0000000003030303)] := by
  decide +kernel
/-- R91: an exact sum that a running FP32 sum would lose. -/
theorem test_exact_dot : let m : MTile := { MTile.init with plane := List.replicate 256 0x78 ++ List.replicate 256 0x01 ++ List.replicate 256 0x78 }
    (accAdd false (.val 0) (m.dot ([0x78, 0x01, 0xF8] ++ List.replicate 125 0) 0)).1 = .val 0x36800000 := by decide +kernel
/-- R16, R180: a store at the last address of memory keeps the canonical form, and storing the unlisted value removes an entry. -/
theorem test_table : tabSet 0 3 7 (tabSet 0 5 9 []) = [(3, 7), (5, (9 : Byte))] ∧ tabSet 0 3 0 [(3, (7 : Byte)), (5, 9)] = [(5, 9)] := by decide
/-- R399: with nothing to do the clock counts. -/
theorem test_after_reset : step State.reset = .next { State.reset with clk := 1 } := by rfl

/-! ## States and operands that meet the hypotheses of the statements -/

/-- Predicated headers with two targets. -/
def tH : Hdr := ⟨.onTrue, some ⟨.a, 4⟩, some ⟨.b, 5⟩⟩
def ffH : Hdr := ⟨.onFalse, some ⟨.a, 4⟩, some ⟨.b, 5⟩⟩

theorem sane_at (a b p : List Tok) : Sane (at_ a b p) := ⟨(by decide : 0 < 128), rfl⟩

theorem witness_AddFamily : Sane (at_ (dt 1) (dt 2) []) ∧ Fires oH (at_ (dt 1) (dt 2) []).cur ∧ IsData (dt 1) ∧ IsData (dt 2) :=
  ⟨sane_at _ _ _, trivial, rfl, rfl⟩
theorem witness_MultiplyFamily : Sane (at_ (dt 1) (dt 0) (dt 1)) ∧ Fires tH (at_ (dt 1) (dt 0) (dt 1)).cur ∧ IsData (dt 1) ∧ IsData (dt 0) :=
  ⟨sane_at _ _ _, ⟨rfl, by decide⟩, rfl, rfl⟩
theorem witness_IntegerCompareFamily : Sane (at_ (dt 1) (dt 0) (dt 0)) ∧ Fires ffH (at_ (dt 1) (dt 0) (dt 0)).cur ∧ IsData (dt 1) ∧ IsData (dt 0) ∧
    tyLanes .z32 = 1 ∧ 1 < tyLanes .z16x4 ∧ 3 < tyLanes .z16x4 :=
  ⟨sane_at _ _ _, ⟨rfl, rfl⟩, rfl, rfl, rfl, by decide, by decide⟩
theorem witness_LogicFamily : Sane (at_ (dt 1) (dt 64) []) ∧ Fires oH (at_ (dt 1) (dt 64) []).cur ∧ IsData (dt 1) ∧ IsData (dt 64) :=
  ⟨sane_at _ _ _, trivial, rfl, rfl⟩
theorem witness_BitCountFamily : Sane (at_ (dt 1) [] []) ∧ Fires oH (at_ (dt 1) [] []).cur ∧ IsData (dt 1) ∧
    (63 : Fin 64).val < tyWidth .s64 ∧ (7 : Fin 64).val < tyWidth .s8x8 := ⟨sane_at _ _ _, trivial, rfl, by decide, by decide⟩
theorem witness_IntegerImmediatesAndValues : Sane (at_ (dt 1) (dt 2) []) ∧ Fires oH (at_ (dt 1) (dt 2) []).cur ∧ IsData (dt 1) ∧
    IsData (dt 2) ∧ (31 : Fin 64).val < tyWidth .z32 := ⟨sane_at _ _ _, trivial, rfl, rfl, by decide⟩

/-- A token of another kind. -/
def kd (k : Kind) : List Tok := [tk k 5]
theorem witness_TokenMoves :
    (Sane (at_ (dt 1) (dt 2) []) ∧ Fires oH (at_ (dt 1) (dt 2) []).cur ∧ IsData (dt 1) ∧ IsData (dt 2) ∧ val (dt 2) ≠ 0 ∧ val (dt 0) = 0) ∧
    ((opTok (kd .error)).kind = .error ∧ (opTok (kd .null)).kind = .null) ∧
    (oH.pm = .always ∧ (at_ [tk .error 5] [] []).cur.a = [tk .error 5] ∧ (at_ [] (dt 1) []).cur.b = [tk .data 1]) :=
  ⟨⟨sane_at _ _ _, trivial, rfl, rfl, by decide, rfl⟩, ⟨rfl, rfl⟩, rfl, rfl, rfl⟩

/-- The state with a loop window at the firing's ITER node. -/
def inWin (w : Win) (a b : List Tok) : State :=
  { at_ a b [] with cores := [(0, { Core.init with pes := [(17, { Pe.init with wins := [w] })] })] }
def aWin : Win := ⟨0, 0, 0, false, 3, 5, [], none, none⟩
def dtIter (n : BitVec 16) : Tok := ⟨.data, .consume, false, false, .a, 0, ⟨0, 0, n⟩, 7⟩
theorem witness_TokenActionsAndWindow :
    (Sane (at_ (kd (.stop 2)) [] []) ∧ Fires oH (at_ (kd (.stop 2)) [] []).cur ∧ (opTok (kd (.stop 2))).kind = .stop 2 ∧
      (opTok (kd (.stop 2))).kind ≠ .null ∧ ∀ k, (opTok (kd .error)).kind ≠ .stop k) ∧
    (Sane (inWin aWin [dtIter 5] []) ∧ (window (inWin aWin [dtIter 5] [])).held = none ∧ (window (inWin aWin [dtIter 5] [])).heldB = none ∧
      ((dtIter 5).tag.iter + 1 - aWin.base).toNat < (3 : Fin 1024).val + 1 ∧ (2 : Fin 1024).val + 1 ≤ ((dtIter 5).tag.iter + 1 - aWin.base).toNat ∧
      ((dtIter 5).tag.iter + 1 - aWin.base).toNat < 32768) ∧
    ((inWin aWin [] [dtIter 4]).cur.a = [] ∧ (window (inWin aWin [] [dtIter 4])).empty = false ∧
      ((dtIter 4).tag.iter - aWin.base).toNat ≤ (aWin.top - aWin.base).toNat ∧ (window (inWin aWin [] [dtIter 4])).retired.contains 3 = false ∧
      (dtIter 4).tag.iter ≠ aWin.base ∧ (dtIter 3).tag.iter = aWin.base ∧ aWin.base ≠ aWin.top ∧
      (window (inWin aWin [] [dtIter 3])).retired.contains 4 = false ∧ (window (inWin { aWin with top := 3 } [] [dtIter 3])).base = 3 ∧
      (window (inWin { aWin with top := 3 } [] [dtIter 3])).top = 3) := by
  refine ⟨⟨sane_at _ _ _, trivial, rfl, by decide, fun k h => ?_⟩, ⟨⟨(by decide : 0 < 128), rfl⟩, ?_⟩, ?_⟩
  · simp [kd, tk, opTok] at h
  · decide
  · decide

theorem witness_OperandRules :
    ((.add : Hdr → Ty → Instr) ∈ twoOperand ∧ (.neg : Hdr → Ty → Instr) ∈ oneOperand ∧ Sane (at_ (dt 1) (dt 2) (dt 0))) ∧
    (tH.pm ≠ .always ∧ (opTok (dt 0)).kind = .data ∧ ((opTok (dt 0)).value = 0 ↔ tH.pm = .onTrue) ∧
      (opTok (dt 1)).kind = .data ∧ ((opTok (dt 1)).value = 0 ↔ ffH.pm = .onTrue)) ∧
    ((opTok (kd .null)).kind = .null ∧ (opTok (kd (.stop 1))).kind = .stop 1 ∧ (opTok (kd .error)).kind = .error ∧ tH.pm = .onTrue ∧
      ffH.pm = .onFalse ∧ IsData (dt 1)) ∧ Fires ffH (at_ (kd .error) (kd (.stop 3)) (dt 0)).cur :=
  ⟨⟨.head _, .head _, sane_at _ _ _⟩, by decide, ⟨rfl, rfl, rfl, rfl, rfl, rfl⟩, rfl, rfl⟩

/-- Two lanes 1.0 and 2.0; both positive infinity. -/
theorem witness_FloatElements : Sane (at_ (dt 0x400000003F800000) (dt 0x3F8000003F800000) []) ∧
    (at_ (dt 0x400000003F800000) (dt 0x3F8000003F800000) []).cur.ctx < 4096 ∧
    Fires oH (at_ (dt 0x400000003F800000) (dt 0x3F8000003F800000) []).cur ∧ IsNum .f32x2 (dt 0x400000003F800000) ∧
    IsNum .f32x2 (dt 0x7F8000007F800000) ∧ oH.pm = .always ∧ tyLanes .f32 = 1 ∧ 1 < tyLanes .f32x2 :=
  ⟨sane_at _ _ _, (by decide : 0 < 4096), trivial, ⟨rfl, by decide⟩, ⟨rfl, by decide⟩, rfl, rfl, by decide⟩
theorem witness_RoundingAndProcedures : Sane (at_ (dt 0x81) (dt 0x41000000) (dt 0x3F800000)) ∧
    (at_ (dt 0x81) (dt 0x41000000) (dt 0x3F800000)).cur.ctx < 4096 ∧ Fires oH (at_ (dt 0x81) (dt 0x41000000) (dt 0x3F800000)).cur ∧
    IsData (dt 0x81) ∧ nanWeights .f32 (val (dt 0x81)) = false ∧ IsNum .f32 (dt 0x41000000) ∧ IsNum .f32 (dt 0x3F800000) ∧
    Ty.f32 ≠ .e2m1x16 ∧ 0 < 1 :=
  ⟨sane_at _ _ _, (by decide : 0 < 4096), trivial, rfl, by decide, ⟨rfl, by decide⟩, ⟨rfl, by decide⟩, by decide, by decide⟩

/-- A word that encodes. -/
theorem witness_DecodeOfEncode : encode (.add oH .s64) = some (0x1000000840000000, 0) ∧ wordOk true 0 (.add oH .s64) = true := by decide
theorem witness_EncodeOfDecode : 0x1000000840000000 < 2 ^ 64 ∧ decode true 0 0x1000000840000000 0 = .ok (.add oH .s64) := by decide

/-- A placed word stands where the next step fires it. -/
theorem witness_StepRunsDecoded : let s := State.reset.withFetchWord 64 0x1000000840000000
    let f : Firing := ⟨0, 1, 1, 0, none, ⟨0, 0, 0⟩, 0, placedOperand (.add oH .s64) .a, placedOperand (.add oH .s64) .b, []⟩
    s.agenda = .issue 0 1 1 :: [] ∧ s.mgmt.stopped = false ∧ nextReady s ((s.core 0).pe 1 1) = some f ∧ f.core < 128 ∧
      decode f.trestle.isNone 2 ((wordsAt s f).getD f.idx 0) ((wordsAt s f).getD (f.idx + 1) 0) = .ok (.add oH .s64) := by
  decide +kernel

/-- A token of context 0 on its way to operand a of PE (1, 1), behind n others that its buffer holds. -/
def fl (k : Kind) : Flight := ⟨tk k 5, 0, .port 1, .pe 1 1⟩
def arriving (n : Nat) (l : List Flight) : State := { State.reset with
  agenda := [.deliver 0 0], cores := [(0, { Core.init with
    flights := l, pes := [(17, { Pe.init with bufs := List.replicate n ⟨tk .data 5, 0, false⟩, resident := [1] })] })] }
theorem witness_StepRunsEventsAndMoves :
    (({ State.reset with agenda := [.event .scrub] } : State).agenda = .event .scrub :: [] ∧ toRaw .scrub = none ∧ State.reset.mgmt.stopped = false ∧
      runsStopped (.trainingTimeout 0) = true) ∧ nextReady State.reset ((State.reset.core 0).pe 1 1) = none ∧
    (State.reset.agenda = [] ∧ State.reset.queues = [] ∧ State.reset.cores = [] ∧ State.reset.frames = []) ∧
    (∀ n ∈ [3, 4], let s := arriving n [fl .data]
      s.agenda = .deliver 0 0 :: [] ∧ s.mgmt.stopped = false ∧ (s.core 0).flights[0]? = some (fl .data) ∧ (fl .data).dest = .pe 1 1 ∧
        (fl .data).tok.kind ≠ .marker ∧ repairHolds (s.core 0) (fl .data) = false ∧ ((s.core 0).pe 1 1).marked.contains 0 = false ∧
        routeFirst (s.core 0) 0 (fl .data) = true ∧ (((s.core 0).pe 1 1).bufs.filter fun b => b.tok.slot = .a).length = n) ∧
    routeFirst ((arriving 0 [fl .data, fl .data]).core 0) 1 (fl .data) = false := by
  decide +kernel

theorem witness_StepKeepsSound : State.reset.Sound ∧ step State.reset = .next { State.reset with clk := 1 } :=
  ⟨⟨rfl, rfl, rfl, rfl, rfl, rfl, rfl, rfl, rfl, rfl⟩, rfl⟩

/-- Every context-0 address below 2^48 is translated to itself, with every permission and T set. -/
def leaf0 : Word := 0x7F
def ml (a b p : List Tok) : State := { at_ a b p with cores := [(0, { Core.init with tlb := [⟨0, 0, 2 ^ 48, 0, leaf0, 0⟩] })] }
def m0 : Mem := ⟨false, false, .plain, 0, 0, 0⟩

theorem calm_ml (v w : Word) (p : List Tok) (src : ReqSrc) (h : (ml (dt v) (dt w) p).cur.carry = false)
    (h2 : (ml (dt v) (dt w) p).cur.poison = false) : Calm (ml (dt v) (dt w) p) src := ⟨h, h2, fun _ hq => absurd hq (List.not_mem_nil)⟩
theorem placed_none (s : State) (h : s.cur.trestle = none) : Placed s := fun t ht => by rw [h] at ht; cases ht

theorem witness_LoadsAndStoresRequest : let s := ml (dt 0x1000) (dt 8) (dt 9)
    Sane s ∧ Fires oH s.cur ∧ IsData s.cur.a ∧ IsData s.cur.b ∧ IsData s.cur.p ∧ oH.pm = .always ∧ (opTok (kd .error)).kind = .error ∧
      Calm s (reqSrcOf s.cur) ∧ Placed s ∧
      (∀ k ∈ [Acc3.rd, .wr], permOk (fired s 0) 0 k leaf0 = true) ∧ Passes (fired s 0) .rd false 0x1000 8 0x1000 leaf0 ∧
      Passes (fired s 0) .wr false 0x1000 8 0x1000 leaf0 ∧ Passes (fired s 0) .rd true 0x1000 8 0x1000 leaf0 := by
  refine ⟨⟨(by decide : 0 < 128), rfl⟩, trivial, rfl, rfl, rfl, rfl, rfl, calm_ml _ _ _ _ rfl rfl, placed_none _ rfl, by decide, ?_, ?_, ?_⟩
  all_goals exact ⟨by decide, by decide, rfl, 0x1000, 2, 0, rfl, rfl, fun _ h => absurd h (by decide)⟩

/-- A request of a firing of core 0 in a configuration. -/
def rq (i : Instr) (op : AccOp) (st : Stage) : Req := { Req.new 1 i (at_ (dt 0x1000) [] []).cur (.port 1) op with
  stage := st, va := 0x1000, pa := 0x1000, size := 8, translated := true, leaf := leaf0 }
def wr (q : Req) : State := { at_ [] [] [] with reqs := [q], nextId := 2 }
theorem witness_HomeAccesses :
    (∀ e ∈ [rq (.ld oH .z64 m0) .load .issued, rq (.ldt oH .z64 m0) .loadTracked .issued,
        rq (.st oH .z64 m0) (.store [1, 2, 3, 4, 5, 6, 7, 8]) .issued, rq (.amoadd oH .z64 m0) (.atomic 0 5 0) .issued],
      getReq (wr e) 1 = some e ∧ e.stage = .issued ∧ isLocal e.instr = false ∧ homeGate (wr e) e = .go ∧ e.firing.core < 128 ∧
        e.pa + e.size ≤ 2 ^ 52 ∧ badBytes (wr e) e.pa e.size = false ∧ e.firing.trestle = none ∧ e.pa % 128 + e.size ≤ 128 ∧
        findCopy ((wr e).core e.firing.core).l1 (e.pa / 128) = none ∧
        findCopy ((wr e).die (dieOfCore e.firing.core)).replicas (e.pa / 128) = none ∧ leafT e.leaf = true ∧ e.ordd = false ∧
        ((wr e).frame (e.pa / 2 ^ 16)).hostBias = false ∧ e.size = accSize e.ty) ∧
    ((wr (rq (.st oH .z64 m0) (.store []) .issued)).ctx 0).tmen = false := by decide +kernel

/-- Buffer tile 3 of core 0 belongs to context 0. -/
def tl (a b p : List Tok) : State :=
  { at_ a b p with cores := [(0, { Core.init with tiles := [(3, { MemTile.init with role := 1, owner := some (0, 0) })] })] }
theorem witness_LocalAndAbsentAccesses :
    (Sane (at_ (dt 1) (dt 2) (dt 0)) ∧ (at_ (dt 1) (dt 2) (dt 0)).cur.carry = false ∧ (.ld : Hdr → Ty → Mem → Instr) ∈ memOps ∧ tH.pm ≠ .always ∧
      (opTok (dt 0)).kind = .data ∧ ((opTok (dt 0)).value = 0 ↔ tH.pm = .onTrue) ∧ (opTok (kd .null)).kind = .null) ∧
    (let s := tl (dt 0x3FFF8) (dt 2) [];
      Sane s ∧ Fires oH s.cur ∧ IsData s.cur.a ∧ IsData s.cur.b ∧ Calm s (reqSrcOf s.cur) ∧ Placed s ∧ 0x3FFF8 + accSize .z64 ≤ 2 ^ 21 ∧
        ((s.core 0).tile 3).role = 1 ∧ ((s.core 0).tile 3).owner.map Prod.fst = some s.cur.ctx ∧ 0x3FFF8 % accSize .z64 = 0) ∧
    (∀ e ∈ [rq (.ldl oH .z64 m0) .load .issued, rq (.stl oH .z64 m0) (.store [1, 2, 3, 4, 5, 6, 7, 8]) .issued],
      getReq (wr e) 1 = some e ∧ e.stage = .issued ∧ isLocal e.instr = true ∧ e.firing.core < 128 ∧ e.firing.trestle = none ∧
        e.pa % 2 ^ 16 + 8 ≤ 2 ^ 16) := by
  refine ⟨⟨sane_at _ _ _, rfl, .head _, by decide, rfl, by decide, rfl⟩, ⟨⟨(by decide : 0 < 128), rfl⟩, trivial, rfl, rfl, ?_, placed_none _ rfl, ?_⟩, ?_⟩
  · exact ⟨rfl, rfl, fun _ hq => absurd hq (List.not_mem_nil)⟩
  · decide
  · decide

/-- The requests, and the port chains of a unit whose oldest iteration is 0. -/
def ch0 : Chain := ⟨0, 0, 7, 0, 0, []⟩
def wrc (l : List Req) : State := { at_ [] [] [] with reqs := l, nextId := 9, cores := [(0, { Core.init with chains := [ch0] })] }
theorem witness_AccessesAndReports :
    (let q := rq (.ld oH .z64 m0) .load .blocked;
      getReq (wr q) 1 = some q ∧ q.stage = .blocked ∧ q.translated = true ∧ q.firing.trestle = none ∧ ctxMoves (wr q) q.firing.ctx = true ∧
        heldAhead (wr q) q = false ∧ q.own = 0 ∧ plainOk (wr q) q = true) ∧
    (let q := { rq (.st oH .z64 m0) (.store [1]) .blocked with id := 2 };
      let h := { rq (.ld oH .z64 m0) .load .held with id := 1 };
      getReq (wrc [h, q]) 2 = some q ∧ heldAhead (wrc [h, q]) q = true) ∧
    (let q := { rq (.ld oH .z64 m0) .load .blocked with own := 1 };
      chainOk (wr { q with reported := true }) { q with reported := true } = true ∧ chainOk (wr q) q = false) ∧
    (let q := rq (.ld oH .z64 m0) .load .performed; getReq (wr q) 1 = some q ∧ q.stage = .performed ∧ q.firing.core < 128) ∧
    (let q := { rq (.ld oH .z64 m0) .load .issued with own := 1 };
      q.own ≠ 0 ∧ q.reported = false ∧ q.op ≠ .report ∧ chainOf ((wr q).core q.firing.core) q.firing.ctx q.firing.tag.unit = none ∧
        chainOf ((wrc [q]).core q.firing.core) q.firing.ctx q.firing.tag.unit = some ch0 ∧
        ch0.reps.contains (q.firing.tag.iter.toNat, q.own) = false) ∧
    ((63 - ch0.oldest).toNat < 64 ∧ 64 ≤ (64 - ch0.oldest).toNat ∧ (64 - ch0.oldest).toNat < 2 ^ 15) := by decide +kernel

/-- An ordered atomic under iteration 200 while its lane expects 0, at a slice that buffers 31 others. -/
def oat (st : Stage) : Req := { rq (.amoadd oH .z64 { m0 with ord := true }) (.atomic 0 5 0) st with
  ordd := true, firing := { (at_ (dt 0x1000) [] []).cur with tag := ⟨0, 0, 200⟩ } }
def wrf (q : Req) : State := { wr q with dies := [(homeDie q.pa, { Die.init with
  slices := [(homeSlice q.pa, { Slice.init with lanes := [⟨1, 9, 0, List.replicate 31 (0, 9)⟩] })] })] }
def held0 : Req := rq (.ld oH .z64 m0) .load .held
theorem witness_FencesAndRetries :
    (Sane (at_ (dt 1) [] []) ∧ Fires oH (at_ (dt 1) [] []).cur ∧ IsData (dt 1) ∧ (at_ (dt 1) [] []).cur.carry = false ∧ Placed (at_ (dt 1) [] []) ∧
      ({ m0 with scope := 6 } : Mem).scope ≠ 0 ∧ m0.scope = 0) ∧
    (let q := { rq (.waita oH .z64 m0) (.waita 3) .polling with since := 0 };
      let s := { wr q with clk := 512 };
      getReq s 1 = some q ∧ q.stage = .polling ∧ q.op = .waita 3 ∧ q.aux = 0 ∧ q.acq = false ∧ q.since + 512 ≤ s.clk ∧
        s.nat q.pa q.size ≠ (3 : Word).toNat % 2 ^ (8 * q.size) ∧ s.nat q.pa q.size = (0 : Word).toNat % 2 ^ (8 * q.size) ∧
        (wr q).clk < q.since + 512) ∧
    (∀ st ∈ [Stage.issued, .laneRefused], let q := oat st
      let l := findLane ((wrf q).homeSlice q.pa).lanes q.firing.ctx (q.pa / 8)
      getReq (wrf q) 1 = some q ∧ inLane q = true ∧ homeGate (wrf q) q = .go ∧ biasRefused (wrf q) q = false ∧ q.firing.tag.iter ≠ l.n ∧
        aheadOf l.n q.firing.tag.iter = true ∧ mayBuffer ((wrf q).homeSlice q.pa) l q.firing.tag.iter = false) ∧
    ((wr (oat .laneRefused)).clk < (oat .laneRefused).since + 16 ∧ (oat .laneRefused).since + 0 ≤ (wr (oat .laneRefused)).clk) ∧
    (0x10000000 / 2 ^ 28 ≠ 0 ∧ 9 % 8 ≠ 0 ∧ 8 / 2 ^ 28 = 0 ∧ 8 % 8 = 0) ∧
    (let s := wr held0;
      let v := reqHandle held0;
      v / 2 ^ 28 = 0 ∧ v % 8 = 0 ∧ governs s 0 (v / 2 ^ 16) = true ∧ ctxMoves s (v / 2 ^ 16) = true ∧ heldOf s v = some held0 ∧
        heldOf State.reset v = none ∧ held0.instr = .ld oH .z64 m0) := by
  refine ⟨⟨sane_at _ _ _, trivial, rfl, rfl, placed_none _ rfl, by decide, rfl⟩, ?_, ?_, ?_, ?_, ?_⟩ <;> decide +kernel

/-- An instance of unit 5 of context 0 on trestle 3, whose one exit has been taken or not, with its strand. -/
def in0 (exits : List (Nat × ExitKind)) : Inst := { newInst 0 5 0x1000 0 0 [] [] false with exits := exits }
def strand0 (st : StrandSt) : Strand := ⟨0, 5, 0x8000, 0x1000, st, Frame.init, none, 0, none, 0⟩
def blk (tr : Trestle) (st : StrandSt) (a b p : List Tok) : State :=
  { State.reset with
    cur := ⟨0, 0, 1, 0, some 3, ⟨7, 5, 0⟩, 2, a, b, p⟩
    cores := [(0, { Core.init with strands := [strand0 st], trestles := [(3, tr)] })] }
theorem witness_RegistersAndExitsOfABlock : let s := blk (.busy (in0 [])) .running (dt 0x2000) (dt 1) (dt 1)
    Sane s ∧ Fires tH s.cur ∧ Plain s ∧ InBlock s 3 (in0 []) ∧ strandOf (s.core s.cur.core) s.cur.ctx s.cur.tag.unit = some (strand0 .running) ∧
      IsData s.cur.a ∧ (opTok (kd .error)).kind = .error ∧ (opTok (kd .null)).kind = .null ∧
      (∃ e ∈ exits tH 0 (val s.cur.a), e.2.2) ∧ ((opTok (dt 0)).value = 0 ↔ tH.pm = .onTrue) := by
  refine ⟨⟨(by decide : 0 < 128), rfl⟩, ⟨rfl, by decide⟩, ⟨rfl, rfl⟩, ⟨rfl, rfl⟩, rfl, rfl, rfl, rfl, ⟨_, .head _, ?_⟩, ?_⟩
  · decide
  · decide
theorem witness_ActsWaitForCommit : let s := blk (.busy (in0 [])) .running (dt 0x2000) (dt 1) (dt 1)
    Sane s ∧ Fires tH s.cur ∧ s.cur.carry = false ∧ InBlock s 3 (in0 []) ∧ IsData s.cur.a ∧ IsData s.cur.b :=
  ⟨⟨(by decide : 0 < 128), rfl⟩, ⟨rfl, by decide⟩, rfl, ⟨rfl, rfl⟩, rfl, rfl⟩

/-- An instance that has counted to its context's limit. -/
def late0 : Inst := { in0 [] with count := 65536 }
/-- A copy that KEEP left on the trestle. -/
def kept0 : Inst := { in0 [] with mapped := false, h0 := 0, h1 := 0, words := [0], imgPa := [0x1000, 0x1008, 0x1010] }
theorem witness_BlocksBeginAndEnd :
    (let s := blk .free .ready [] [] [];
      strandOf (s.core 0) 0 5 = some (strand0 .ready) ∧ 3 < 16 ∧ (readyStrands s 0).contains (strand0 .ready) = true ∧
        grantTurn s 0 (strand0 .ready) = true ∧ (strand0 .ready).kept = none ∧ (s.core 0).trestle 3 = .free) ∧
    (let s := blk (.busy kept0) .fetching [] [] [];
      frontHeld s 0 3 = false ∧ (s.core 0).trestle 3 = .busy kept0 ∧ kept0.mapped = false ∧ kept0.ctx = 0 ∧ kept0.unit = 5 ∧
        (strand0 .fetching).st = .fetching ∧ ctxMoves s 0 = true ∧ keptSame s kept0 = true) ∧
    (let s := blk (.busy late0) .running [] [] [];
      (s.core 0).trestle 3 = .busy late0 ∧ late0.mapped = true ∧ ctxMoves s 0 = true ∧ (s.ctx 0).wdog.toNat ≤ late0.count ∧
        (settled s 0 3 late0 && commitDue late0) = false ∧ strandOf (s.core 0) late0.ctx late0.unit = some (strand0 .running)) ∧
    (let i := in0 [(2, .bro 4)];
      let s := blk (.busy i) .running [] [] [];
      i.ctx < 2 ^ 12 ∧ (s.core 0).trestle 3 = .busy i ∧ settled s 0 3 i = true ∧ commitDue i = true ∧ i.held = [] ∧ i.acts = [] ∧
        nextBlock i (.bro 4) = some 0x1040 ∧ nextBlock i (.bri 0x2000) = some 0x2000 ∧ i.trapAfter = false ∧ i.h0.testBit 48 = false ∧
        (s.reqs.any fun q => decide (q.firing.core = 0 ∧ q.src = .front 3)) = false) := by decide +kernel

theorem runs_at (h : Hdr) (a b p : List Tok) (hp : Fires h (at_ a b p).cur) (hc : (at_ a b p).cur.carry = false) : Runs h (at_ a b p) :=
  ⟨sane_at _ _ _, hp, hc⟩

/-- Stream context 2 of port 13 belongs to the firing's unit; a unit lives on the core; a group is live. -/
def str0 (st : StreamSt) : Stream := { Stream.init with st := st }
def unit0 (st : UnitSt) : Work := ⟨0, 0, 0, st, 0, 0, true, false, 0x1000, 0x8000, 7, 1, false, false, 0, false⟩
def grp0 : Group := ⟨true, 0, 1, 0, none, 2, true, false, false, 0, 0, 0⟩
def sq (v : Word) : State := { at_ (dt v) [] [] with
  works := [unit0 .live], groups := [(0, grp0)], dies := [(0, { Die.init with jobs := [(3, { Job.init with used := true })] })],
  cores := [(0, { Core.init with ports := [(13, { PortTile.init with streams := [(2, str0 .running)] })] })] }
theorem witness_StatusReads :
    (Runs oH (at_ (dt 1) [] []) ∧ IsData (dt 1) ∧ Unheld (at_ (dt 1) [] []) (reqSrcOf (at_ (dt 1) [] []).cur)) ∧
    (namedStream (sq 45) (sq 45).cur 45 = some (13, 2, str0 .running)) ∧
    (itemOf (sq 0) 0 = .unit (unit0 .live) ∧ itemOf (at_ (dt 0) [] []) 0 = .gone ∧ itemOf (sq 0x200000) 0x200000 = .group 0 ∧
      0x200000 / 2 ^ 36 = 0 ∧ 0x200000 / 2 ^ 21 % 8 ≤ 4 ∧ 0x200000 / 2 ^ 24 % 2 ^ 12 = 0) ∧
    walk (at_ (dt 0) [] []) 0 0 = .fault true 3 0 ∧
    (0xC000 / 2 ^ 36 = 0 ∧ 0xC000 % 2 ^ 8 = 0 ∧ ((sq 0xC000).die 0).job 3 = { Job.init with used := true } ∧ ((sq 0).ctx 0).det = false ∧
      (((at_ (dt 0) [] []).die 0).job 3).used = false) ∧
    (drvReserved 0 = false ∧ liveRegion (at_ (dt 0) [] []) 0 0 = none) := by
  refine ⟨⟨runs_at _ _ _ _ trivial rfl, rfl, fun _ hq => absurd hq (List.not_mem_nil)⟩, ?_, ⟨rfl, rfl, rfl, by decide, by decide, by decide⟩, ?_, ?_, ?_⟩ <;>
    decide +kernel

theorem witness_ContextRegisters :
    (Runs oH (at_ (dt 1) (dt 4095) []) ∧ IsData (dt 1) ∧ IsData (dt 4095) ∧ (4095 : Word).toNat < 2 ^ 12 ∧
      Unheld (at_ (dt 1) (dt 4095) []) (reqSrcOf (at_ (dt 1) (dt 4095) []).cur)) ∧
    (let s := at_ (dt 1) (dt 4095) [];
      governs s 0 0 = true ∧ (s.ctx 0).st ≠ .absent ∧ (∃ r ∈ registers s 0 0, (0x021 : BitVec 12).toNat = r.1) ∧ governs s 0 4095 = true ∧
        (s.ctx 4095).st = .absent ∧ s.cur.trestle = none) ∧
    (let s := { at_ (dt 1) (dt 5) [] with ctxs := [(0, { Ctx.init with st := .idle, gov := 9 }), (5, { Ctx.init with st := .idle, gov := 9 })] };
      governs s 0 5 = false) ∧
    ((∃ w ∈ registerWrites 4, (0x019 : BitVec 12).toNat = w.1 ∧ w.2.1 = true) ∧ (∃ w ∈ registerWrites 3, (0x019 : BitVec 12).toNat = w.1 ∧ w.2.1 = false)) ∧
    ((State.reset.ctx 0).st ≠ .absent ∧ (State.reset.ctx 9).st = .absent ∧ (0x2000000000000 : Word).getLsbD 49 = true ∧
      1 ≤ privCode (State.reset.ctx 0).priv ∧ (State.reset.ctx 0).priv = .monitor ∧ ticksFree State.reset 0 = true) ∧
    (let s := { State.reset with ctxs := [(0, Ctx.monitor), (5, { Ctx.init with st := .saved })] };
      0 ≠ 5 ∧ governs s 0 5 = true ∧ (s.ctx 5).st = .saved ∧ (s.ctx 5).priv ≠ .monitor) ∧
    (({ State.reset with clk := 2 ^ 24 } : State).mgmt.scrubClk + 2 ^ 24 ≤ 2 ^ 24) := by
  refine ⟨⟨runs_at _ _ _ _ trivial rfl, rfl, rfl, by decide, fun _ hq => absurd hq (List.not_mem_nil)⟩, ?_, ?_, ?_, ?_, ?_, ?_⟩
  · refine ⟨by decide, by decide, ⟨(0x021, 0x0000004040081000), by decide, rfl⟩, by decide, by decide, rfl⟩
  · decide
  · exact ⟨⟨_, .tail _ (.tail _ (.tail _ (.tail _ (.tail _ (.tail _ (.tail _ (.tail _ (.head _)))))))), by decide, by decide⟩,
      ⟨_, .tail _ (.tail _ (.tail _ (.tail _ (.tail _ (.tail _ (.tail _ (.tail _ (.head _)))))))), by decide, by decide⟩⟩
  · decide
  · decide
  · decide

/-- Context 0 has a ring of sixteen entries at 0x10000. -/
def rg (a b p : List Tok) : State := { at_ a b p with ctxs := [(0, { Ctx.monitor with frBase := 0x10000 })] }
theorem witness_TrapsAndReturns :
    (let s := rg (dt 7) [] [];
      Runs oH s ∧ IsData s.cur.a ∧ s.cur.trestle = none ∧ s.cur.ctx < 2 ^ 12 ∧ (s.ctx 0).det = false ∧ (s.ctx 0).frBase ≠ 0 ∧
        0x10000 + 64 + 64 * 2 ^ (s.ctx 0).frSize.toNat ≤ 2 ^ 52 ∧
        (s.nat 0x10000 4 + 2 ^ 32 - s.nat (0x10000 + 8) 4) % 2 ^ 32 ≠ 2 ^ (s.ctx 0).frSize.toNat) ∧
    (let s := blk (.busy (in0 [])) .running (dt 7) [] [];
      Runs oH s ∧ InBlock s 3 (in0 []) ∧ strandOf (s.core 0) (in0 []).ctx (in0 []).unit = some (strand0 .running)) ∧
    (((at_ (dt 1) [] []).ctx 0).brk = false ∧
      (({ at_ (dt 1) [] [] with ctxs := [(0, { Ctx.monitor with brk := true })] } : State).ctx 0).brk = true) ∧
    (∀ st ∈ [StrandSt.trapped, .ready], let s := { at_ (dt 10) (dt 0x1000) [] with cores := [(0, { Core.init with strands := [strand0 st] })] }
      10 / 2 ^ 36 = 0 ∧ 10 / 2 ^ 21 % 8 = 0 ∧ 10 % 2 = 0 ∧ (0x1000 : Word).toNat % 16 = 0 ∧ (0x1000 : Word).toNat < 2 ^ 48 ∧ governs s 0 0 = true ∧
        ctxMoves s 0 = true ∧ strandOf (s.core 0) 0 (BitVec.ofNat 13 (10 / 2 % 2 ^ 13)) = some (strand0 st) ∧ s.reqs = []) := by
  refine ⟨⟨⟨⟨(by decide : 0 < 128), rfl⟩, trivial, rfl⟩, ?_⟩, ⟨⟨⟨(by decide : 0 < 128), rfl⟩, trivial, rfl⟩, ⟨rfl, rfl⟩, rfl⟩, ?_, ?_⟩
  · exact ⟨rfl, rfl, by decide, rfl, by decide, by decide, by decide⟩
  · decide
  · decide

/-- Context 0 has a page table at 0x10000 whose one leaf maps its lowest 4 GiB to themselves; a launch record lies at 0x20000. -/
def pgMem : Tab Byte := [(0x10000, 0x01), (0x10001, 0x08), (0x10002, 0x01), (0x10800, 0x7F), (0x20006, 0x10), (0x20007, 0x08), (0x20020, 0x40), (0x20021, 0x02)]
def que0 (st : QSt) : Queue := { Queue.init with st := st, tail := 1, base := 0x20000 }
def qs (st : QSt) : State := { State.reset with
  mem := pgMem, ctxs := [(0, { Ctx.monitor with ptroot := 0x10000 })], queues := [(0, que0 st)] }
def liveS (st : StrandSt) (c : Nat) : State := { State.reset with
  works := [unit0 .live], groups := [(0, { grp0 with counter := c })], cores := [(0, { Core.init with strands := [{ strand0 st with unit := 0 }] })] }
theorem witness_QueuesAndUnits :
    (((qs .enabled).queue 5).st = .disabled ∧ (∀ st ∈ [QSt.enabled, .stopped, .draining], ((qs st).queue 0).st = st) ∧
      ((16 : BitVec 32) - ((qs .enabled).queue 0).head).toNat ≤ 16 * 2 ^ ((qs .enabled).queue 0).size.toNat ∧
      16 * 2 ^ ((qs .enabled).queue 0).size.toNat < ((17 : BitVec 32) - ((qs .enabled).queue 0).head).toNat) ∧
    (let s := qs .enabled;
      let x := s.queue 0;
      let y := lrecOf (s.bytes 0x20000 64);
      queuesOf s 0 = [0] ∧ x.st = .enabled ∧ x.head ≠ x.tail ∧ ctxMoves s 0 = true ∧
        checkWalk s 0 (x.slotVa x.head.toNat) 64 .rd false = .ok 0x20000 leaf0 ∧ frameWaits s 0x20000 = false ∧ s.lines = [] ∧ y.kind = 0 ∧
        y.bad x = false ∧ dispatchable x y = true ∧ y.caddr = 0 ∧ x.cur2 = none ∧ x.cur3 = none ∧ x.cur4 = none ∧ (s.group 0).used = false) ∧
    (let s := { State.reset with works := [unit0 .waiting] };
      let w := unit0 .waiting;
      w.core = 0 ∧ w.ctx < 2 ^ 12 ∧ w.strand = true ∧ ctxMoves s w.ctx = true ∧
        leastBy workBefore (s.works.filter fun z => decide (z.core = 0 ∧ z.st = .waiting) && ctxMoves s z.ctx) = some w ∧ w.stalled = false ∧
        (∀ z ∈ s.works, z.core = 0 → z.ctx = w.ctx → z.num = w.num → z.st ≠ .live) ∧ (s.cluster (0 / 4)).fused = w.fuse ∧
        (s.core 0).strands.length < 64) ∧
    (∀ c ∈ [1, 2], let s := liveS .halted c
      let w := unit0 .live
      w.num = BitVec.ofNat 13 0 ∧ w.group < 2 ^ 15 ∧
        s.works.find? (fun z => decide (z.ctx = w.ctx ∧ z.num = BitVec.ofNat 13 0 ∧ z.core = 0 ∧ z.st = .live)) = some w ∧ w.ended = false ∧
        strandOf (s.core 0) w.ctx w.num = some { strand0 .halted with unit := 0 } ∧ (strand0 .halted).st = .halted ∧
        unitBusy s 0 w.ctx w.num = false ∧ (s.group w.group).counter = c ∧ (s.group w.group).used = true ∧ (s.group w.group).closed = true ∧
        (s.group w.group).done = false ∧ (s.group w.group).caddr = 0 ∧ (s.group w.group).parent = none ∧ (s.group w.group).queue < 2 ^ 14) := by
  decide +kernel

/-- The instruction's request has entered. -/
def asked (s : State) (i : Instr) (src : ReqSrc) : R s := addReq (R.start s) fun _ => Req.new s.nextId i s.cur src .ctl
theorem asked_s (s : State) (i : Instr) (src : ReqSrc) : (asked s i src).s = waits s i src := rfl
def la (v : Word) : State := { ml (dt v) [] [] with queues := [(0, que0 .enabled)] }
theorem witness_LaunchAndGroups :
    (Runs oH (la 0x1000) ∧ IsData (la 0x1000).cur.a ∧ (la 0x1000).cur.trestle = none ∧ Unheld (la 0x1000) (reqSrcOf (la 0x1000).cur) ∧
      ∀ q ∈ (la 0x1000).reqs, q.firing.core = (la 0x1000).cur.core → q.stage = .performed) ∧
    (let s := la 0x1000;
      let x := s.queue 0;
      0x1000 % 64 = 0 ∧ x.ctx.toNat = s.cur.ctx ∧ x.st = .enabled ∧ ctxMoves s x.ctx.toNat = true ∧ (x.tail - x.head).toNat ≠ 16 * 2 ^ x.size.toNat ∧
        (asked s (.launch oH 0) (reqSrcOf s.cur)).s = waits s (.launch oH 0) (reqSrcOf s.cur) ∧
        (vRead (asked s (.launch oH 0) (reqSrcOf s.cur)) 0 0 0x1000 64 64).2 = .val (s.bytes 0x1000 64) ∧
        (vPrep (vRead (asked s (.launch oH 0) (reqSrcOf s.cur)) 0 0 0x1000 64 64).1 0 0 0x20040 64 64 .wr).2 = .val (0x20040, leaf0) ∧
        x.base.toNat / 64 * 64 + 64 * (x.tail.toNat % (16 * 2 ^ x.size.toNat)) = 0x20040) ∧
    (workOf (la 0) 0 0 0 = none ∧ workOf (liveS .running 2) 0 0 0 = some (unit0 .live) ∧ (unit0 .live).strand = true ∧
      2 ≤ ((liveS .running 2).group 0).counter) ∧
    (Names (la 0) 0 .gone ∧ itemDone (la 0) .gone = true) ∧
    (let s := { at_ (dt 0) [] [] with works := [unit0 .waiting], groups := [(0, grp0)] };
      Names s 0 (.unit (unit0 .waiting)) ∧ itemDone s (.unit (unit0 .waiting)) = false ∧ insideItem s s.cur (.unit (unit0 .waiting)) = false ∧
        (unit0 .waiting).st = .waiting ∧ (unit0 .waiting).ended = false ∧ (s.ctx 0).st ≠ .cutting ∧ 2 ≤ (s.group 0).counter) := by
  refine ⟨⟨⟨⟨(by decide : 0 < 128), rfl⟩, trivial, rfl⟩, rfl, rfl, fun _ hq => absurd hq (List.not_mem_nil), fun _ hq => absurd hq (List.not_mem_nil)⟩,
    ⟨by decide, rfl, rfl, rfl, by decide, rfl, by rfl, by rfl, by decide⟩, ⟨rfl, rfl, rfl, by decide⟩, ⟨⟨by decide, by decide, .inl rfl, rfl⟩, rfl⟩,
    ⟨⟨by decide, by decide, .inl rfl, rfl⟩, rfl, rfl, rfl, rfl, by decide, by decide⟩⟩

/-- Bytes from an address on. -/
def from_ (base : Nat) (l : List Byte) : Tab Byte := l.zipIdx.foldl (fun t x => tabSet 0 (base + x.2) x.1 t) []
/-- The value of a read passes a test. -/
def valIs {α : Type} (x : Got α) (p : α → Bool) : Bool := match x with | .val l => p l | _ => false

/-- A request at a barrier of state st with n pending, in phase 5. -/
def barS (st : Byte) (n : Byte) (op : AccOp) : State × Req :=
  let q := { rq (.bararr oH) op .issued with size := 16 }
  ({ wr q with mem := from_ 0x1000 [n, 0, 0, 0, 0, 0, 0, 0, 5, 0, 0, 0, st] }, q)
theorem witness_Barriers :
    (let s := ml (dt 0x1000) (dt 8) [];
      Sane s ∧ Fires oH s.cur ∧ IsData s.cur.a ∧ IsData s.cur.b ∧ Calm s (reqSrcOf s.cur) ∧ s.cur.trestle = none ∧
        Passes s .rw true 0x1000 16 0x1000 leaf0) ∧
    (∀ op ∈ [AccOp.barrier 0 0, .barrier 1 (-3), .barrier 1 1, .barrier 2 1, .barwt 5, .barwt 4, .bartst], ∀ st ∈ [(0 : Byte), 1, 2, 3],
      let e := barS st 3 op
      getReq e.1 1 = some e.2 ∧ e.2.stage = .issued ∧ isLocal e.2.instr = false ∧ homeGate e.1 e.2 = .go ∧ e.2.firing.core < 128 ∧
        e.2.pa + e.2.size ≤ 2 ^ 52 ∧ badBytes e.1 e.2.pa e.2.size = false ∧ e.2.op = op ∧ e.2.size = 16 ∧
        (e.1.frame (e.2.pa / 2 ^ 16)).hostBias = false ∧ barOf (e.1.bytes e.2.pa 16) = ⟨3, 5, st.toNat, 0, 0⟩ ∧ leafT e.2.leaf = true ∧
        (e.1.ctx e.2.firing.ctx).det = false) ∧
    (-2 ^ 63 ≤ (3 : Int) + -3 ∧ (3 : Int) + -3 < 2 ^ 63 ∧ (5 : Nat) = (4 + 1) % 2 ^ 32 ∧ (5 : Nat) < 2 ^ 32) := by
  refine ⟨⟨⟨(by decide : 0 < 128), rfl⟩, trivial, rfl, rfl, calm_ml _ _ _ _ rfl rfl, rfl, ?_⟩, ?_, ?_⟩
  · exact ⟨by decide, by decide, rfl, 0x1000, 2, 0, rfl, rfl, fun _ h => absurd h (by decide)⟩
  · decide +kernel
  · decide

/-- A fill of 200 bytes at 0x1040 with its footprint. -/
def card0 : List Byte := [2, 0, 1, 0, 0, 0, 0, 0] ++ bytesLE 8 200 ++ bytesLE 8 0 ++ bytesLE 8 0x1040 ++ List.replicate 48 0 ++
  (bytesLE 8 0x1040 ++ bytesLE 6 200 ++ [2, 0]) ++ List.replicate 32 0
def job0 (st : JobSt) (order landed : Nat) : Job :=
  { Job.init with used := true, st := st, card := card0, order := order, landed := landed }
def jb (l : Tab Job) : State := { State.reset with
  mem := pgMem, ctxs := [(0, { Ctx.monitor with ptroot := 0x10000 })], dies := [(0, { Die.init with jobs := l })] }
theorem witness_JobsArePosted :
    (let s := { ml (dt 0x2000) [] [] with mem := from_ 0x2000 card0 };
      Runs oH s ∧ IsData s.cur.a ∧ s.cur.trestle = none ∧ s.cur.poison = false ∧ Unheld s (reqSrcOf s.cur) ∧ s.reqs = [] ∧ 0x2000 % 128 = 0 ∧
        (asked s (.engpost oH) (reqSrcOf s.cur)).s = waits s (.engpost oH) (reqSrcOf s.cur) ∧
        valIs (vRead (asked s (.engpost oH) (reqSrcOf s.cur)) 0 0 0x2000 128 128).2 (fun c =>
          decide (cardCollective c = false ∧ cardOk c [] = true ∧ freeInbox (s.die (cardDie c)) = some 0)) = true) ∧
    (let s := jb [(3, job0 .posted 0 0)];
      ((s.die 0).job 3).used = true ∧ ((s.die 0).job 3).st = .posted ∧ ((s.die 0).job 3).order = 0 ∧
        ∀ x ∈ (s.die 0).jobs, x.2.open? = true → x.2.ctx = 0 → 0 < x.2.order → footEdge x.2.card card0 = false) ∧
    (let s := jb [(3, job0 .posted 0 0), (4, job0 .running 1 0)];
      ∃ x ∈ (s.die 0).jobs, x.1 ≠ 3 ∧ x.2.open? = true ∧ x.2.ctx = 0 ∧ 0 < x.2.order ∧ x.2.order < 2 ∧ footEdge x.2.card card0 = true) := by
  refine ⟨⟨⟨⟨(by decide : 0 < 128), rfl⟩, trivial, rfl⟩, rfl, rfl, rfl, fun _ hq => absurd hq (List.not_mem_nil), rfl, by decide, asked_s _ _ _, ?_⟩, ?_, ?_⟩
  · decide +kernel
  · decide +kernel
  · decide +kernel

/-- Member 0 of a ring of two that gathers 64 bytes; its flags lie at 0x3000. -/
def ring0 : List Byte := bytesLE 2 2 ++ bytesLE 2 0 ++ List.replicate 4 0 ++ bytesLE 8 0x3000 ++ List.replicate 48 0
def cardG : List Byte := [0x12, 0, 2, 2, 0, 0, 0, 0] ++ bytesLE 8 64 ++ bytesLE 8 0x1000 ++ bytesLE 8 0x1000 ++ bytesLE 8 0x4000 ++ List.replicate 40 0 ++
  (bytesLE 8 0x1000 ++ bytesLE 6 64 ++ [3, 0]) ++ (bytesLE 8 0x3000 ++ bytesLE 6 64 ++ [3, 0]) ++ List.replicate 16 0
def jIs {α : Type} (x : JRes α) (p : α → Bool) : Bool := match x with | .ok l => p l | _ => false
def gath : Job := { Job.init with used := true, st := .running, card := cardG, ring := ring0, order := 1 }
theorem witness_JobsAndRings :
    (∀ st ∈ [JobSt.posted, .waiting], let s := jb [(3, job0 st 1 0)]
      ((s.die 0).job 3).used = true ∧ ((s.die 0).job 3).st = st ∧ ctxMoves s 0 = true ∧ 0 < ((s.die 0).job 3).order ∧ jobWaits s 0 3 = false ∧
        jobBehind s 0 3 = false ∧ ((s.die 0).job 3).collective = false ∧ (startChecks s 0 card0).findSome? resCode = none) ∧
    (startChecks State.reset 0 (card0.set 57 0x10)).findSome? resCode = some 0x10 ∧
    (∀ n ∈ [0, 64, 200], let s := jb [(3, job0 .running 1 n)]
      ((s.die 0).job 3).used = true ∧ ((s.die 0).job 3).st = .running ∧ ctxMoves s 0 = true ∧ ((s.die 0).job 3).cwPa = 0 ∧ cardReply card0 = 0 ∧
        cardOp card0 = 2 ∧ (n < cardTotal card0 ∨ cardTotal card0 ≤ n) ∧ ((s.die 0).job 3).barPa = 0) ∧
    (let s := jb [(3, job0 .running 1 0)]; (jobAccess (R.start s) 0 3 0x1040 64 true false).1.s = s ∧
      jIs (jobAccess (R.start s) 0 3 0x1040 64 true false).2 (fun p => decide (p = (0x1040, leaf0))) = true ∧ leafT leaf0 = true ∧
      0x1040 + 64 ≤ 2 ^ 52) ∧
    (let s := jb [(3, gath)];
      ((s.die 0).job 3).used = true ∧ ((s.die 0).job 3).st = .running ∧ ctxMoves s 0 = true ∧ ((s.die 0).job 3).collective = true ∧
        gath.step < ringSteps gath ∧ (∀ n ∈ gath.neighbours, s.clk ≤ gath.since + (s.link (portTo s (0 * 32) n)).cto.toNat * 2100) ∧
        (∃ n ∈ gath.neighbours, gath.since + ((jb [(3, gath)]).link (portTo (jb [(3, gath)]) (0 * 32) n)).cto.toNat * 2100 < 2100001) ∧
        ringRecv gath = some ((0, 32), [0], false) ∧ (List.replicate 32 (0 : Byte)).length = 32 ∧ gath.got = false ∧ gath.barPa = 0) ∧
    (let s := jb [(3, gath)];
      let x := ringStore (R.start s) 0 3 (cutRange (cardDst gath.card + 0) 32) (List.replicate 32 7);
      jIs x.2 (fun _ => true) = true ∧ jIs (ringStore x.1 0 3 (([0] : List Nat).flatMap fun k => cutRange (fieldLE gath.ring 8 8 + 4 * k) 4)
        (([0] : List Nat).flatMap fun _ => bytesLE 4 (gath.step + 1))).2 (fun _ => true) = true) := by
  refine ⟨?_, ?_, ?_, ?_, ?_, ?_⟩ <;> decide +kernel

/-- Configuration 0 in some slots, whose descriptor is all zeros; it is bound on core 1 and stands in cluster 0's cache. -/
def cfgZ (slots : Nat) : Machine.Config := ⟨0, 0, List.replicate 64 0, 0x2000, slots, false, [(9, 9)], [], 0, 0, [], [], [], [], [⟨3, 4, 1, [], []⟩]⟩
def bnd (st : BindSt) (slots : Nat) : Binding := ⟨cfgZ slots, st, .idle, []⟩
def entZ (st : CfgSt) : CacheEnt := ⟨cfgZ 2, st, 0, none, 0, 0⟩
def cs (v b : Word) (bs : Tab Core) (cache : List CacheEnt) : State :=
  { ml (dt v) (dt b) [] with
    cores := (0, { Core.init with tlb := [⟨0, 0, 2 ^ 48, 0, leaf0, 0⟩] }) :: bs
    clusters := if cache = [] then [] else [(0, { Cluster.init with cache := cache })] }
def on1 (b : Binding) : Tab Core := [(1, { Core.init with bindings := [b] })]
theorem asks_cs (v b : Word) (bs : Tab Core) (cache : List CacheEnt) : Asks oH (cs v b bs cache) :=
  ⟨⟨⟨(by decide : 0 < 128), rfl⟩, trivial, rfl⟩, rfl, fun _ hq => absurd hq (List.not_mem_nil)⟩
theorem reads_of (s : State) (i : Instr) (va n al : Nat) (u : R s) (l : List Byte)
    (h : vRead (asked s i (reqSrcOf s.cur)) s.cur.core s.cur.ctx va n al = (u, .val l)) : Reads s i va n al u l := fun r hr => by
  have : r = asked s i (reqSrcOf s.cur) := by
    cases r with | mk t ok => cases (hr : t = _); rfl
  rw [this]; exact h
/-- The read of a descriptor at 0x2000, and of the 384 bytes of one. -/
def rdZ (s : State) (i : Instr) : GotR s (List Byte) := vRead (asked s i (reqSrcOf s.cur)) s.cur.core s.cur.ctx 0x2000 128 128
def rdR (s : State) (i : Instr) : GotR s (List Byte) := vRange (asked s i (reqSrcOf s.cur)) s.cur.core s.cur.ctx 128 3 0x2000
theorem witness_ConfigurationInstructions :
    (Asks oH (cs 0x100000000 0 (on1 (bnd .live 2)) []) ∧ tilePos (32 / 32) (32 % 32) = some (8, 8) ∧ 32 < 2 ^ 8 ∧ 2 ^ 31 = 2 ^ 31 ∧ 31 < 32) ∧
    (bindingOf (cs 0 0 [] []) 0 0 0 = none ∧ IsData (dt 0) ∧
      ∀ st ∈ [BindSt.live, .idle, .draining, .drained, .repairing], let s := cs 0x100000000 0 (on1 (bnd st 2)) []
        bindingOf s 1 0 0 = some (bnd st 2) ∧ (∀ w ∈ s.works, w.core = 1 → w.strand = true) ∧ runsUnder s s.cur 1 (bnd st 2) = false ∧
          bindingLive s 1 (bnd st 2).cfg = false ∧ bindingQuiet s 1 (bnd st 2).cfg = true) ∧
    (let s := { cs 0x100000000 1 (on1 (bnd .live 2)) [] with works := [{ unit0 .live with core := 1, strand := false }], cores := [(1, { Core.init with
        bindings := [bnd .live 2], chains := [{ ch0 with cfgid := 0 }] })] };
      bindingLive s 1 (bnd .live 2).cfg = true) ∧
    runsUnder (at_ [] [] []) (at_ [] [] []).cur 0 (bnd .live 1) = true ∧
    (∀ st ∈ [CfgSt.resident, .pinned], let s := cs 0x2000 0 [] [entZ st]
      valIs (rdZ s (.cfgpin oH true)).2 (fun l => decide (cacheFind (rdZ s (.cfgpin oH true)).1.s 0 0 (cfgDesc l).cfgid = some (entZ st) ∧
        (entZ st).cfg.digest = (cfgDesc l).digest ∧ (entZ st).size ≤ 1792)) = true) ∧
    (∀ c ∈ [[], [entZ .resident]], let s := cs 0x2000 0 [] c
      0x2000 % 128 = 0 ∧ s.reqs = [] ∧ valIs (rdR s (.cfgld oH false)).2 (fun l =>
        decide (cacheFind (rdR s (.cfgld oH false)).1.s 0 0 (cfgDesc l).cfgid = c.head? ∧ (cfgDesc l).digest = (cfgZ 2).digest ∧
          ((rdR s (.cfgld oH false)).1.s.cluster 0).cache.length < 32 ∧ (cfgDesc l).count ≤ 1792) &&
        valIs (readConfig (rdR s (.cfgld oH false)).1 0 0 0x2000 l).2 fun _ => true) = true) ∧
    (∀ st ∈ [BindSt.idle, .drained], let s := cs 0x100000000 0x2000 (on1 (bnd st 2)) [entZ .resident]
      bindingOf s 1 0 0 = some (bnd st 2) ∧ runsUnder s s.cur 1 (bnd st 2) = false ∧ bindingQuiet s 1 (bnd st 2).cfg = true ∧
        valIs (rdZ s (.cfgswap oH)).2 (fun l => decide (cacheFind (rdZ s (.cfgswap oH)).1.s (1 / 4) 0 (cfgDesc l).cfgid = some (entZ .resident) ∧
          (entZ .resident).cfg.digest = (cfgDesc l).digest ∧ ((rdZ s (.cfgswap oH)).1.s.core 1).failed = [])) = true ∧
        ∀ x ∈ (s.core 1).bindings, ¬(x.cfg.ctx = 0 ∧ x.cfg.cfgid = 0) → conflicts x.cfg (entZ .resident).cfg = false) := by
  refine ⟨⟨asks_cs _ _ _ _, by decide, by decide, rfl, by decide⟩, ⟨rfl, rfl, ?_⟩, ?_, rfl, ?_, ?_, ?_⟩ <;> decide +kernel

/-- A CFGDRAIN of configuration 0 of core 1 that waits since clk 0 for 100 clk. -/
def drn : Req := { rq (.cfgdrain oH) .ctl .blocked with aux := 1, firing := (at_ (dt 0x100000000) (dt 100) []).cur }
def drS (bs : Tab Core) (clk : Nat) : State := { at_ [] [] [] with reqs := [drn], nextId := 2, cores := bs, clk := clk }
def ldS (e : CacheEnt) (l : List Req) : State := { State.reset with clusters := [(0, { Cluster.init with cache := [e] })], reqs := l }
theorem witness_ConfigurationEvents :
    (∀ e ∈ [entZ .resident, entZ .loading, { entZ .loading with bad := some (2, 0, 0) }], ((ldS e []).cluster 0).cache[0]? = some e ∧
      getReq (ldS e []) e.by_ = none ∧ waitingFor (ldS e []) 0 e.cfg.ctx e.cfg.addr = []) ∧
    (let q := rq (.cfgld oH false) .ctl .blocked;
      getReq (ldS { entZ .loading with by_ := 1 } [q]) 1 = some q ∧ q.instr = .cfgld oH false) ∧
    (Drains (drS [] 0) 1 drn 1 0 ∧ (opTok drn.firing.b).value.toNat = 100 ∧ (drS [] 99).clk < drn.since + 100 ∧ drn.since + 100 ≤ (drS [] 100).clk ∧
      ctxMoves (drS [] 0) 0 = true ∧ otherDrain (drS [] 0) drn = false ∧ bindingOf (drS [] 0) 1 0 0 = none ∧
      bindingOf (drS (on1 (bnd .draining 2)) 0) 1 0 0 = some (bnd .draining 2) ∧
      bindingLive (drS (on1 (bnd .draining 2)) 0) 1 (cfgZ 2) = false ∧ bindingQuiet (drS (on1 (bnd .draining 2)) 0) 1 (cfgZ 2) = true ∧
      bindingQuiet (drS [(1, { Core.init with bindings := [bnd .draining 2], flights := [{ fl .data with tok := { tk .data 5 with tag := ⟨1, 0, 0⟩ } }] })] 0) 1
        (cfgZ 2) = false) ∧
    (let s := { State.reset with cores := [(1, { Core.init with bindings := [bnd .repairing 2], failed := [(3, 4)] })] };
      (s.core 1).failed.contains (5, 5) = false ∧ (∀ b ∈ (s.core 1).bindings, b.st = .repairing) ∧ (s.core 1).bindings ≠ [] ∧
        (s.core 1).failed.contains (3, 4) = true ∧ (s.core 1).bindings = [bnd .repairing 2] ∧ (bnd .repairing 2).prior ≠ .repairing ∧
        ((bnd .repairing 2).cfg.images.any fun i => i.x = 3 ∧ i.y = 4) = true ∧ spareFor (s.core 1) (bnd .repairing 2) 3 4 = some (9, 9) ∧
        (s.core 1).refused = [] ∧ tagsAt ((s.core 1).pe 3 4) 0 = [] ∧ (∀ z ∈ (s.core 1).strands, z.rerun ≠ 1)) := by
  refine ⟨?_, ?_, ⟨⟨rfl, ⟨_, rfl⟩, rfl, by decide, by decide, by decide, by decide⟩, ?_⟩, ?_⟩ <;> decide +kernel

/-- Context 0 maps its first two 64 KiB pages to frames 4 and 5, through the levels of a page table at 0x10000. -/
def pg4 (la lb : Nat) : Tab Byte := [(0x10000, 0x01), (0x10001, 0x08), (0x10002, 0x01), (0x10800, 0x01), (0x10801, 0x10), (0x10802, 0x01),
  (0x11000, 0x01), (0x11001, 0x18), (0x11002, 0x01)] ++ from_ 0x11800 (bytesLE 8 la ++ bytesLE 8 lb)
def ps (v b : Word) (la lb : Nat) (fr : Tab FrameSt) : State :=
  { at_ (dt v) (dt b) [] with mem := pg4 la lb, ctxs := [(0, { Ctx.monitor with ptroot := 0x10000 })], frames := fr }
def mig0 (next : Nat) : Mig := ⟨5, 1, 0, 0, 0, 0x10000, 0x11800, 0x11808, 0x4047F, 0x5047F, next⟩
theorem asks_ps (v b : Word) (la lb : Nat) (fr : Tab FrameSt) : Asks oH (ps v b la lb fr) :=
  ⟨⟨⟨(by decide : 0 < 128), rfl⟩, trivial, rfl⟩, rfl, fun _ hq => absurd hq (List.not_mem_nil)⟩
theorem witness_PageInstructions :
    (Asks oH (ps 0 1 0x4007F 0x5007F []) ∧ (ps 0 1 0x4007F 0x5007F []).cur.trestle = none ∧ Still (ps 0 1 0x4007F 0x5007F []) ∧
      IsData (ps 0 1 0x4007F 0x5007F []).cur.b ∧ NoLanes (ps 0 1 0x4007F 0x5007F []) 4) ∧
    (let s := ps 4095 4095 0x4007F 0x5007F []; 4095 < 2 ^ 12 ∧ governs s s.cur.ctx 4095 = true ∧ (s.ctx s.cur.ctx).priv = .monitor ∧
      (0x1000 : Word).toNat = 2 ^ 12) ∧
    leafAt (ps 0x20000 0 0x4007F 0x5007F []) 0 0x20000 = none ∧
    (let s := ps 0xFFFF 1 0x4007F 0x5007F []; leafAt s 0 0xFFFF = some (0x4FFFF, 0x4007F, 0, 0x11800) ∧ 0x4FFFF < 2 ^ 52 ∧
      (s.frame 4).st = .stable ∧ (s.frame 4).hostBias ≠ decide (1 = 1) ∧ (s.frame 4).hostBias = decide (0 = 1) ∧ ∀ l ∈ s.lines, l.2.half0 < 2 ∧ l.2.half1 < 2) ∧
    (((ps 0 0 0x4007F 0x5007F [(4, { FrameSt.init with st := .copying (mig0 0) })]).frame 4).st ≠ .stable) ∧
    (let s := ps 0 0x10000 0x4007F 0x5007F []; leafAt s 0 0 = some (0x40000, 0x4007F, 0, 0x11800) ∧
      leafAt s 0 0x10000 = some (0x50000, 0x5007F, 0, 0x11808) ∧ (s.frame 5).st = .stable ∧ (s.frame 5).hostBias = false ∧
      migLeaf 0x4007F 0 = true ∧ migLeaf 0x5007F 0 = true ∧ 4 ≠ 5 ∧ isRegistered s 0x40000 = false ∧ isRegistered s 0x50000 = false ∧
      localPa s 0x11808 + 8 ≤ 2 ^ 52) ∧
    migLeaf 0x4047F 0 = false ∧ migLeaf 0x4007F 1 = false ∧
    ((ps 0 0 0x4007F 0x5007F [(5, { FrameSt.init with hostBias := true })]).frame 5).hostBias = true ∧
    isRegistered ({ ps 0 0 0x4007F 0x5007F [] with
      dies := [(0, { Die.init with regions := [(0, { Region.init with st := .active, frames := [(0, 4)] })] })] }) 0x40000 = true := by
  refine ⟨⟨asks_ps _ _ _ _ _, rfl, ⟨?_, ?_⟩, rfl, ?_⟩, ?_⟩
  · exact fun _ hq => absurd hq (List.not_mem_nil)
  · exact fun _ hq => absurd hq (List.not_mem_nil)
  · exact fun _ hq => absurd hq (List.not_mem_nil)
  · decide +kernel

/-- Master 2 owns a module that is ready; a mailbox command is pending or not. -/
def own (cmd : Nat) : Mgmt := { Mgmt.init with
  ready := true, owned := true, owner := 2, attached := 0xC, boxes := [(2, { Mailbox.init with pending := cmd })] }
def hst (cmd : Nat) (fr : Tab FrameSt) : State := { State.reset with mgmt := own cmd, frames := fr }
theorem witness_PageEvents :
    (∀ n ∈ [511, 512], migOf (hst 0 [(4, { FrameSt.init with st := .copying (mig0 n) })]) 1 = some (4, mig0 n, false) ∧ 4 < 2 ^ 36) ∧
    (migOf (hst 0 [(4, { FrameSt.init with st := .freezing (mig0 512) })]) 1 = some (4, mig0 512, true) ∧ (mig0 512).to_ < 2 ^ 36) ∧
    (mayCommand (hst 0 []) 3 = false ∧ mayCommand (hst 5 []) 2 = false ∧ mayCommand (hst 0 []) 2 = true ∧ ((hst 0 []).frame 4).st = .stable ∧
      ((hst 0 [(4, { FrameSt.init with st := .freezing (mig0 512) })]).frame 4).st ≠ .stable ∧ 576 * 2 ^ 14 - 1 < 576 * 2 ^ 14 ∧
      ((hst 0 []).frame 4).hostBias = false ∧ ((hst 0 []).frame 4).hostBias ≠ true) ∧
    NoLanes (hst 0 []) 4 ∧ (∀ l ∈ (hst 0 []).lines, l.2.half0 < 2 ∧ l.2.half1 < 2) := by
  refine ⟨?_, ?_, ?_, ?_, ?_⟩
  · decide +kernel
  · decide +kernel
  · decide +kernel
  · exact fun _ hq => absurd hq (List.not_mem_nil)
  · decide

/-- POST of the fill of JobsArePosted, which lies at 0x20000. -/
def pst : State := { State.reset with
  mgmt := own 0, ctxs := [(0, { Ctx.monitor with ptroot := 0x10000 })], mem := pgMem.take 4 ++ from_ 0x20000 card0 }
theorem witness_OwnershipAndHosts :
    (State.reset.mgmt.owned = false ∧ 15 < 16 ∧ (hst 0 []).mgmt.owned = true ∧ (hst 0 []).mgmt.owner.toNat = 2 ∧
      (let s := { State.reset with mgmt := { own 0 with claimClk := some 0 } };
        1 < s.mgmt.owner.toNat ∧ s.mgmt.claimClk = some s.clk) ∧
      (hst 0 []).mgmt.claimClk ≠ some (hst 0 []).clk) ∧
    (mayCommand (hst 0 []) 3 = false ∧ mayCommand (hst 0 []) 2 = true ∧ (hst 0 []).mgmt.attached.getLsbD 3 = true ∧
      (hst 0 []).mgmt.attached.getLsbD 15 = false) ∧
    (let s := { State.reset with mgmt := own 0, clk := 2 ^ 40 };
      portsOfMaster s 2 ≠ [] ∧ (∀ p ∈ portsOfMaster s 2, (s.link p).st = .down ∧ (s.link p).since + ctoClk s p < s.clk) ∧
        ∃ p ∈ portsOfMaster (hst 0 []) 2, (hst 0 []).clk ≤ ((hst 0 []).link p).since + ctoClk (hst 0 []) p) ∧
    ((hst 0 []).mgmt.ready = true ∧ 2 < 16 ∧ (hst 0 []).mgmt.attached.getLsbD 2 = true ∧ State.reset.mgmt.ready = false) ∧
    (mayCommand pst 2 = true ∧ ctxMoves pst 0 = true ∧ (0x20040 : Word).toNat % 128 ≠ 0 ∧ (0x20000 : Word).toNat % 128 = 0 ∧
      walkRead pst 0 2 0x20000 = some card0 ∧ cardCollective card0 = false ∧ cardOk card0 [] = true ∧
      freeInbox (pst.die (cardDie card0)) = some 0 ∧ cardDie card0 < 4) := by
  refine ⟨?_, ?_, ?_, ?_, ?_⟩ <;> decide +kernel

/-! ## A save image whose digest is right -/

theorem shaRound_length (v : List (BitVec 64)) (w : BitVec 64) : (shaRound v w).length = 8 := rfl
theorem shaRounds_length (l h : List (BitVec 64)) (hh : h.length = 8) : (l.foldl shaRound h).length = 8 := by
  induction l generalizing h with
  | nil => exact hh
  | cons w l ih => exact ih _ (shaRound_length h w)
theorem shaBlocks_length (n : Nat) (h : List (BitVec 64)) (l : List Byte) (hh : h.length = 8) : (shaBlocks n h l).length = 8 := by
  induction n generalizing h l with
  | zero => exact hh
  | succ n ih => exact ih _ _ (by simp [shaBlock, hh, shaRounds_length])
theorem bytesLE_length (n x : Nat) : (bytesLE n x).length = n := by
  induction n generalizing x with
  | zero => rfl
  | succ n ih => simp [bytesLE, ih]
theorem digest_length (y : List (BitVec 64)) : (y.flatMap fun z => bytesBE 8 z.toNat).length = 8 * y.length := by
  induction y with
  | nil => rfl
  | cons z y ih => rw [List.flatMap_cons, List.length_append, ih, bytesBE, List.length_reverse, bytesLE_length, List.length_cons]; omega
theorem sha512_length (l : List Byte) : (sha512 l).length = 64 :=
  (digest_length _).trans (by rw [shaBlocks_length _ _ _ rfl])

/-- An image of context 0 whose header begins as hd and whose other bytes are tl, and a module that holds it at 0x20000. -/
def imgBytes (hd tl : List Byte) : List Byte := hd ++ sha512 (hd ++ bytesLE 64 0 ++ tl) ++ tl
def imgOf (l : List Byte) : SaveImg := ⟨l, 0, 0x20000, 0, { Ctx.init with flags := 5 }, [], [], [], [], [], [], []⟩
def rsm (l : List Byte) : State := { State.reset with
  mem := l.zipIdx.map fun x => (0x20000 + x.2, x.1)
  saves := [imgOf l]
  ctxs := [(0, { Ctx.init with st := .resuming, cut := some ⟨false, 0, none, some 2⟩, saveBase := 0x20000, ptroot := 0x10000 })] }
theorem get_placed (l : List Byte) (base i k : Nat) :
    tabGet 0 (base + k + i) ((l.zipIdx k).map fun x => (base + x.2, x.1)) = l.getD i 0 := by
  induction l generalizing i k with
  | nil => rfl
  | cons b l ih =>
    cases i with
    | zero => simp [tabGet]
    | succ i =>
      have h := ih i (k + 1)
      simp only [List.zipIdx_cons, List.map_cons, tabGet, List.getD_cons_succ]
      rw [if_neg (by omega), ← h]; congr 1; omega
theorem bytes_rsm (l : List Byte) (i n : Nat) : (rsm l).bytes (0x20000 + i) n = (List.range n).map fun j => l.getD (i + j) 0 := by
  simp only [State.bytes, State.byte]
  congr 1; funext j
  rw [Nat.add_assoc]; exact get_placed l 0x20000 (i + j) 0
theorem getD_range (l : List Byte) : ((List.range l.length).map fun j => l.getD (0 + j) 0) = l := by
  apply List.ext_getElem
  · simp
  · intro i h1 h2; simp [List.getD_eq_getElem?_getD, h2]
theorem nat_rsm (hd tl : List Byte) (hh : hd.length = 24) (i n : Nat) (h : i + n ≤ 24) :
    (rsm (imgBytes hd tl)).nat (0x20000 + i) n = ofBytesLE ((List.range n).map fun j => hd.getD (i + j) 0) := by
  rw [State.nat, bytes_rsm]
  congr 1
  apply List.map_congr_left
  intro j hj
  have : i + j < hd.length := by have := List.mem_range.mp hj; omega
  simp only [imgBytes, List.append_assoc, List.getD_eq_getElem?_getD, List.getElem?_append_left this]
theorem readImage_rsm (hd tl : List Byte) (hh : hd.length = 24) (ht : tl.length = 4008)
    (e0 : ofBytesLE ((List.range 4).map fun j => hd.getD (0 + j) 0) = 0x4D495653) (e1 : ofBytesLE ((List.range 2).map fun j => hd.getD (4 + j) 0) = 1)
    (e2 : ofBytesLE ((List.range 2).map fun j => hd.getD (6 + j) 0) = 0) (e3 : ofBytesLE ((List.range 8).map fun j => hd.getD (8 + j) 0) = 4096) :
    readImage (rsm (imgBytes hd tl)) 0 = some (imgOf (imgBytes hd tl)) := by
  have hb : ((rsm (imgBytes hd tl)).ctx 0).saveBase.toNat = 0x20000 := rfl
  have hl : (imgBytes hd tl).length = 4096 := by simp only [imgBytes, List.length_append, sha512_length, hh, ht]
  have f0 : (rsm (imgBytes hd tl)).nat 0x20000 4 = _ := (nat_rsm hd tl hh 0 4 (by decide)).trans e0
  have f1 := (nat_rsm hd tl hh 4 2 (by decide)).trans e1
  have f2 := (nat_rsm hd tl hh 6 2 (by decide)).trans e2
  have f3 := (nat_rsm hd tl hh 8 8 (by decide)).trans e3
  have hB : (rsm (imgBytes hd tl)).bytes 0x20000 4096 = imgBytes hd tl := by
    have h := bytes_rsm (imgBytes hd tl) 0 4096
    have g := getD_range (imgBytes hd tl)
    rw [hl] at g
    exact h.trans g
  have t : (imgBytes hd tl).take 24 = hd := by rw [imgBytes, List.append_assoc, List.take_left' hh]
  have d : (imgBytes hd tl).drop 24 = sha512 (hd ++ bytesLE 64 0 ++ tl) ++ tl := by rw [imgBytes, List.append_assoc, List.drop_left' hh]
  have d2 : (imgBytes hd tl).drop 88 = tl := by rw [imgBytes, List.drop_left' (by rw [List.length_append, hh, sha512_length])]
  unfold readImage
  simp only [hb, f3]
  rw [f0, f1, f2, if_pos ⟨rfl, rfl, rfl, by decide, by decide⟩, hB, t, d, d2, List.take_left' (sha512_length _), if_pos rfl]
  unfold findImage
  have : (rsm (imgBytes hd tl)).saves = [imgOf (imgBytes hd tl)] := rfl
  rw [this, List.find?_cons_of_pos (by exact decide_eq_true rfl)]

def hd0 : List Byte := [0x53, 0x56, 0x49, 0x4D, 1, 0, 0, 0] ++ bytesLE 8 4096 ++ bytesLE 8 0
def rs0 : State := rsm (imgBytes hd0 (bytesLE 4008 0))
theorem readImage_rs0 : readImage rs0 0 = some (imgOf (imgBytes hd0 (bytesLE 4008 0))) :=
  readImage_rsm _ _ rfl (bytesLE_length _ _) (by decide) (by decide) (by decide) (by decide)

def ctxS (c : Nat) (x : Ctx) (l : List Work) : State := { State.reset with ctxs := [(c, x)], works := l }
theorem witness_ResetsAndPower :
    (hostMayWrite (hst 5 []) 2 = true ∧ (hst 5 []).mgmt.stopped = false ∧ hostMayWrite (hst 0 []) 3 = false ∧
      ({ hst 0 [] with mgmt := { own 0 with stopped := true } } : State).mgmt.stopped = true) ∧
    (({ State.reset with mgmt := { Mgmt.init with running := some [] } } : State).mgmt.running ≠ none ∧
      ({ State.reset with mgmt := { Mgmt.init with running := some [] } } : State).mgmt.ready = false ∧ State.reset.mgmt.running = none) ∧
    (State.reset.mgmt.owned = false ∧ (hst 0 []).mgmt.owned = true ∧ (hst 0 []).mgmt.owner.toNat = 2 ∧ (boxOf (hst 0 []) 2).pending = 0 ∧
      (boxOf (hst 5 []) 2).pending ≠ 0 ∧ (∀ x ∈ (hst 0 []).ctxs, ctxLive x.2 = false) ∧
      ∃ x ∈ (ctxS 0 { Ctx.init with st := .running } []).ctxs, ctxLive x.2 = true) ∧
    (let s := { State.reset with clk := 20999 }; s.clk < s.mgmt.thrClk + 21000 ∧
      State.reset.mgmt.thrClk + 21000 ≤ ({ State.reset with clk := 21000 } : State).clk) ∧
    (State.reset.mgmt.tj.toNat < 115 ∧ 115 ≤ ({ Mgmt.init with tj := 115 } : Mgmt).tj.toNat ∧ ({ Mgmt.init with tj := 115 } : Mgmt).stopped = false) := by
  decide +kernel
/-- No value of the free signature check is assumed: of any image, one of the two clauses of STREAM speaks. -/
theorem witness_Stream (img : List Byte) : imageAccepted img = true ∨ imageAccepted img = false := by
  cases imageAccepted img <;> simp

/-- Context 5 in a state, governed by context 0 and saved to 0x20000, with a configuration on core 1. -/
def mk (v b : Word) (st : CtxSt) : State :=
  { at_ (dt v) (dt b) [] with
    ctxs := [(0, Ctx.monitor), (5, { Ctx.init with st := st, saveBase := 0x20000 })]
    cores := [(1, { Core.init with bindings := [{ bnd .live 1 with cfg := { cfgZ 1 with ctx := 5 } }] })] }
def hk (st : CtxSt) (sv : BitVec 52) : State := { hst 0 [] with ctxs := [(0, Ctx.monitor), (5, { Ctx.init with st := st, saveBase := sv })] }
def cutS (st : CtxSt) (k : Bool) : State := { State.reset with
  ctxs := [(5, { Ctx.init with st := st, cut := some ⟨k, 0, none, some 2⟩ })]
  cores := [(1, { Core.init with
    bindings := [{ bnd .live 1 with cfg := { cfgZ 1 with ctx := 5 } }], pes := [(16 * 4 + 3, { Pe.init with marked := [5] })] })] }
theorem witness_Cuts :
    (Asks oH (mk 5 0 .running) ∧ (mk 5 0 .running).cur.trestle = none ∧ Fresh (mk 5 0 .running)) ∧
    (IsData (mk 5 0 .running).cur.b ∧ (val (mk 5 31 .idle).cur.a).toNat < 2 ^ 12 ∧ (val (mk 5 30 .idle).cur.b).toNat < 2 ^ 5 ∧ 30 % 4 ≠ 3 ∧ 31 % 4 = 3 ∧
      30 % 4 = 2 ∧ governs (mk 5 0 .running) 0 5 = true ∧ ((mk 5 0 .running).ctx 9).st = .absent ∧ ((mk 5 0 .running).ctx 0).st ≠ .absent ∧
      (∀ st ∈ [CtxSt.cutting, .saving, .resuming, .running, .saved, .idle], ((mk 5 0 st).ctx 5).st = st ∧ governs (mk 5 0 st) 0 5 = true) ∧
      ((mk 5 0 .running).ctx 5).saveBase ≠ 0 ∧ 1 ∈ coresOfCtx (mk 5 0 .running) 5 ∧ (3, 4) ∈ pesOfCtx ((mk 5 0 .running).core 1) 5) ∧
    (StillPages (mk 5 0 .running) ∧ Resumable (mk 5 2 .idle) 5 ∧ Resumable (mk 5 2 .saved) 5) ∧
    (mayCommand (hk .running 1) 2 = true ∧ 5 < 4096 ∧ 7 < 8 ∧ mayCommand (hk .running 1) 3 = false ∧ Resumable (hk .saved 1) 5 ∧
      StillPages (hk .running 1) ∧ ((hk .idle 1).ctx 5).saveBase ≠ 0 ∧ ((hk .absent 1).ctx 5).st = .absent) ∧
    (let s := cutS .cutting false; (s.ctx 5).st = .cutting ∧ pageBusy s 5 = false ∧ accessesCut s 5 = true ∧ 1 ∈ coresOfCtx s 5 ∧
      (∀ k ∈ coresOfCtx s 5, coreCut s 5 k = true) ∧ coreCut (mk 5 0 .cutting) 5 1 = false) ∧
    (∀ k, ((cutS .saving k).ctx 5).st = .saving ∧ ((cutS .saving k).ctx 5).cut = some ⟨k, 0, none, some 2⟩) ∧
    (readImage (cutS .resuming false) 5 = none ∧ ((cutS .resuming false).ctx 5).st = .resuming) ∧
    ((rs0.ctx 0).st = .resuming ∧ (rs0.ctx 0).cut = some ⟨false, 0, none, some 2⟩ ∧
      readImage rs0 0 = some (imgOf (imgBytes hd0 (bytesLE 4008 0))) ∧ (rs0.ctx 0).ptroot ≠ 0 ∧
      restoreCores 0 0 (imgOf (imgBytes hd0 (bytesLE 4008 0))).cores (R.start rs0) = .ok (R.start rs0)) := by
  have hR : ∀ (s : State) (c : Nat), ((s.ctx c).st = .idle ∨ (s.ctx c).st = .saved) → s.works = [] → s.queues = [] → (s.ctx c).saveBase ≠ 0 →
      Resumable s c := fun s c h h1 h2 h3 => ⟨h, by simp [h1], by simp [h2], h3⟩
  refine ⟨⟨⟨⟨⟨(by decide : 0 < 128), rfl⟩, trivial, rfl⟩, rfl, fun _ hq => absurd hq (List.not_mem_nil)⟩, rfl, fun _ hq => absurd hq (List.not_mem_nil)⟩,
    ⟨rfl, ?_⟩, ⟨fun _ hq => absurd hq (List.not_mem_nil), hR _ _ (.inl rfl) rfl rfl (by decide), hR _ _ (.inr rfl) rfl rfl (by decide)⟩,
    ⟨by decide, by decide, by decide, by decide, hR _ _ (.inr rfl) rfl rfl (by decide), fun _ hq => absurd hq (List.not_mem_nil), by decide, by decide⟩,
    ?_, ?_, ?_, ⟨rfl, rfl, readImage_rs0, by exact (by decide : (0x10000 : BitVec 52) ≠ 0), rfl⟩⟩
  · decide +kernel
  · decide +kernel
  · decide +kernel
  · decide +kernel

/-- PE (1, 1) of core 0 holds an ADD of slot 0, or a MERGE, in a configuration of context 0, tokens in buffers and operands in its store. -/
def feC (w : Nat) : Machine.Config := ⟨0, 0, [], 0x2000, 1, false, [], [], 0, 0, [], [], [], [], [⟨1, 1, 0, [w], [0x80001, 0]⟩]⟩
def fe (p : Pe) (l : List Flight) (det : Bool) (w : Nat := 0x1000000840000000) : State := { State.reset with
  ctxs := [(0, { Ctx.monitor with det := det })]
  cores := [(0, { Core.init with bindings := [⟨feC w, .live, .idle, []⟩], flights := l, pes := [(17, { p with resident := [0] })] })] }
def fb (k : Kind) (a : Action) (o : Slot) (iter : BitVec 16) (r : Bool) : BufTok := ⟨⟨k, a, false, false, o, 0, ⟨0, 0, iter⟩, 5⟩, 0, r⟩
def ent (a : Action) (o : Slot) (iter : BitVec 16) : Entry := ⟨0, [(fb .data a o iter false).tok]⟩
def pk0 : PKey := ⟨0, 0, 0, 0, .a⟩
def aI : Instr := .add oH .s64
def readyOf (s : State) (b : BufTok) : Option Firing :=
  let p := (s.core 0).pe 1 1
  readyFor (s.core 0) { p with bufs := p.bufs.erase b, store := p.store ++ [⟨b.ctx, [b.tok]⟩] } 0 1 1 b.ctx none aI b.tok.tag b.tok.idx
theorem witness_TokensAreAccepted :
    (nextHead State.reset 0 1 1 = none) ∧
    (let b := { fb .data .consume .a 0 false with tok := { (fb .data .consume .a 0 false).tok with tag := ⟨3, 0, 0⟩ } }
     let s := fe { Pe.init with bufs := [b] } [] false
     nextHead s 0 1 1 = some b ∧ placeOf (s.core 0) 1 1 ((s.core 0).pe 1 1) b = .absent) ∧
    (∀ l ∈ [[], [ent .sticky .a 0]], ∀ b ∈ [fb .purge .consume .a 0 false, fb .data .sticky .a 0 false, fb .data .consume .a 1024 false],
      ∀ q ∈ [[], [pk0]], let s := fe { Pe.init with bufs := [b], store := l, purges := q } [] false
      Heads s 0 1 1 b none aI ∧ nonMatching aI = false ∧
        ((((s.core 0).pe 1 1).store ++ ((s.core 0).pe 1 1).spill).any (stickyFor 0 b.tok) = true ↔ l ≠ []) ∧
        (pkeyOf 0 b.tok ∈ ((s.core 0).pe 1 1).purges ↔ q ≠ [])) ∧
    (let b := fb .data .consume .a 0 false
     let s := fe { Pe.init with bufs := [b] } [] false 0x0600212840000000
     Heads s 0 1 1 b none (.merge uH) ∧ nonMatching (.merge uH) = true) ∧
    (let b := fb .data .consume .a 1024 false
     outOfWindow (((fe { Pe.init with bufs := [b], store := [ent .consume .b 0] } [] false).core 0).pe 1 1) 0 b.tok = true ∧
     outOfWindow (((fe { Pe.init with bufs := [b], store := [ent .consume .b 1] } [] false).core 0).pe 1 1) 0 b.tok = false) ∧
    (∀ n ∈ [0, 63, 64], ∀ o ∈ [Slot.a, .b], ∀ det, let b := fb .data .consume .a 5 false
     let s := fe { Pe.init with bufs := [b], store := List.replicate n (ent .consume o 6) ++ (if n = 63 then [ent .consume .b 5] else []) } [] det
     Heads s 0 1 1 b none aI ∧ outOfWindow ((s.core 0).pe 1 1) 0 b.tok = false ∧ KeyFree ((s.core 0).pe 1 1) b ∧ ((s.core 0).pe 1 1).ready = [] ∧
       (readyOf s b ≠ none ↔ n = 63) ∧ ((s.core 0).pe 1 1).frames = [] ∧ freeFrame s 0 = none ∧ (s.ctx 0).det = det) := by
  unfold Heads KeyFree
  decide +kernel

def mkr (d : Dest) : Flight := ⟨markerTok ⟨0, 0, 0⟩, 0, .port 1, d⟩
theorem witness_FabricEvents :
    (0 < 128 ∧ ((fe Pe.init [] false).core 0).pe 1 1 = { Pe.init with resident := [0] }) ∧
    (∀ n ∈ [63, 64], let s := fe { Pe.init with spill := [ent .consume .a 5], store := List.replicate n (ent .consume .b 6) } [] false
      ((s.core 0).pe 1 1).spill = [ent .consume .a 5] ∧ (s.ctx 0).det = false ∧ ((s.core 0).pe 1 1).store.length = n ∧ ctxMoves s 0 = true) ∧
    (imageAt ((fe Pe.init [] false).core 0) 0 1 1 ≠ none ∧ imageAt ((fe Pe.init [] false).core 0) 1 1 1 = none ∧
      (((fe Pe.init [] false).core 0).pe 1 1).resident.contains 0 = true ∧
      (({ fe Pe.init [] false with cores := [(0, { Core.init with bindings := [⟨feC 0, .live, .idle, []⟩] })] } : State).core 0).pe 1 1 = Pe.init) ∧
    (∀ l ∈ [[mkr (.pe 1 1)], [fl .data], [mkr (.tile 18 0)], [mkr (.port 3)]], let s := fe Pe.init l false
      (s.core 0).flights[0]? = l[0]? ∧ routeFirst (s.core 0) 0 (mkr (.pe 1 1)) = true ∧ (mkr (.pe 1 1)).tok.kind = .marker ∧ (fl .data).tok.kind ≠ .marker ∧
        ((s.core 0).pe 1 1).marked.contains 0 = false ∧ (s.core 0).flights.length ≤ 1 ∧ 18 ≠ 0 ∧
        (routesAt (s.core 0) 1 1 0).filter (·.2 ≠ 0) = [(0, 0x80001)]) ∧
    ((((fe { Pe.init with marked := [0] } [mkr (.pe 1 1)] false).core 0).pe 1 1).marked.contains 0 = true ∧
      routeFirst ((fe Pe.init [mkr (.pe 1 1), mkr (.pe 1 1)] false).core 0) 1 (mkr (.pe 1 1)) = false) ∧
    (quiescentBut stalledReq (fe Pe.init [fl .data] false) 0 0 = false ∧ ctxMoves (cutS .cutting false) 5 = false ∧
      quiescentBut stalledReq (fe Pe.init [] false) 0 0 = true ∧ ctxMoves (fe Pe.init [] false) 0 = true ∧
      quiescentBut stalledReq State.reset 0 0 = true ∧ ctxMoves State.reset 0 = true ∧ 0 ∉ (State.reset.core 0).quiet ∧ (State.reset.core 0).pes = [] ∧
      (State.reset.core 0).matrix.cmds = [] ∧ State.reset.reqs = [] ∧ (State.reset.ctx 0).pend = []) ∧ (State.reset.ctx 5).st = .absent := by
  decide +kernel

/-- Address 0x1000 of context 0, mapped through a leaf of the core's TLB, with a tracker entry, a home line and a copy in the L1. -/
def rep (core : Nat) (leaf : Word) (l : List Track) (c : List LineCopy) (fr : Tab FrameSt) (ln : Tab Line) : State := { State.reset with
  cur := ⟨core, 1, 1, 0, none, ⟨0, 0, 0⟩, 0, dt 0x1000, dt 65535, []⟩
  cores := [(core, { Core.init with tlb := [⟨0, 0, 2 ^ 48, 0, leaf, 0⟩], l1 := c })]
  dies := [(homeDie 0x1000, { Die.init with slices := [(homeSlice 0x1000, { Slice.init with tracks := l })] })]
  frames := fr, lines := ln }
def trk (m : Nat) (h : Bool) : Track := ⟨0, m, [1, 2, 3, 4], 5, h, 0⟩
def leafP : Word := leaf0 ||| 0x10000000000000
theorem witness_TimeAndReplicas :
    (Runs oH (rep 0 leaf0 [] [] [] []) ∧ IsData (rep 0 leaf0 [] [] [] []).cur.a ∧ IsData (rep 0 leaf0 [] [] [] []).cur.b ∧
      Unheld (rep 0 leaf0 [] [] [] []) (reqSrcOf (rep 0 leaf0 [] [] [] []).cur)) ∧
    Fails (at_ (dt 0x1000) (dt 0) []) ∧
    (∀ leaf ∈ [leaf0, leafP], Passes (rep 0 leaf [] [] [] []) .rd false 0x1000 1 0x1000 leaf) ∧
    (let s := rep 0 leaf0 [] [] [] []; trackOf s 0x1000 = none ∧ findCopy (s.core 0).l1 (0x1000 / 128) = none ∧ (s.line (0x1000 / 128)).inL2 = false ∧
      (s.frame 0).hostBias = false ∧ (s.frame 0).st = .stable ∧ homeDie 0x1000 < 4 ∧ leafRp leaf0 = false ∧ leafPolicy leaf0 < 2 ∧
      trackEntry (walked s 0x1000) 0x1000 = some (⟨0, 0, [0, 0, 0, 0], 0, false, 0⟩, [])) ∧
    (∀ h, let s := rep 0 leafP [trk 2 h] [⟨32, 3, 4, 5, []⟩] [] [(32, { Line.init with inL2 := true })]
      trackOf s 0x1000 = some (trk 2 h) ∧ findCopy (s.core 0).l1 (0x1000 / 128) = some ⟨32, 3, 4, 5, []⟩ ∧ (s.line (0x1000 / 128)).inL2 = true ∧
        trackEntry (walked s 0x1000) 0x1000 = some (trk 2 h, [trk 2 h]) ∧ leafRp leafP = true) ∧
    ((rep 0 leaf0 [] [] [(0, { FrameSt.init with hostBias := true })] []).frame 0).hostBias = true ∧
    ((rep 0 leaf0 [] [] [(0, { FrameSt.init with st := .staging 1 })] []).frame 0).st ≠ .stable ∧
    trackEntry (walked (rep 0 leaf0 (List.replicate 32 { trk 1 false with region := 9 }) [] [] []) 0x1000) 0x1000 = none ∧
    (0 / 32 = homeDie 0x1000 ∨ 96 / 32 ≠ homeDie 0x1000) ∧ (∃ core ∈ [0, 127], core / 32 ≠ homeDie 0x1000) ∧ (∃ core ∈ [0, 32, 64, 96], core / 32 = homeDie 0x1000) ∧
    (let s := rep 0 leaf0 [] [] [] []; 0x1000 < 2 ^ 48 ∧ (65535 : Word).toNat < 2 ^ 16 ∧ 2 ^ 16 ≤ (65536 : Word).toNat ∧
      max (s.core 0).pts s.mgmt.tf + 255 < s.mgmt.tf + 2 ^ 15 ∧ (s.ctx 0).det = false ∧ s.lines = [] ∧ frameWaits s 0x1000 = false) ∧
    Unowned (rep 0 leaf0 [] [] [] []) (0x1000 / 128 * 128) 128 ∧
    (let g := State.reset.mgmt; g.rplctl.toNat / 2 ^ 32 % 2 ^ 16 * 64 ≠ 0 ∧ g.rplctl.toNat / 2 ^ 24 % 2 ^ 8 * 1024 ≠ 0 ∧ g.rebasing = none ∧
      g.m < g.tf + 28672 ∧ 0 < (State.reset.core 0).ptsClk + g.rplctl.toNat / 2 ^ 32 % 2 ^ 16 * 64 ∧
      (let s := { State.reset with clk := 2 ^ 24, mgmt := { Mgmt.init with m := 28672 } }
       (s.core 0).ptsClk + g.rplctl.toNat / 2 ^ 32 % 2 ^ 16 * 64 ≤ s.clk ∧ max (s.core 0).pts s.mgmt.tf + 1 < s.mgmt.tf + 2 ^ 15 ∧
         s.mgmt.decayClk + g.rplctl.toNat / 2 ^ 24 % 2 ^ 8 * 1024 ≤ s.clk ∧ s.mgmt.tf + 28672 ≤ s.mgmt.m)) ∧
    (∀ n ∈ [0, 1662, 1663], ({ Mgmt.init with rebasing := some 7, scrubs := n } : Mgmt).rebasing = some 7 ∧ (n + 1 < 1664 ∨ 1664 ≤ n + 1)) := by
  refine ⟨⟨⟨⟨(by decide : 0 < 128), rfl⟩, trivial, rfl⟩, rfl, rfl, fun _ hq => absurd hq (List.not_mem_nil)⟩, ?_, ?_, ?_, ?_, ?_, ?_, ?_, ?_, ?_, ?_, ?_, ?_, ?_, ?_⟩
  · intro pa leaf ⟨_, _, _, p, l, e, hf, _⟩
    have hw : found (at_ (dt 0x1000) (dt 0) []) 0x1000 = .fault true 3 0 := rfl
    cases hw.symm.trans hf
  · intro leaf hl
    simp only [List.mem_cons, List.not_mem_nil, or_false] at hl
    rcases hl with rfl | rfl
    all_goals exact ⟨by decide, by decide, rfl, 0x1000, 2, 0, rfl, rfl, fun _ h => absurd h (by decide)⟩
  · decide +kernel
  · decide +kernel
  · decide +kernel
  · decide +kernel
  · decide +kernel
  · decide +kernel
  · decide +kernel
  · decide +kernel
  · decide +kernel
  · exact ⟨rfl, fun l h1 h2 => ⟨(by decide : 0 < 2), (by decide : 0 < 2)⟩⟩
  · decide +kernel
  · decide +kernel

/-- The descriptor of an input stream of two elements from 0x1000 on that leads to PE (1, 1), and one in a state; an output stream. -/
def strD : List Byte := bytesLE 8 0x1000 ++ bytesLE 4 2 ++ bytesLE 12 0 ++ bytesLE 4 8 ++ bytesLE 20 0 ++ bytesLE 4 0x8001 ++ bytesLE 76 0
def strI (st : StreamSt) (pos : List Nat) (owed : Option Nat) (w : Nat) (out : Bool) : Stream := { Stream.init with
  st := st, base := 0x1000, counts := [2, 1, 0, 0], strides := [8, 16, 0, 0], ty := .s64, output := out, levels := 1, window := w, route := 0x8001,
  pos := pos, owed := owed }
def sS (t : Stream) (l : List BufTok) (a : Word) : State := { at_ (dt a) [] [] with
  mem := from_ 0x2000 strD
  cores := [(0, { Core.init with
    tlb := [⟨0, 0, 2 ^ 48, 0, leaf0, 0⟩], ports := [(3, { PortTile.init with streams := [(2, t)], bufs := l })] })] }
def ob (k : Kind) : BufTok := ⟨⟨k, .consume, false, false, .a, 4, ⟨0, 0, 0⟩, 7⟩, 0, false⟩
theorem witness_StreamsMove :
    (∀ st ∈ [StreamSt.running, .held, .free, .closed], let s := sS (strI st [0, 0, 0, 0] none 32 false) [] 0x2000
      (((s.core 0).port 3).stream 2).st = st ∧
        valIs (vRead (asked s (.sopen oH 3 2) (.port 3)) 0 0 0x2000 128 128).2 (fun l => decide (l = strD)) = true) ∧
    (Runs oH (sS Stream.init [] 0x2000) ∧ IsData (sS Stream.init [] 0x2000).cur.a ∧ Unheld (sS Stream.init [] 0x2000) (.port 3) ∧
      (asked (sS Stream.init [] 0x2000) (.sopen oH 3 2) (.port 3)).s = waits (sS Stream.init [] 0x2000) (.sopen oH 3 2) (.port 3) ∧ DenseInput strD) ∧
    (namedStream (sS Stream.init [] 35) (sS Stream.init [] 35).cur 35 = none ∧
      ∀ st ∈ [StreamSt.closed, .running, .held], ∀ out, let t := strI st [0, 0, 0, 0] none 32 out
        namedStream (sS t [] 35) (sS t [] 35).cur 35 = some (3, 2, t) ∧ t.output = out ∧ t.mode = 0) ∧
    (∀ n ∈ [0, 1], let t := strI .running [n, 0, 0, 0] none 1 false
      let s := sS t [] 0
      Streams s 0 3 2 t false ∧ Dense t ∧ unaccepted (s.core 0) 3 2 t < t.window ∧ StreamPasses s 0 0 (elementVa t) 8 (0x1000 + 8 * n) leaf0 .rd ∧
        (n = 0 → ¬ RunEnds t 0) ∧ (n = 1 → RunEnds t 1 ∧ 1 = t.levels)) ∧
    (let t := { strI .running [1, 0, 0, 0] none 1 false with counts := [2, 2, 0, 0] }; RunEnds t 0 ∧ ¬ RunEnds t 1) ∧
    (let t := strI .running [0, 0, 0, 0] none 0 false; Streams (sS t [] 0) 0 3 2 t false ∧ t.window ≤ unaccepted ((sS t [] 0).core 0) 3 2 t) ∧
    (∀ j ∈ [0, 1], (strI .running [0, 0, 0, 0] (some j) 0 false).owed = some j ∧ j < 4) ∧
    (∀ k ∈ [Kind.stop 1, .stop 0, .data, .error], ∀ n ∈ [1, 2], let t := strI .running [n, 0, 0, 0] none 0 true
      let s := sS t [ob k] 0
      Streams s 0 3 2 t true ∧ ((s.core 0).port 3).bufs.find? (fun x => x.tok.idx = 2 * 2) = some (ob k) ∧ (ob k).ctx = t.ctx ∧
        (ob k).tok.tag.unit = t.unit ∧ (ob k).tok.tag.iter = t.ibase + BitVec.ofNat 16 t.emitted ∧ (ob k).tok.poison = false ∧
        (n = 2 ↔ t.count 0 ≤ t.pos.getD 0 0) ∧ StreamPasses s 0 0 (elementVa t) 8 (0x1000 + 8 * n) leaf0 .wr) := by
  refine ⟨?_, ⟨⟨⟨(by decide : 0 < 128), rfl⟩, trivial, rfl⟩, rfl, fun _ hq => absurd hq (List.not_mem_nil), asked_s _ _ _, ?_⟩, ?_, ?_, ?_, ?_, ?_, ?_⟩
  · decide +kernel
  · unfold DenseInput; decide +kernel
  · decide +kernel
  · unfold Streams Claim.Dense StreamPasses RunEnds Unowned; decide +kernel
  · unfold RunEnds; decide +kernel
  · unfold Streams; decide +kernel
  · decide
  · unfold Streams StreamPasses Unowned; decide +kernel

/-- A token on its way to a tile, and a core with tiles and nodes. -/
def fx (k : Kind) (cls m idx : Nat) : Flight := ⟨{ tk k 5 with idx := idx }, 0, .port 1, .tile cls m⟩
def tlS (l : List Flight) (role : Nat) (q : List (Tok × Nat)) (nd : MergeNode) : State := { State.reset with
  cores := [(0, { Core.init with
    flights := l, bindings := [⟨{ feC 0 with fifo := [1, 1] ++ List.replicate 30 1 }, .live, .idle, []⟩], nodes := [(15, nd)]
    tiles := [(0, { MemTile.init with role := role, owner := some (0, 0), fifo := q }),
      (31, { MemTile.init with role := role, owner := some (0, 0), fifo := q })] })] }
def mh (k : Kind) (v : Word) : BufTok := ⟨tk k v, 0, false⟩
def nodeS (a b : BufTok) (key : Nat) (d : Bool) : State := { State.reset with cores := [(0, { Core.init with
  nodes := [(15, ⟨true, 0, 1, 0, 0, 0, key, d, 0, [a], [b]⟩)] })] }
theorem witness_MergesAndTiles :
    (Sane (at_ (dt 1) (dt 2) []) ∧ Fires oH (at_ (dt 1) (dt 2) []).cur ∧ (opTok (dt 1)).kind = .data ∧ (opTok (kd .error)).kind = .error ∧
      KeyBefore 1 (-1) 0 ∧ ¬ KeyBefore 0 1 2 ∧ KeyBefore 0 (0 : Word) 0x100000000 ∧ ¬ KeyBefore 3 2 1) ∧
    (let s := { nodeS (mh .data 1) (mh .data 2) 0 false with cur := (at_ (dt 15) (dt 0x20000000) []).cur }
     s.cur.carry = false ∧ (15 : Word).toNat / 16 % 2 ^ 28 = 0 ∧ (0x20000000 : Word).toNat % 2 ^ 29 = 0 ∧ ((s.core 0).node 15).configured = true ∧
       ((s.core 0).node 15).ina ≠ [] ∧ ((State.reset.core 0).node 15).configured = false) ∧
    (∀ n ∈ [7, 8], ∀ i ∈ [14, 15], let nd := { MergeNode.init with ina := List.replicate n (mh .data 1), inb := List.replicate n (mh .data 1) }
     let s := tlS [fx .data 2 1 i] 0 [] nd
     tileFlight s 0 0 = some (fx .data 2 1 i) ∧ ctxMoves s 0 = true ∧ 8 * 1 + i / 2 = 15 ∧ (((s.core 0).node 15).ina.length < 8 ↔ n = 7) ∧ i < 16) ∧
    (let s := tlS [fx .data 0 31 0] 2 [] MergeNode.init
     tileFlight s 0 0 = some (fx .data 0 31 0) ∧ 31 < 32 ∧ (fx .data 0 31 0).tok.idx = 0 ∧ ((s.core 0).tile 31).role = 2 ∧
       ((s.core 0).tile 31).fifo.length < 4096) ∧
    (∀ k ∈ [Kind.data, .null], let s := tlS [fx k 4 3 0] 1 [] MergeNode.init
     tileFlight s 0 0 = some (fx k 4 3 0) ∧ ((s.core 0).tile (28 + 3)).role = 1 ∧
       (s.core 0).flights.findIdx? (fun y => decide (y.dest = .tile 4 3 ∧ y.tok.kind ≠ .marker)) = some 0) ∧
    (let s := tlS [] 2 [(tk .data 5, 0)] MergeNode.init
     ((s.core 0).tile 31).fifo = [(tk .data 5, 0)] ∧ ((s.core 0).tile 31).role = 2 ∧ fifoRoute (s.core 0) 31 ≠ 0) ∧
    (∀ k ∈ [Kind.stop 3, .stop 0, .data, .error], ∀ l ∈ [Kind.stop 1, .data, .error], ∀ key ∈ [0, 1, 2, 3], ∀ d,
      Decides (nodeS (mh k 3) (mh l 5) key d) 0 15 (mh k 3) (mh l 5) [] []) := by
  refine ⟨⟨sane_at _ _ _, trivial, rfl, rfl, ?_, ?_, ?_, ?_⟩, ?_, ?_, ?_, ?_, ?_, ?_⟩
  · exact (by decide : sInt 32 ((-1 : Word).toNat / 2 ^ 32) < sInt 32 ((0 : Word).toNat / 2 ^ 32))
  · exact (by decide : ¬ (1 : Word).toNat / 2 ^ 32 < (2 : Word).toNat / 2 ^ 32)
  · exact (by decide : (0 : Word).toNat / 2 ^ 32 < (0x100000000 : Word).toNat / 2 ^ 32)
  · exact (by decide : ¬ (2 : Word).toNat < (1 : Word).toNat)
  · decide +kernel
  · decide +kernel
  · decide +kernel
  · decide +kernel
  · decide +kernel
  · unfold Decides; decide +kernel
theorem witness_full_fifo : let s := tlS [fx .data 0 31 0] 2 (List.replicate 4096 (tk .data 5, 0)) MergeNode.init
    4096 ≤ ((s.core 0).tile 31).fifo.length :=
  Nat.le_of_eq (List.length_replicate).symm

/-- A tile of context 0 and unit 0 with a command, and its core. -/
def cmd (i : Instr) (a b : Word) (done : Nat) : MCmd := ⟨i, (at_ (dt a) (dt b) []).cur, done⟩
def mt0 (own : Option (Nat × BitVec 13)) (sst : PlaneSt) (l : List MCmd) : MTile := { MTile.init with
  owner := own, st := .idle, wty := .s8x8, aty := .s8x8, sst := sst, cmds := l, ready := some 0 }
def mtS (m : MTile) : State := { at_ (dt 1) (dt 2) [] with cores := [(0, { Core.init with
  tlb := [⟨0, 0, 2 ^ 48, 0, leaf0, 0⟩], matrix := m })] }
theorem witness_MatrixCommands :
    (Runs oH (mtS MTile.init) ∧ IsData (mtS MTile.init).cur.a ∧ IsData (mtS MTile.init).cur.b ∧ (mtS MTile.init).cur.poison = false) ∧
    (∀ c ∈ [cmd (.mcfg oH) 0x6600000000000000 0 0, cmd (.mcfg oH) 0x6500000000000000 0 0, cmd (.mcfg oH) 0x6600000000000001 0 0,
        cmd (.mwld oH false) 0x80 0 0, cmd (.mwld oH false) 0x81 0 0, cmd (.mwswap oH) 0 0 0, cmd (.mwswap oH) 65535 0 0, cmd (.mstr oH) 0x80 0 0,
        cmd (.mstr oH) 0x80 0x3F01000000000000 0, cmd (.mstr oH) 0x80 0x0000800000000000 0, cmd (.mrdo oH) 0x80 1 0, cmd (.mrdo oH) 0x80 0x200000000000 0,
        cmd (.mzero oH) 0xFC00000000 0 0, cmd (.mzero oH) 0xFC04000000 0 0, cmd (.mzero oH) 0x10000FC00000000 0 0],
      ∀ o ∈ [none, some (0, 0), some (0, 1)], ∀ p ∈ [PlaneSt.empty, .full], let m := mt0 o p [c]
      Examined (mtS m) 0 0 c ∧ (Owns m c ↔ o = some (0, 0)) ∧ m.st ≠ .held ∧ m.loadHeld = false ∧ m.run = none ∧ m.load = none ∧ m.gen = c.firing.tag.iter ∧
        m.ready = some c.firing.tag.iter) ∧
    (let c := cmd (.mcfg oH) 0x6600000000000000 0 0
     let m := mt0 (some (0, 0)) .empty [c]
     cmdA c % 2 ^ 56 = 0 ∧ (cmdA c / 2 ^ 60, cmdA c / 2 ^ 56 % 16) ∈ pairs ∧ Examined (mtS { m with st := .held, run := some c }) 0 0 c ∧
       Examined (mtS { m with load := some c }) 0 0 c ∧ ({ m with load := some c } : MTile).load ≠ none ∧
       (cmdA (cmd (.mcfg oH) 0x6500000000000000 0 0) / 2 ^ 60, cmdA (cmd (.mcfg oH) 0x6500000000000000 0 0) / 2 ^ 56 % 16) ∉ pairs ∧
       cmdA (cmd (.mcfg oH) 0x6600000000000001 0 0) % 2 ^ 56 ≠ 0) ∧
    (let m := mt0 (some (0, 0)) .full []
     m.rows = 64 ∧ cmdB (cmd (.mstr oH) 0x80 0x3F01000000000000 0) / 2 ^ 48 % 2 ^ 8 + cmdB (cmd (.mstr oH) 0x80 0x3F01000000000000 0) / 2 ^ 56 + 1 = 65 ∧
       cmdB (cmd (.mstr oH) 0x80 0x0000800000000000 0) % 2 ^ 47 = 0 ∧ cmdB (cmd (.mrdo oH) 0x80 1 0) % 2 ^ 26 ≠ 0 ∧
       otySize m.isInt (cmdB (cmd (.mrdo oH) 0x80 0x200000000000 0) / 2 ^ 44 % 16) = 4 ∧
       0xFC00000000 / 2 ^ 26 % 2 ^ 8 + (0xFC00000000 / 2 ^ 34 % 2 ^ 8 + 1) = m.rows ∧
       m.rows < 0xFC04000000 / 2 ^ 26 % 2 ^ 8 + (0xFC04000000 / 2 ^ 34 % 2 ^ 8 + 1) ∧ m.d < 0x10000FC00000000 / 2 ^ 48 ∧
       ({ m with gen := 9 } : MTile).gen ≠ 0 ∧ m.d < 65535 ∧ 0 ≤ m.d) := by
  refine ⟨⟨⟨⟨(by decide : 0 < 128), rfl⟩, trivial, rfl⟩, rfl, rfl, rfl⟩, ?_, ?_, ?_⟩
  · unfold Examined Owns; decide +kernel
  · unfold Examined; decide +kernel
  · decide +kernel

/-- An MSTR of one row of a local buffer tile, an MRDO of one row in its last part, a load of an FP8 plane, and what they read. -/
def mrun (c : MCmd) (w : Ty) (ld : Option MCmd) : State := { State.reset with cores := [(0, { Core.init with
  tlb := [⟨0, 0, 2 ^ 48, 0, leaf0, 0⟩], tiles := [(0, { MemTile.init with role := 1, owner := some (0, 0) })]
  matrix := { mt0 (some (0, 0)) .empty [] with run := if ld = none then some c else none, st := if ld = none then .streaming else .idle, wty := w, load := ld } })] }
def strC : MCmd := cmd (.mstr oH) 0 0x800000000000 0
def rdoC : MCmd := cmd (.mrdo oH) 0x80 0x280000000000 7
def ldC : MCmd := cmd (.mwld oH true) 0 0 0
theorem witness_MatrixOperations :
    (2 ^ 32 - 1 < 2 ^ 32 ∧ (mt0 none .empty []).wty = .s8x8 ∧ (mt0 none .empty []).aty = .s8x8) ∧
    (let s := mrun strC .s8x8 none
     GoesOn s 0 strC ∧ strC.instr = .mstr oH ∧ strC.done = cmdB strC / 2 ^ 56 ∧ valIs (tileRead (R.start s) strC (cmdA strC + strC.done * (s.core 0).matrix.rowBytes)
       (s.core 0).matrix.rowBytes (decide (cmdB strC / 2 ^ 47 % 2 = 1))).2 (fun l => !l.2) = true) ∧
    (let s := mrun rdoC .s8x8 none
     GoesOn s 0 rdoC ∧ rdoC.instr = .mrdo oH ∧ otySize (s.core 0).matrix.isInt (cmdB rdoC / 2 ^ 44 % 16) = 4 ∧
       rdoC.done + 1 = (cmdB rdoC / 2 ^ 34 % 2 ^ 8 + 1) * (s.core 0).matrix.cols * 4 / 128 ∧ (s.ctx 0).det = false ∧
       valIs (vPrep (R.start s) 0 0 (cmdA rdoC + 128 * rdoC.done) 128 128 .wr).2 (fun p => decide (p = (1024, leaf0))) = true ∧ 1024 + 128 ≤ 2 ^ 52 ∧
       leafT leaf0 = true ∧ cmdB rdoC / 2 ^ 43 % 2 = 1 ∧ cmdB (cmd (.mrdo oH) 0x80 0x200000000000 7) / 2 ^ 43 % 2 = 0) ∧
    (State.reset.core 0).matrix.load = none ∧
    (let s := mrun ldC .s8x8 (some ldC)
     (s.core 0).matrix.load = some ldC ∧ (s.core 0).matrix.loadHeld = false ∧ tileMoves s (s.core 0).matrix = true ∧ ldC.instr = .mwld oH true ∧
       ldC.firing.core = 0 ∧ ldC.firing.trestle = none ∧ (s.core 0).matrix.planeBytes = 32768 ∧
       valIs (tileRead (R.start s) ldC (cmdA ldC) 32768 true).2 (fun l => !l.2) = true) := by
  unfold GoesOn; decide +kernel

/-- Sequence 1 of context 0: its descriptor at 0x3040, one stream table, directory and page table, and a pool at 0x5000 with blocks at 0x9000. -/
def kvD (len : Nat) (fl : Byte) (pool : Nat) : List Byte := bytesLE 4 len ++ [0, 0, 64, 0] ++ bytesLE 8 0x4000 ++ bytesLE 8 pool ++ (fl :: List.replicate 39 0)
def kvM (len : Nat) (fl : Byte) (pool top cap e1 e2 e3 : Nat) : Tab Byte :=
  ((kvD len fl pool ++ (bytesLE 8 e1 ++ bytesLE 8 e1)).zipIdx.filter fun x => x.1 ≠ 0).map (fun x => ((if x.2 < 64 then 0x3040 else 0x4000 - 64) + x.2, x.1)) ++
    from_ 0x5000 (bytesLE 4 top ++ bytesLE 4 cap ++ bytesLE 8 0x9000) ++ from_ 0x6000 (bytesLE 8 e2) ++ from_ 0x7000 (bytesLE 8 e3) ++
    from_ 0x9000 (bytesLE 8 0xA000 ++ bytesLE 8 0xB000)
def kvS (a b : Word) (mem : Tab Byte) (w : Walker) : State := { at_ (dt a) (dt b) [] with
  mem := mem, ctxs := [(0, { Ctx.monitor with kvBase := 0x3000, kvCnt := 2 })]
  cores := [(0, { Core.init with tlb := [⟨0, 0, 2 ^ 48, 0, leaf0, 0⟩], walker := w })] }
def kvd0 : KvDesc := ⟨0, 1, 0x3040, 64, 0, 0, 64, 0x4000, 0x5000, false⟩
def kvp0 : KvPage := ⟨0, 1, 0, 0, 0x8000, true, 64, []⟩
def kvw : Walker := ⟨[kvd0], [kvp0]⟩
def hnd : Word := 0x1000000001F8
theorem runs_kv (a b : Word) (mem : Tab Byte) (w : Walker) : Runs oH (kvS a b mem w) ∧ IsData (kvS a b mem w).cur.a ∧ IsData (kvS a b mem w).cur.b ∧
    Unheld (kvS a b mem w) .walker :=
  ⟨⟨⟨(by decide : 0 < 128), rfl⟩, trivial, rfl⟩, rfl, rfl, fun _ hq => absurd hq List.not_mem_nil⟩
/-- EntryOk, decided. -/
def entOk (e allowed : Nat) : Bool := decide (e &&& allowed = e ∧ e % 2 = 1)
theorem entOk_iff (e allowed : Nat) : entOk e allowed = true ↔ EntryOk e allowed := decide_eq_true_iff
/-- The reads of KVQRY and KVAPP. -/
def kvr (s : State) (r : R s) : GotR s (List Byte) := vRead r 0 0 0x3040 64 8
def ask (s : State) : R s := asked s (.kvapp oH) .walker
theorem witness_KeysAndValues :
    (let s := kvS hnd 7 [] kvw
     Sane s ∧ Fires oH s.cur ∧ IsData s.cur.a ∧ IsData s.cur.b ∧ Calm s .walker ∧ Placed s ∧ Cached s hnd.toNat kvd0 kvp0 ∧
       (0 ≤ (m0.off.toInt) ∧ m0.off.toInt % accSize .z64 = 0 ∧ m0.off.toInt + accSize .z64 ≤ 64) ∧ kvp0.wr = true ∧ kvd0.ro = false ∧
       Passes (fired s 0) .rd false 0x8FC0 1 0x8FC0 leaf0 ∧ Passes (fired s 0) .wr false 0x8FC0 1 0x8FC0 leaf0 ∧ 0x8000 + 64 * 63 + 0 = 0x8FC0) ∧
    (hnd.toNat % 8 = 0 ∧ (0x1000000001F9 : Word).toNat % 8 ≠ 0 ∧ 2 ≤ (0x2000000001F8 : Word).toNat / 2 ^ 44 ∧ hnd.toNat / 2 ^ 44 < 2) ∧
    (∀ e1 ∈ [0x6001, 0], ∀ e2 ∈ [0x7001, 0x7003], ∀ e3 ∈ [0x8003, 2], let s := kvS hnd 7 (kvM 64 1 0x5000 4 8 e1 e2 e3) Walker.init
     valIs (kvr s (R.start s)).2 (fun l => decide (kvDescOf 0 1 0x3040 l = some kvd0)) = true ∧
     (let u := (kvr s (R.start s)).1; let r1 := vNat u 0 0 0x4000 8; let r2 := vNat r1.1 0 0 0x6000 8; let r3 := vNat r2.1 0 0 0x7000 8
      valIs r1.2 (fun x => decide (x = e1) && (entOk x kvDirBits == decide (e1 = 0x6001))) = true ∧ valIs r2.2 (fun x => decide (x = e2) && (entOk x kvDirBits == decide (e2 = 0x7001))) = true ∧
        valIs r3.2 (fun x => decide (x = e3) && (entOk x kvPageBits == decide (e3 = 0x8003))) = true)) ∧
    (∀ f ∈ [(0 : Byte), 3], let s := kvS hnd 7 (kvM 64 f 0x5000 4 8 0 0 0) Walker.init
      valIs (kvr s (R.start s)).2 (fun l => decide ((kvDescOf 0 1 0x3040 l = none ↔ f = 0) ∧ (kvDescOf 0 1 0x3040 l = some { kvd0 with ro := true } ↔ f = 3))) = true) ∧
    ¬ EntryOk 0 kvDirBits ∧ 64 ≤ (0x100000000200 : Word).toNat / 8 % 2 ^ 24 := by
  unfold EntryOk
  refine ⟨⟨⟨(by decide : 0 < 128), rfl⟩, trivial, rfl, rfl, ⟨rfl, rfl, fun _ hq => absurd hq List.not_mem_nil⟩, placed_none _ rfl, ?_, ?_, rfl, rfl, ?_, ?_, rfl⟩,
    ?_, ?_, ?_, ?_, ?_⟩
  · unfold Cached; decide +kernel
  · decide
  · exact ⟨by decide, by decide, rfl, 0x8FC0, 2, 0, rfl, rfl, fun _ h => absurd h (by decide)⟩
  · exact ⟨by decide, by decide, rfl, 0x8FC0, 2, 0, rfl, rfl, fun _ h => absurd h (by decide)⟩
  · decide
  · decide +kernel
  · decide +kernel
  · decide
  · decide

/-- KVAPP from length 64 to len: what it reads, with a pool of top of cap blocks. -/
def appS (v b : Word) (len : Nat) (fl : Byte) (pool top cap : Nat) : State := kvS v b (kvM len fl pool top cap 0x6001 0x7001 0x8003) Walker.init
theorem witness_Appends :
    (∀ v b mem, Runs oH (kvS v b mem Walker.init) ∧ IsData (kvS v b mem Walker.init).cur.a ∧ IsData (kvS v b mem Walker.init).cur.b ∧
      Unheld (kvS v b mem Walker.init) .walker) ∧
    ((0x100000000001 : Word).toNat % 2 ^ 44 ≠ 0 ∧ (0x100000000000 : Word).toNat % 2 ^ 44 = 0 ∧ 2 ≤ (0x200000000000 : Word).toNat / 2 ^ 44) ∧
    ((64 : Int) + (-65 : Word).toInt < 0 ∧ 0 ≤ (64 : Int) + (-64 : Word).toInt ∧ (64 : Int) + (0xFFFFC0 : Word).toInt = 2 ^ 24 ∧
      2 ^ 24 < (64 : Int) + (0xFFFFC1 : Word).toInt) ∧
    (∀ s : State, (ask s).s = waits s (.kvapp oH) .walker) ∧
    (∀ f ∈ [(0 : Byte), 1, 3], let s := appS 0x100000000000 (-64) 64 f 0x5000 2 4
      valIs (kvr s (ask s)).2 (fun l => decide (kvDescOf 0 1 0x3040 l = if f = 0 then none else some { kvd0 with ro := decide (f = 3) })) = true ∧
      valIs (vPrep (kvr s (ask s)).1 0 0 0x3040 4 4 .rw).2 (fun p => decide (p = (0x3040, leaf0))) = true) ∧
    (∀ e ∈ [(0, 1, 2), (2, 1, 2), (4, 0, 1), (3, 0, 1)], let s := appS 0x100000000000 0 64 1 0x5000 e.1 4
      let u2 := (vPrep (kvr s (ask s)).1 0 0 0x3040 4 4 .rw).1
      let p := kvPool u2 0 0 0x5000
      let es := kvEntries p.1 0 0 0x100000000000 kvd0 (kvRange e.2.1 e.2.2 2)
      valIs p.2 (fun x => decide (x = ((e.1, 4, 0x9000), (0x5000, leaf0)))) = true ∧
      valIs es.2 (fun l => decide (l = List.replicate 2 (0x7000 + 8 * e.2.1, leaf0))) = true ∧
      (e.2.1 = 1 → e.1 = 2 → valIs (vPrepAll es.1 0 0 8 8 .rd ((List.range ((2 - 1) * 2)).map fun i => 0x9000 + 8 * (2 - 1 - i))).2
        (fun l => decide (l = [(0x9008, leaf0), (0x9000, leaf0)])) = true) ∧
      (e.2.1 = 0 → valIs (vPrepAll es.1 0 0 8 8 .rw ((List.range 2).map fun i => 0x9000 + 8 * (e.1 + i))).2 (fun l => decide (l.length = 2)) = true ∧
        s.nat 0x7000 8 % 2 = 1)) ∧
    (let s := appS 0x100000000000 1 64 1 0 0 0
     valIs (kvr s (ask s)).2 (fun l => decide (kvDescOf 0 1 0x3040 l = some { kvd0 with pool := 0 })) = true) := by
  refine ⟨fun v b mem => runs_kv v b mem _, ?_, by decide, fun s => asked_s s _ _, ?_, ?_, ?_⟩
  · decide
  · decide +kernel
  · decide +kernel
  · decide +kernel
theorem witness_Softmax :
    (let s := at_ (dt 0x3F800000FF800000) (dt 0x3F80000040400000) []
     Sane s ∧ s.cur.ctx < 4096 ∧ Fires oH s.cur ∧ IsNum .f32x2 s.cur.a ∧ IsNum .f32x2 s.cur.b) ∧
    decodeFmt fmtF32 (laneOf 32 0 0x3F800000FF800000) = .inf true ∧ (pexpLane (.inf false) (.inf false)).code = none ∧
    (let m := decodeFmt fmtF32 0x3F800000
     let x := decodeFmt fmtF32 0x40400000
     ordLt m x = true ∧ (pexpLane m x).code ≠ none ∧ (pexpLane x x).code ≠ none) ∧
    (let one := decodeFmt fmtF32 0x3F800000
     (roundTo fmtF32 .rne false (addVal one one)).code ≠ none ∧ (roundTo fmtF32 .rne false .undef).code = none ∧
       mulVal (.inf false) (decodeP4 0x3F) = none) := by
  refine ⟨⟨sane_at _ _ _, by decide, trivial, ⟨rfl, ?_⟩, ⟨rfl, ?_⟩⟩, ?_, ?_, ?_, ?_⟩ <;> decide +kernel

/-- A record of two row sums of four FP32 elements at 0x10000, a region of it in entry 0 of die 0, and its state. -/
def drRec (kind : Byte) (base : Nat) : List Byte := bytesLE 8 base ++ bytesLE 4 2 ++ bytesLE 4 4 ++ bytesLE 4 64 ++ [kind, 8, 8, 0] ++ List.replicate 40 0
def reg0 (st : RegSt) (o : Result) : Region := ⟨st, 3, 0, drRec 1 0x10000, [(1, 1)], [(1, o)], 7⟩
def drS2 (v b : Word) (g : Region) (fr : Tab FrameSt) (mem : Tab Byte) : State := { ml (dt v) (dt b) [] with
  mem := mem, frames := fr, dies := [(0, { Die.init with regions := [(0, g)] })] }
theorem noHosts (s : State) (h : s.lines = []) : NoHosts s := fun n => by
  have : s.line n = Line.init := by rw [State.line, h]; rfl
  rw [this]; decide
theorem asks_dr (v b : Word) (g : Region) (fr : Tab FrameSt) (mem : Tab Byte) : Asks oH (drS2 v b g fr mem) :=
  ⟨⟨⟨(by decide : 0 < 128), rfl⟩, trivial, rfl⟩, rfl, fun _ hq => absurd hq List.not_mem_nil⟩
theorem witness_DerivedInstructions :
    (Asks oH (drS2 0x3000000 0 Region.init [] []) ∧ Settled (drS2 0x3000000 0 Region.init [] []) ∧ 2 ^ 42 ≤ (0x40000000000 : Word).toNat ∧
      ¬ Live (drS2 0x3000000 0 Region.init [] []) 0 0x3000000) ∧
    (∀ st ∈ [RegSt.building, .resyncing, .suspended, .active], let s := drS2 0x3000000 0 (reg0 st Result.init) [] []
      Live s 0 0x3000000 ∧ (regionOf s 0x3000000).st = st ∧ (regionOf s 0x3000000).req ≠ s.nextId ∧ s.reqs = [] ∧
        (∀ f ∈ (regionOf s 0x3000000).frames, (s.frame f.2).hostBias = false ∧ (s.frame f.2).st = .stable)) ∧
    (let s := drS2 0x3000000 0 (reg0 .suspended Result.init) [(1, { FrameSt.init with hostBias := true })] []
      ∃ f ∈ (regionOf s 0x3000000).frames, (s.frame f.2).hostBias = true) ∧
    NoHosts (drS2 0x3000000 0 (reg0 .active Result.init) [] []) ∧
    (∀ e ∈ [((7 : Byte), false), (1, false), (1, true)],
      let s := drS2 0x2000 0 Region.init [(1, { FrameSt.init with hostBias := e.2 })] (from_ 0x2000 (drRec e.1 0x10000))
      let x := vRead (asked s (.drvdecl oH) (reqSrcOf s.cur)) 0 0 0x2000 64 64
      valIs x.2 (fun l => decide (l = drRec e.1 0x10000) && ((drecOf l).ok l == decide (e.1 ≠ 7))) = true ∧
        (e.1 = 1 → (baseFrames x.1 0 0 (basePages (drecOf (drRec 1 0x10000))) []).2 = some [(1, 1)] ∧
          (declRefusal (baseFrames x.1 0 0 (basePages (drecOf (drRec 1 0x10000))) []).1.s (drRec 1 0x10000) (some [(1, 1)]) 0 = 0 ↔ e.2 = false))) ∧
    (let s := drS2 0x2000 0 Region.init [] []
     homeDie (([(1, 1)].map Prod.snd).headD 0 * 2 ^ 16) < 4 ∧ freeRegion s (homeDie (1 * 2 ^ 16)) ≠ none ∧ 0x2000 % 64 = 0 ∧ val s.cur.b = 0) ∧
    (let s := at_ (dt 0x2000) (dt 0) []
     (baseFrames (asked s (.drvdecl oH) (reqSrcOf s.cur)) 0 0 (basePages (drecOf (drRec 1 0x10000))) []).2 = none) ∧
    (let s := drS2 0x3000000 0 (reg0 .active Result.init) [] []
     Calm s (reqSrcOf s.cur) ∧ 0 ≤ indexOf 0x3000001 m0 ∧ indexOf 0x3000001 m0 < (drecOf (reg0 .active Result.init).record).results ∧
       (s.ctx 0).det = false) := by
  refine ⟨⟨asks_dr _ _ _ _ _, fun _ hq => absurd hq List.not_mem_nil, by decide, ?_⟩, ?_, ?_, noHosts _ rfl, ?_, ?_, ?_,
    ⟨rfl, rfl, fun _ hq => absurd hq List.not_mem_nil⟩, ?_⟩
  · unfold Live; decide +kernel
  · unfold Live; decide +kernel
  · decide +kernel
  · decide +kernel
  · decide +kernel
  · decide +kernel
  · decide +kernel

/-- Deltas, a rescan, and a DLD whose flush has been to every slice but k. -/
def dl0 (home : Nat) : Delta := ⟨0, 1, home, 3, 0, 0, 0, []⟩
def dld0 (k : Nat) : Req := { rq (.dld oH .f32 m0) (.dld 0) .issued with
  aux := 1, marks := (List.range 384).filter (· ≠ k), firing := (at_ (dt 0x3000001) [] []).cur }
def deS (g : Region) (l : List Delta) (rs : List (Nat × Nat)) (qs : List Req) (clk : Nat) : State := { State.reset with
  clk := clk, reqs := qs, dies := [(0, { Die.init with regions := [(0, g)], deltas := l, rescans := rs })] }
theorem witness_DerivedEvents :
    (0 < 4 ∧ (State.reset.die 0).deltas.length ≤ 0 ∧ (State.reset.die 0).rescans.length ≤ 0) ∧
    (let s := deS (reg0 .active Result.init) [dl0 5, dl0 5] [] [] 0
     (s.die 0).deltas[1]? = some (dl0 5) ∧ (∃ y ∈ (s.die 0).deltas.take 1, y.home = (dl0 5).home) ∧ (s.die 0).deltas[0]? = some (dl0 5) ∧
       (s.die 0).deltas.take 0 = [] ∧ (dl0 5).elems = []) ∧
    (let g := { reg0 .active { Result.init with ext := some (0, 5) } with record := drRec 3 0x10000 }
     (applyDelta (drecOf g.record) (tabGet Result.init 1 g.results) { dl0 5 with elems := [(0, 5, 0)] }).2 = true) ∧
    (let s := deS (reg0 .active Result.init) [] [(0, 1)] [] 0
     (s.die 0).rescans[0]? = some (0, 1) ∧ NoHosts s ∧ (s.die 0).rescans.take 0 = []) ∧
    (∀ clk ∈ [2047, 2048], let s := deS (reg0 .active { Result.init with dirty := true }) [] [] [] clk
     let o := tabGet Result.init 1 ((s.die 0).region 0).results
     ((s.die 0).region 0).st ≠ .free ∧ o.dirty = true ∧ (o.changed + 2048 ≤ s.clk ↔ clk = 2048)) ∧
    (∀ st ∈ [RegSt.building, .resyncing], ∀ i ∈ [Instr.drvdecl oH, .drvsync oH], let q := { rq i .ctl .blocked with id := 7 }
     let s := deS (reg0 st Result.init) [] [] [q] 0
     ((s.die 0).region 0).st = st ∧ ctxMoves s 0 = true ∧ getReq s 7 = some q ∧ q.firing.core < 128 ∧ getReq (deS (reg0 st Result.init) [] [] [] 0) 7 = none) ∧
    (∀ k ∈ [3, 4], ∀ l ∈ [[], [dl0 3]], let s := deS (reg0 .active Result.init) l [] [dld0 k] 0
     let q := dld0 k
     getReq s 1 = some q ∧ q.instr = .dld oH .f32 m0 ∧ q.op = .dld 0 ∧ q.aux = 1 ∧ 3 < 384 ∧ q.firing.core < 128 ∧ ctxMoves s 0 = true ∧
       Live s 0 0x3000001 ∧ (0x3000001 : Word).toNat / 2 ^ 40 % 4 = 0 ∧ (0x3000001 : Word).toNat / 2 ^ 30 % 2 ^ 10 = 0 ∧ ((s.die 0).region 0).st = .active ∧
       indexOf 0x3000001 m0 = (1 : Nat) ∧ q.acq = false ∧ (tabGet Result.init 1 ((s.die 0).region 0).results).stale = false ∧
       ((∃ y ∈ (s.die 0).deltas, y.home = 3 ∧ resultSlice ((s.die 0).region y.region) y.res = resultSlice ((s.die 0).region 0) 1) ↔ l ≠ [])) ∧
    ((3 : Nat) :: (dld0 3).marks).length = 384 ∧ 4 ∉ 3 :: (dld0 4).marks := by
  refine ⟨?_, ?_, ?_, ⟨rfl, noHosts _ rfl, rfl⟩, ?_, ?_, ?_, ?_, ?_⟩
  · decide +kernel
  · decide +kernel
  · decide +kernel
  · decide +kernel
  · decide +kernel
  · unfold Live; decide +kernel
  · decide +kernel
  · decide +kernel

/-- Port 9, at which master 2, the owner, may stand, and a request away over it. -/
def lk (l : Link) (qs : List Req) (clk : Nat) (lines : Tab Line) : State := { State.reset with
  clk := clk, reqs := qs, lines := lines, links := [(9, l), (1, l)], mgmt := own 0 }
def lk0 (st : PortSt) (present : Bool) : Link := { Link.init with st := st, cxlen := true, present := present, lanes := 0xF, unacked := [3, 4, 5] }
def awy (op : AccOp) (i : Instr) : Req := { rq i op (.remote 9) with since := 0 }
theorem stillFrames (s : State) (h : s.frames = []) : StillFrames s := fun n => by
  have : s.frame n = FrameSt.init := by rw [State.frame, h]; rfl
  rw [this]; rfl
theorem witness_Links :
    (17 < 18 ∧ ((lk (lk0 .active true) [] 0 []).link 9).st ≠ .down ∧ ((lk (lk0 .down true) [] 0 []).link 9).st = .down) ∧
    (∀ e ∈ [(PortSt.training, 4200000, false), (.training, 4200001, true), (.retraining, 1050000, false), (.retraining, 1050001, true)],
      let s := lk (lk0 e.1 true) [] e.2.1 []
      Trains s (s.link 9) e.2.2) ∧
    ((0x1F : BitVec 8) &&& 0x0F = 0x0F ∧ (0x1F : BitVec 8) ≠ 0xFF ∧ (0xF0 : BitVec 8) &&& 0xF0 = 0xF0 ∧ (0x3C : BitVec 8) &&& 0x0F ≠ 0x0F ∧
      (0x3C : BitVec 8) &&& 0xF0 ≠ 0xF0) ∧
    (∀ st ∈ [PortSt.active, .degraded, .down], let l := (lk (lk0 st true) [] 0 []).link 9
      (l.up = true ↔ st ≠ .down) ∧ l.lanes.getLsbD 3 = true ∧ l.lanes.getLsbD 4 = false ∧ l.unacked = [3] ++ 4 :: [5] ∧ 4 ∉ [3] ∧ 9 ∉ l.unacked ∧ l.naks < 15 ∧
        15 ≤ ({ l with naks := 15 } : Link).naks) ∧
    (∀ d x, d < 4 → x ∈ ((lk (lk0 .active true) [] 0 []).die d).jobs → x.2.sent = none) ∧
    (∀ q ∈ [awy .load (.ld oH .z64 m0), awy (.store [1]) (.st oH .z64 m0)], let s := lk (lk0 .active true) [q] 0 []
      Away s 1 9 q ∧ q.firing.trestle = none ∧ q.firing.core < 128 ∧ s.clk ≤ q.since + (s.link 9).cto.toNat * 2100 ∧
        q.since + (s.link 9).cto.toNat * 2100 < (lk (lk0 .active true) [q] 2100001 []).clk ∧ ringOf s 4096 0 = none ∧ getReq s 5 = none) ∧
    (let s := lk (lk0 .active true) [] 0 []
     s.mgmt.ready = true ∧ StillFrames s ∧ NoHosts s ∧ masterAt s 9 = some 2 ∧ hostMayWrite s 2 = true ∧ peerMayWrite s 9 = true ∧
       (0x100040 % 128 + 64 ≤ 128 ∧ rangeRoom s (peerOwner s 9) 0x100040 64 = true) ∧ (0x100040 % 8 = 0 ∧ rangeRoom s (peerOwner s 9) 0x100040 8 = true ∧
       (s.frame (0x100040 / 2 ^ 16)).hostBias = false) ∧ masterAt s 1 = none ∧ State.reset.mgmt.ready = false ∧
       tabGet 0 0 (boxOf { s with mgmt := { own 0 with boxes := [(2, { Mailbox.init with bytes := [(0, 1)] })] } } 2).bytes = 1) ∧
    (let s := lk { lk0 .active true with cxlen := true } [] 0 []
     let t := { s with mgmt := { own 0 with owner := 3 } }
     masterAt t 9 = some 2 ∧ hostMayWrite t 2 = false) ∧
    (let s := lk (lk0 .active true) [] 0 [(8, { Line.init with half0 := 2, host0 := 2 })]
     (s.line (0x400 / 128)).half0 = 2 ∧ (s.line (0x400 / 128)).host0 = 2 ∧ 0x400 % 128 = 0 ∧ rangeRoom s (.host 2) 0x400 64 = true ∧
       (s.line (0x480 / 128)).half0 < 2) ∧
    (let s := lk (lk0 .active true) [] 2100000 [(8, { Line.init with half0 := 3, host0 := 2 })]
     (s.line 8).half0 = 3 ∧ (s.line 8).since0 + (s.link ((portsOfMaster s 2).headD 0)).cto.toNat * 2100 ≤ s.clk ∧ 8 < 2 ^ 44 ∧ ringOf s 4096 0 = none ∧
       (s.line 9).half0 ≠ 3 ∧ (s.line 9).half1 ≠ 3) := by
  refine ⟨?_, ?_, ?_, ?_, ?_, ?_, ⟨rfl, stillFrames _ rfl, noHosts _ rfl, ?_⟩, ?_, ?_, ?_⟩
  · decide +kernel
  · unfold Trains; decide +kernel
  · decide
  · decide +kernel
  · intro d x hd hx; exact absurd hx List.not_mem_nil
  · unfold Away; decide +kernel
  · decide +kernel
  · decide +kernel
  · decide +kernel
  · decide +kernel

/-- A firing of context 0, whose ring is at 0x10000, with a leaf in its TLB or a page table of no entries. -/
def afS (v : Word) (root : BitVec 52) (l : List TlbEnt) : State := { at_ (dt v) (dt 2) [] with
  ctxs := [(0, { Ctx.monitor with frBase := 0x10000, ptroot := root })], cores := [(0, { Core.init with tlb := l })] }
theorem witness_AccessFaults :
    (∀ v root l, let s := afS v root l
      Sane s ∧ Fires oH s.cur ∧ IsData s.cur.a ∧ IsData s.cur.b ∧ Calm s (reqSrcOf s.cur) ∧ Fresh s ∧ s.cur.trestle = none) ∧
    RingOpen (afS 0 0 []) 0 ∧ oH.t0.isSome ∧ vH.t0 = none ∧ vH.t1 = none ∧
    (∀ k ∈ [Acc3.rd, .wr, .rw],
      Meets (afS 0x1000000000000 0 []) k 0x1000000000000 8 0x10 7 0 ∧ Meets (afS 0xFFFFFFFFFFFC 0 []) k 0xFFFFFFFFFFFC 8 0x12 7 0 ∧
        Meets (afS 0xFFFFFFFFFFF8 0 []) k 0xFFFFFFFFFFF8 8 0x10 3 0 ∧
        Meets (afS 0xFFFFFFFFFFF8 0 [⟨0, 0, 2 ^ 48, 0, 3, 9⟩]) k 0xFFFFFFFFFFF8 8 0x11 2 9) ∧
    (0x1000 < 2 ^ 48 ∧ 0x1000 % 8 = 0 ∧ found (afS 0x1000 0x40000 []) 0x1000 = .fault false 3 0x40000) := by
  refine ⟨fun v root l => ⟨⟨(by decide : 0 < 128), rfl⟩, trivial, rfl, rfl, ⟨rfl, rfl, fun _ hq => absurd hq List.not_mem_nil⟩,
    fun _ hq => absurd hq List.not_mem_nil, rfl⟩, ?_, rfl, rfl, rfl, fun k hk => ⟨?_, ?_, ?_, ?_⟩, by decide, by decide, by rfl⟩
  · unfold RingOpen; decide +kernel
  · exact .inl ⟨by decide, rfl, rfl, rfl⟩
  · exact .inr (.inl ⟨by decide, by decide, rfl, rfl, rfl⟩)
  · exact .inr (.inr (.inl ⟨by decide, by decide, by rfl, rfl⟩))
  · refine .inr (.inr (.inr ⟨by decide, by decide, rfl, 0xFFFFFFFFFFF8, 3, by rfl, ?_⟩))
    simp only [List.mem_cons, List.not_mem_nil, or_false] at hk
    rcases hk with rfl | rfl | rfl <;> rfl

def lan (n : Nat) (op : AccOp) (st : Stage) (i : Instr) : Req := { rq i op st with
  ordd := true, firing := { (at_ (dt 0x1000) [] []).cur with tag := ⟨0, 0, BitVec.ofNat 16 n⟩ } }
theorem witness_AtomicsAndLanes :
    (Sane (at_ (dt 1) (dt 2) (dt 3)) ∧ Fires oH (at_ (dt 1) (dt 2) (dt 3)).cur ∧ IsData (dt 1) ∧ IsData (dt 2) ∧ IsData (dt 3) ∧
      ((.amoadd : Hdr → Ty → Mem → Instr), 0) ∈ atomics ∧ anyNaN .f32 (val (dt 2)) = false ∧ oH.pm = .always) ∧
    (2 ^ 32 - 1 < 2 ^ (8 * accSize .s32)) ∧
    (∀ st ∈ [Stage.issued, .laneRefused], ∀ op ∈ [AccOp.atomic 0 5 0, .skip .data 3], ∀ n ∈ [0, 127], let q := lan n op st (.amoadd oH .z64 { m0 with ord := true })
      let s := wr q
      let l := findLane (s.homeSlice q.pa).lanes q.firing.ctx (q.pa / 8)
      getReq s 1 = some q ∧ inLane q = true ∧ homeGate s q = .go ∧ biasRefused s q = false ∧ homeDie q.pa < 4 ∧ q.firing.core < 128 ∧
        q.firing.trestle = none ∧ q.stage = st ∧ q.since + q.aux ≤ s.clk ∧ (q.firing.tag.iter = l.n ↔ n = 0) ∧ l.buf = [] ∧ q.pa + q.size ≤ 2 ^ 52 ∧
        badBytes s q.pa q.size = false ∧ leafT q.leaf = true ∧ q.size = accSize q.ty ∧
        (n = 127 → aheadOf l.n q.firing.tag.iter = true ∧ mayBuffer (s.homeSlice q.pa) l q.firing.tag.iter = true)) := by
  refine ⟨⟨sane_at _ _ _, trivial, rfl, rfl, rfl, .head _, by decide, rfl⟩, by decide, ?_⟩
  decide +kernel

theorem witness_SelRule :
    (∀ a b p : Tok, Sane (at_ [a] [b] [p]) ∧ oH.pm = .always ∧ (at_ [a] [b] [p]).cur.a = [a] ∧ (at_ [a] [b] [p]).cur.b = [b] ∧
      (at_ [a] [b] [p]).cur.p = [p]) ∧
    (∃ g : Target, flightOf (at_ (dt 1) (dt 2) (dt 0)) (at_ (dt 1) (dt 2) (dt 0)).cur ⟨g, .data, 1, (at_ (dt 1) (dt 2) (dt 0)).cur.tag, .consume, false⟩ ≠ none) ∧
    (tk .null 5).kind = .null ∧
    (∀ l : Fin 4, let a := tk (.stop 0) 5
      let b := tk (.stop l) 6
      (∃ t ∈ [a, b, tk .data 1], t.kind = .stop l) ∧ [a, b, tk .data 1].find? (fun t => isStop t.kind) = some a) ∧
    ((tk .error 5).kind = .error ∧ (tk .data 0).kind = .data ∧ (tk .data 0).value = 0) :=
  ⟨fun a b p => ⟨sane_at _ _ _, rfl, rfl, rfl, rfl⟩, ⟨some ⟨.a, 4⟩, by decide⟩, rfl,
    fun l => ⟨⟨_, .tail _ (.head _), rfl⟩, rfl⟩, rfl, rfl, rfl⟩
theorem witness_P4Codes : 62 < 63 ∧ 3 < 4 ∧ (toP4Lane .rne (.fin false 1 0)).code = some 0 ∧ [0xFF, 0, 0, 0, 0, 0, 0, (0 : Byte)].length = 8 ∧
    255 < 256 ∧ Claim.rational (decodeP4 0) ≠ none ∧ (61 < 62 ∨ (62 = 62 ∧ 0 < 3)) := by
  refine ⟨by decide, by decide, by decide +kernel, rfl, by decide, ?_, by decide⟩
  have : decodeP4 0 = .fin false 4 (-2) ∨ ∃ m e, decodeP4 0 = .fin false m e := .inr ⟨_, _, rfl⟩
  rcases this with h | ⟨m, e, h⟩ <;> simp [h, Claim.rational]
theorem witness_OwnershipWord : Runs oH (at_ (dt 1) [] []) ∧ IsData (at_ (dt 1) [] []).cur.a := ⟨runs_at _ _ _ _ trivial rfl, rfl⟩

end Sys2Proof.Tests
end

section
/-! Proofs of the family 03_token: the order and the distance of iterations (R40). -/

namespace Sys2Proof.Machine

/-- The difference of two iterations as a word is the difference modulo 2^16 of R40, whichever of the two is larger. -/
theorem iterSub_toNat (i j : BitVec 16) : ((j - i).toNat : Int) = ((j.toNat : Int) - i.toNat) % 2 ^ 16 := by
  rw [BitVec.toNat_sub]
  omega

theorem iterBefore_iff (i j : BitVec 16) : iterBefore i j = true ↔ 1 ≤ (j - i).toNat ∧ (j - i).toNat ≤ 32767 :=
  decide_eq_true_iff

/-- R40's precedence on integers. -/
theorem iterBefore_iff_emod (i j : BitVec 16) :
    iterBefore i j = true ↔
      1 ≤ ((j.toNat : Int) - i.toNat) % 2 ^ 16 ∧ ((j.toNat : Int) - i.toNat) % 2 ^ 16 ≤ 32767 := by
  rw [iterBefore_iff, ← iterSub_toNat]
  omega

/-- R40's distance on integers. -/
theorem iterDist_eq_min_emod (i j : BitVec 16) :
    (iterDist i j : Int) = min (((j.toNat : Int) - i.toNat) % 2 ^ 16) (((i.toNat : Int) - j.toNat) % 2 ^ 16) := by
  rw [iterDist, ← iterSub_toNat i j, ← iterSub_toNat j i]
  omega

/-- Settles O57: both measures of R40 are read off the word difference, which is the difference modulo 2^16. -/
theorem iterationOrder : Obligations.IterationOrder :=
  fun i j => ⟨iterBefore_iff_emod i j, iterDist_eq_min_emod i j⟩

end Sys2Proof.Machine
end

section
/-! Proofs of the family 04_numbers: the values of P4 codes, the codes that rounding to P4 produces, and the NaN code of a load (R88). -/

namespace Sys2Proof.Machine

open Sys2Proof Sys2Proof.Claim

/-! The value of a code. -/

theorem decodeP4_of_lt {e f : Nat} (he : e < 63) (hf : f < 4) : decodeP4 (f * 64 + e) = .fin false (4 + f) (-2 - (e : Int)) := by
  have hfrac : bitsN (f * 64 + e) 6 2 = f := by simp only [bitsN]; omega
  have hexp : bitsN (f * 64 + e) 0 6 = e := by simp only [bitsN]; omega
  simp only [decodeP4, hfrac, hexp, if_neg (Nat.ne_of_lt he)]

theorem decodeP4_of_exp_eq_63 {c : Nat} (hc : c < 256) (he : c % 64 = 63) :
    decodeP4 c = if c = 0xFF then .nan else .fin false 0 0 := by
  have hexp : bitsN c 0 6 = 63 := by simp only [bitsN]; omega
  have hfrac : bitsN c 6 2 = 3 ↔ c = 0xFF := by simp only [bitsN]; omega
  simp only [decodeP4, hexp, hfrac, if_true]

/-- The exponent and fraction of a code that is neither a zero nor the NaN code. -/
theorem exists_fields_of_exp_ne_63 {c : Nat} (hc : c < 256) (he : c % 64 ≠ 63) :
    ∃ e f : Nat, e < 63 ∧ f < 4 ∧ c = f * 64 + e :=
  ⟨c % 64, c / 64, by omega, by omega, by omega⟩

theorem decodeP4_eq_nan_iff {c : Nat} (hc : c < 256) : decodeP4 c = .nan ↔ c = 0xFF := by
  by_cases he : c % 64 = 63
  · rw [decodeP4_of_exp_eq_63 hc he]
    split <;> simp_all
  · obtain ⟨e, f, he', hf, rfl⟩ := exists_fields_of_exp_ne_63 hc he
    rw [decodeP4_of_lt he' hf]
    simp only [reduceCtorEq, false_iff]
    omega

/-- R88's value of the code with exponent e and fraction f. -/
def p4Value (e f : Nat) : ℚ := (1 + (f : ℚ) / 4) * 2 ^ (-(e : Int))

theorem rational_decodeP4 {e f : Nat} (he : e < 63) (hf : f < 4) : rational (decodeP4 (f * 64 + e)) = some (p4Value e f) := by
  have hsplit : (2 : ℚ) ^ (-2 - (e : Int)) = 2 ^ (-(e : Int)) / 4 := by
    rw [show -2 - (e : Int) = -(e : Int) - 2 by ring, zpow_sub₀ (by norm_num)]
    norm_num
  rw [decodeP4_of_lt he hf, rational, p4Value, hsplit]
  push_cast
  congr 1
  ring

/-- The value of a code whose fields are numerals. -/
theorem rational_decodeP4_eq (e f : Nat) {q : ℚ} (hq : p4Value e f = q) (he : e < 63 := by decide) (hf : f < 4 := by decide) :
    rational (decodeP4 (f * 64 + e)) = some q := hq ▸ rational_decodeP4 he hf

theorem two_zpow_le_p4Value (e f : Nat) : (2 : ℚ) ^ (-(e : Int)) ≤ p4Value e f :=
  le_mul_of_one_le_left (by positivity) (le_add_of_nonneg_right (by positivity))

theorem p4Value_le {e f : Nat} (hf : f < 4) : p4Value e f ≤ 7 / 4 * 2 ^ (-(e : Int)) := by
  have hf' : (f : ℚ) ≤ 3 := by exact_mod_cast Nat.le_of_lt_succ hf
  exact mul_le_mul_of_nonneg_right (by linarith) (by positivity)

theorem two_zpow_neg_le {e e' : Nat} (h : e ≤ e') : (2 : ℚ) ^ (-(e' : Int)) ≤ 2 ^ (-(e : Int)) :=
  zpow_le_zpow_right₀ (by norm_num) (by omega)

theorem p4Value_lt_of_frac_lt (e : Nat) {f f' : Nat} (h : f' < f) : p4Value e f' < p4Value e f := by
  have h' : (f' : ℚ) < f := by exact_mod_cast h
  exact mul_lt_mul_of_pos_right (by linarith) (by positivity)

/-- A larger exponent gives the smaller value, whatever the fractions. -/
theorem p4Value_lt_of_exp_lt {e e' : Nat} (f : Nat) {f' : Nat} (hf' : f' < 4) (h : e < e') : p4Value e' f' < p4Value e f := by
  have hhalf : (2 : ℚ) ^ (-((e + 1 : Nat) : Int)) = 2 ^ (-(e : Int)) / 2 := by
    rw [show -((e + 1 : Nat) : Int) = -(e : Int) - 1 by push_cast; ring, zpow_sub₀ (by norm_num)]
    norm_num
  have hpos : (0 : ℚ) < 2 ^ (-(e : Int)) := by positivity
  calc p4Value e' f' ≤ 7 / 4 * 2 ^ (-(e' : Int)) := p4Value_le hf'
    _ ≤ 7 / 4 * 2 ^ (-((e + 1 : Nat) : Int)) := mul_le_mul_of_nonneg_left (two_zpow_neg_le h) (by norm_num)
    _ = 7 / 8 * 2 ^ (-(e : Int)) := by rw [hhalf]; ring
    _ < 2 ^ (-(e : Int)) := by linarith
    _ ≤ p4Value e f := two_zpow_le_p4Value e f

theorem p4Value_order {e e' f f' : Nat} (hf' : f' < 4) (h : e < e' ∨ (e = e' ∧ f' < f)) : p4Value e' f' < p4Value e f := by
  rcases h with he | ⟨rfl, hf⟩
  · exact p4Value_lt_of_exp_lt f hf' he
  · exact p4Value_lt_of_frac_lt e hf

/-- The greatest P4 value and the least one that is not zero. -/
theorem rational_decodeP4_bounds {c : Nat} (hc : c < 256) {q : ℚ} (hq : rational (decodeP4 c) = some q) :
    q ≤ 7 / 4 ∧ (q ≠ 0 → 2 ^ (-62 : Int) ≤ q) := by
  by_cases he : c % 64 = 63
  · rw [decodeP4_of_exp_eq_63 hc he] at hq
    split at hq
    · exact absurd hq (by simp [rational])
    · obtain rfl : 0 = q := by simpa [rational] using hq
      exact ⟨by norm_num, fun h => absurd rfl h⟩
  · obtain ⟨e, f, he', hf, rfl⟩ := exists_fields_of_exp_ne_63 hc he
    obtain rfl : p4Value e f = q := by simpa [rational_decodeP4 he' hf] using hq
    have hone : (2 : ℚ) ^ (-(e : Int)) ≤ 1 := by simpa using two_zpow_neg_le (Nat.zero_le e)
    have hle := p4Value_le (e := e) hf
    exact ⟨by linarith, fun _ => (two_zpow_neg_le (by omega : e ≤ 62)).trans (two_zpow_le_p4Value e f)⟩

/-! Rounding a magnitude to a multiple of 2^q. -/

theorem lt_two_pow_bitLen (m : Nat) : m < 2 ^ bitLen m := by
  unfold bitLen
  split
  · omega
  · exact Nat.lt_log2_self

theorem two_pow_le_of_lt_bitLen {m n : Nat} (h : n < bitLen m) : 2 ^ n ≤ m := by
  unfold bitLen at h
  split at h
  · omega
  · next hm => exact (Nat.le_log2 hm).mp (by omega)

theorem roundAt_of_le {q e : Int} (h : q ≤ e) (mode : RMode) (neg : Bool) (m : Nat) (sticky : Bool) :
    (roundAt mode neg m e sticky q).1 = m * 2 ^ (e - q).toNat := by
  simp only [roundAt, if_pos h]

theorem le_ite_succ (up : Bool) (n : Nat) : n ≤ if up then n + 1 else n := by split <;> omega

theorem ite_succ_le (up : Bool) (n : Nat) : (if up then n + 1 else n) ≤ n + 1 := by split <;> omega

/-- Where digits are dropped, the result is the quotient or its successor. -/
theorem roundAt_mem_of_lt {q e : Int} (h : e < q) (mode : RMode) (neg : Bool) (m : Nat) (sticky : Bool) :
    m / 2 ^ (q - e).toNat ≤ (roundAt mode neg m e sticky q).1 ∧
      (roundAt mode neg m e sticky q).1 ≤ m / 2 ^ (q - e).toNat + 1 := by
  simp only [roundAt, if_neg (Int.not_le.mpr h)]
  exact ⟨le_ite_succ _ _, ite_succ_le _ _⟩

/-- A magnitude below 2^(q + n) rounds to at most 2^n. -/
theorem roundAt_le_two_pow {q e : Int} {m n : Nat} (h : e + bitLen m ≤ q + n) (mode : RMode) (neg sticky : Bool) :
    (roundAt mode neg m e sticky q).1 ≤ 2 ^ n := by
  have hm := lt_two_pow_bitLen m
  rcases le_or_gt q e with hq | hq
  · rw [roundAt_of_le hq]
    calc m * 2 ^ (e - q).toNat ≤ 2 ^ bitLen m * 2 ^ (e - q).toNat := Nat.mul_le_mul_right _ hm.le
      _ = 2 ^ (bitLen m + (e - q).toNat) := (pow_add ..).symm
      _ ≤ 2 ^ n := Nat.pow_le_pow_right (by decide) (by omega)
  · have hquo : m / 2 ^ (q - e).toNat < 2 ^ n := by
      rw [Nat.div_lt_iff_lt_mul (Nat.two_pow_pos _), ← pow_add]
      exact hm.trans_le (Nat.pow_le_pow_right (by decide) (by omega))
    exact (roundAt_mem_of_lt hq mode neg m sticky).2.trans hquo

/-- A magnitude of 2^(q + n) or more rounds to at least 2^n. -/
theorem two_pow_le_roundAt {q e : Int} {m n : Nat} (hm : m ≠ 0) (h : q + n < e + bitLen m) (mode : RMode) (neg sticky : Bool) :
    2 ^ n ≤ (roundAt mode neg m e sticky q).1 := by
  rcases le_or_gt q e with hq | hq
  · rw [roundAt_of_le hq]
    rcases le_or_gt n (e - q).toNat with hn | hn
    · calc 2 ^ n ≤ 2 ^ (e - q).toNat := Nat.pow_le_pow_right (by decide) hn
        _ ≤ m * 2 ^ (e - q).toNat := Nat.le_mul_of_pos_left _ (Nat.pos_of_ne_zero hm)
    · have hdigits : 2 ^ (n - (e - q).toNat) ≤ m := two_pow_le_of_lt_bitLen (by omega)
      calc 2 ^ n = 2 ^ (n - (e - q).toNat) * 2 ^ (e - q).toNat := by rw [← pow_add, Nat.sub_add_cancel hn.le]
        _ ≤ m * 2 ^ (e - q).toNat := Nat.mul_le_mul_right _ hdigits
  · have hquo : 2 ^ n ≤ m / 2 ^ (q - e).toNat := by
      rw [Nat.le_div_iff_mul_le (Nat.two_pow_pos _), ← pow_add]
      exact two_pow_le_of_lt_bitLen (by omega)
    exact hquo.trans (roundAt_mem_of_lt hq mode neg m sticky).1

/-! The codes that rounding to P4 produces. -/

/-- The codes that rounding to P4 may produce: R88 excludes 0x7F, 0xBF and 0xFF. -/
def P4Produced (c : Nat) : Prop := c < 256 ∧ (c % 64 = 63 → c = 0x3F)

theorem p4Produced_zero : P4Produced 0x3F := ⟨by decide, fun _ => rfl⟩

theorem p4Produced_max : P4Produced 0xC0 := ⟨by decide, by decide⟩

theorem p4Produced_of_fields {k f : Nat} (hk : k < 63) (hf : f < 4) : P4Produced (f * 64 + k) := by
  unfold P4Produced
  omega

/-- The exponent of the unit that a magnitude with leading bit 2^top is rounded to. -/
def p4Ulp (top : Int) : Int := if top < -62 then -62 else top - 2

/-- The code of the multiple r of 2^q that rounding gives. -/
def p4Code (r : Nat) (q : Int) : Nat :=
  ((if r = 8 then 4 else if r = 1 then 4 else r) - 4) * 64 +
    (-((if r = 8 then q + 1 else if r = 1 then q - 2 else q) + 2)).toNat

/-- Four to eight units of a P4 exponent: the sum of 1 and f/4, or the next exponent's 1. -/
theorem p4Code_produced {r : Nat} {q : Int} (hr4 : 4 ≤ r) (hr8 : r ≤ 8) (hq : -64 ≤ q) : P4Produced (p4Code r q) := by
  apply p4Produced_of_fields
  · split_ifs <;> omega
  · split_ifs <;> omega

/-- The code of 2^-62. -/
theorem p4Code_one_produced : P4Produced (p4Code 1 (-62)) := p4Produced_of_fields (k := 62) (f := 0) (by decide) (by decide)

/-- The multiple of its unit that a magnitude rounds to. -/
def p4Digits (mode : RMode) (m : Nat) (e : Int) : Nat := (roundAt mode false m e false (p4Ulp (e + bitLen m - 1))).1

/-- A magnitude below 2^-62 rounds to nothing or to one unit of 2^-62. -/
theorem p4Digits_le_one {m : Nat} {e : Int} (h : e + bitLen m - 1 < -62) (mode : RMode) : p4Digits mode m e ≤ 1 := by
  rw [p4Digits, p4Ulp, if_pos h]
  exact roundAt_le_two_pow (n := 0) (by push_cast; omega) mode false false

/-- A magnitude of 2^-62 or more keeps three digits, or carries to the fourth. -/
theorem p4Digits_bounds {m : Nat} {e : Int} (hm : m ≠ 0) (h : ¬ e + bitLen m - 1 < -62) (mode : RMode) :
    4 ≤ p4Digits mode m e ∧ p4Digits mode m e ≤ 8 := by
  rw [p4Digits, p4Ulp, if_neg h]
  exact ⟨two_pow_le_roundAt (n := 2) hm (by push_cast; omega) mode false false,
    roundAt_le_two_pow (n := 3) (by push_cast; omega) mode false false⟩

/-- The rounding of a magnitude that is neither zero nor above the greatest P4 value. -/
def roundP4 (mode : RMode) (m : Nat) (e : Int) : LaneRes :=
  let q := p4Ulp (e + bitLen m - 1)
  let (r, inx) := roundAt mode false m e false q
  if r = 0 then ⟨some 0x3F, fUF ||| fNX⟩ else ⟨some (p4Code r q), if inx then fNX else fNone⟩

theorem roundP4_code (mode : RMode) (m : Nat) (e : Int) :
    (roundP4 mode m e).code =
      if p4Digits mode m e = 0 then some 0x3F else some (p4Code (p4Digits mode m e) (p4Ulp (e + bitLen m - 1))) :=
  apply_ite LaneRes.code _ _ _

theorem roundP4_produced {mode : RMode} {m : Nat} {e : Int} {c : Nat} (hm : m ≠ 0) (h : (roundP4 mode m e).code = some c) :
    P4Produced c := by
  rw [roundP4_code] at h
  split_ifs at h with hr
  · exact Option.some.inj h ▸ p4Produced_zero
  obtain rfl := Option.some.inj h
  by_cases htop : e + bitLen m - 1 < -62
  · have hone : p4Digits mode m e = 1 := by have := p4Digits_le_one htop mode; omega
    rw [hone, p4Ulp, if_pos htop]
    exact p4Code_one_produced
  · obtain ⟨hge, hle⟩ := p4Digits_bounds hm htop mode
    rw [p4Ulp, if_neg htop]
    exact p4Code_produced hge hle (by omega)

/-- A magnitude far below 2^-62 is rounded as 2^-65. -/
theorem toP4Lane_fin (mode : RMode) (n : Bool) (m : Nat) (e : Int) :
    toP4Lane mode (.fin n m e) =
      if m = 0 then ⟨some 0x3F, fNone⟩
      else if n then ⟨some 0x3F, fIV⟩
      else if Dy.lt ⟨7, -2⟩ ⟨m, e⟩ then ⟨some 0xC0, fOF ||| fNX⟩
      else roundP4 mode (if decide (e + bitLen m - 1 < -64) then 1 else m) (if decide (e + bitLen m - 1 < -64) then -65 else e) := rfl

theorem toP4Lane_produced {mode : RMode} {v : FVal} {c : Nat} (h : (toP4Lane mode v).code = some c) : P4Produced c := by
  cases v with
  | nan => exact absurd h (by simp [toP4Lane])
  | inf n =>
    cases n
    · obtain rfl : 0xC0 = c := Option.some.inj h
      exact p4Produced_max
    · obtain rfl : 0x3F = c := Option.some.inj h
      exact p4Produced_zero
  | fin n m e =>
    rw [toP4Lane_fin] at h
    split_ifs at h with hm hneg hmax hlow
    · exact Option.some.inj h ▸ p4Produced_zero
    · exact Option.some.inj h ▸ p4Produced_zero
    · exact Option.some.inj h ▸ p4Produced_max
    · exact roundP4_produced one_ne_zero h
    · exact roundP4_produced hm h

/-! The NaN code of a load. -/

theorem ofBytesLE_eq_packN (l : List Byte) : ofBytesLE l = packN 8 (l.map BitVec.toNat) := by
  induction l with
  | nil => rfl
  | cons b l ih =>
    have hb : b.toNat % 2 ^ 8 = b.toNat := Nat.mod_eq_of_lt b.isLt
    rw [ofBytesLE, ih, List.map_cons, packN, hb]
    rfl

/-- The P4 lanes of eight bytes are the bytes. -/
theorem lanesOf_p4x8_ofBytesLE {l : List Byte} (hl : l.length = 8) :
    lanesOf .p4x8 (BitVec.ofNat 64 (ofBytesLE l)) = l.map BitVec.toNat := by
  have hlen : (l.map BitVec.toNat).length = 8 := by rw [List.length_map, hl]
  refine List.ext_getElem (by rw [lanesOf_length, hlen]; rfl) fun i hi hi' => ?_
  have hlane := laneOf_ofNat_packN .p4x8 (l.map BitVec.toNat) hlen i hi'
  rw [lanesOf_getElem, ofBytesLE_eq_packN]
  refine hlane.trans (Nat.mod_eq_of_lt ?_)
  rw [List.getElem_map]
  exact l[i].isLt

theorem laneNaN_p4x8_toNat (b : Byte) : laneNaN .p4x8 b.toNat = true ↔ b = 0xFF := by
  have hval : b.toNat = 0xFF ↔ b = 0xFF := ⟨fun h => BitVec.eq_of_toNat_eq h, fun h => h ▸ rfl⟩
  exact decide_eq_true_iff.trans ((decodeP4_eq_nan_iff b.isLt).trans hval)

theorem anyNaN_p4x8_ofBytesLE {l : List Byte} (hl : l.length = 8) :
    anyNaN .p4x8 (BitVec.ofNat 64 (ofBytesLE l)) = true ↔ (0xFF : Byte) ∈ l := by
  rw [anyNaN, lanesOf_p4x8_ofBytesLE hl, List.any_map, List.any_eq_true]
  simp only [Function.comp_apply, laneNaN_p4x8_toNat, exists_eq_right]

theorem readValue_p4x8_kind {l : List Byte} (hl : l.length = 8) :
    (readValue .p4x8 l).1 = if (0xFF : Byte) ∈ l then .error else .data := by
  simp only [readValue, anyNaN_p4x8_ofBytesLE hl, apply_ite Prod.fst]

/-- Settles O59: a code is decoded by its fields, whose value falls with e and grows with f; rounding ends at 0, at 7/4, or at
three digits with an exponent of at most 62; and the P4 lanes of a load are its bytes. -/
theorem p4Codes : Obligations.P4Codes := by
  refine ⟨fun e f he hf => rational_decodeP4 he hf, rfl, rfl, rfl, rfl, fun mode v c h => toP4Lane_produced h,
    fun l hl => readValue_p4x8_kind hl, ?_, ?_, fun c hc q hq => rational_decodeP4_bounds hc hq,
    fun e e' f f' he' hf hf' h => ⟨_, _, rational_decodeP4 (by omega) hf, rational_decodeP4 he' hf', p4Value_order hf' h⟩,
    ?_, ?_, ?_, ?_, ?_⟩
  · exact rational_decodeP4_eq 0 3 (by norm_num [p4Value])
  · exact rational_decodeP4_eq 62 0 (by norm_num [p4Value])
  · exact rational_decodeP4_eq 0 0 (by norm_num [p4Value])
  · exact rational_decodeP4_eq 0 1 (by norm_num [p4Value])
  · exact rational_decodeP4_eq 1 3 (by norm_num [p4Value])
  · exact rational_decodeP4_eq 10 0 (by norm_num [p4Value])
  · exact rational_decodeP4_eq 10 2 (by norm_num [p4Value])

end Sys2Proof.Machine
end

section
/-! Proofs of the family 06_integer: what a firing that sends one word to t0 and t1 answers, the lanes of that word, where the
instructions are legal, and SEL (R114 to R128). -/

namespace Sys2Proof.Machine

open Sys2Proof Sys2Proof.Claim

/-! The answer of a firing. -/

theorem predRule_of_fires {h : Hdr} {f : Firing} (hf : Fires h f) : predRule h.pm (opTok f.p) = .fire := by
  obtain ⟨pm, t0, t1⟩ := h
  cases pm with
  | always => rfl
  | onTrue =>
    obtain ⟨hkind, hval⟩ := hf
    exact predRule_onTrue hkind hval
  | onFalse =>
    obtain ⟨hkind, hval⟩ := hf
    exact predRule_onFalse hkind hval

/-- One kind and value to both targets: the tokens set out, and nothing else changes. -/
theorem fireRes_resAll {s : State} (hs : Sane s) (h : Hdr) (k : Kind) (v : Word) :
    fireRes s (resAll (tgts2 h) k v s.cur.tag) = .next (sent s (both s h k v)) :=
  fireRes_sends s _ hs.1 hs.2 rfl

theorem fireRes_unary {s : State} {h : Hdr} (hs : Sane s) (hf : Fires h s.cur) (ha : IsData s.cur.a) (g : Word → Word) :
    fireRes s (unary h s.cur g) = .next (sent s (both s h .data (g (val s.cur.a)))) := by
  have hops : ∀ t ∈ [opTok s.cur.a], t.kind = .data := List.forall_mem_singleton.2 ha
  rw [unary, ruled_body _ _ (predRule_of_fires hf) hops]
  exact fireRes_resAll hs h .data _

theorem fireRes_binary {s : State} {h : Hdr} (hs : Sane s) (hf : Fires h s.cur) (ha : IsData s.cur.a) (hb : IsData s.cur.b)
    (g : Word → Word → Word) :
    fireRes s (binary h s.cur g) = .next (sent s (both s h .data (g (val s.cur.a) (val s.cur.b)))) := by
  have hops : ∀ t ∈ [opTok s.cur.a, opTok s.cur.b], t.kind = .data :=
    List.forall_mem_cons.2 ⟨ha, List.forall_mem_singleton.2 hb⟩
  rw [binary, ruled_body _ _ (predRule_of_fires hf) hops]
  exact fireRes_resAll hs h .data _

/-! The lanes of a result. -/

/-- R73 of a word made from lanes. -/
theorem extended_fillTy (ty : Ty) (l : List Nat) (hl : l.length = tyLanes ty) : Extended ty (fillTy ty l) := by
  unfold Extended
  split_ifs with hs
  · subst hs
    exact fillTy_s32 l
  · exact fillTy_lt ty l hl hs

theorem extended_lanes1 (ty : Ty) (f : Nat → Nat) (a : Word) : Extended ty (lanes1 ty f a) :=
  extended_fillTy ty _ (by rw [List.length_map, lanesOf_length])

theorem extended_lanes2 (ty : Ty) (f : Nat → Nat → Nat) (a b : Word) : Extended ty (lanes2 ty f a b) :=
  extended_fillTy ty _ (by rw [List.length_zipWith, lanesOf_length, lanesOf_length, min_self])

theorem laneOf_lanes1 {ty : Ty} {i : Nat} (hi : i < tyLanes ty) (f : Nat → Nat) (a : Word) :
    laneOf (tyWidth ty) i (lanes1 ty f a) = f (laneOf (tyWidth ty) i a) % 2 ^ tyWidth ty := by
  have hlen : ((lanesOf ty a).map f).length = tyLanes ty := by rw [List.length_map, lanesOf_length]
  rw [lanes1, laneOf_fillTy ty _ hlen i (hlen.symm ▸ hi), List.getElem_map, lanesOf_getElem]

theorem laneOf_lanes2 {ty : Ty} {i : Nat} (hi : i < tyLanes ty) (f : Nat → Nat → Nat) (a b : Word) :
    laneOf (tyWidth ty) i (lanes2 ty f a b) = f (laneOf (tyWidth ty) i a) (laneOf (tyWidth ty) i b) % 2 ^ tyWidth ty := by
  have hlen : (List.zipWith f (lanesOf ty a) (lanesOf ty b)).length = tyLanes ty := by
    rw [List.length_zipWith, lanesOf_length, lanesOf_length, min_self]
  rw [lanes2, laneOf_fillTy ty _ hlen i (hlen.symm ▸ hi), List.getElem_zipWith, lanesOf_getElem, lanesOf_getElem]

/-- An instruction whose arm of exec computes each lane of a by f. -/
theorem bitsA_of_exec {mk : Hdr → Ty → Instr} {f : Ty → Nat → Nat}
    (hexec : ∀ h ty s, exec (mk h ty) s = fireRes s (unary h s.cur (lanes1 ty (f ty))) := by intros; rfl) : BitsA mk f :=
  fun h ty s hs hf ha =>
    ⟨_, (hexec h ty s).trans (fireRes_unary hs hf ha _), extended_lanes1 ty _ _, fun _ hi => laneOf_lanes1 hi _ _⟩

/-- An instruction whose arm of exec computes each lane of a and b by f. -/
theorem bitsAB_of_exec {mk : Hdr → Ty → Instr} {f : Ty → Nat → Nat → Nat}
    (hexec : ∀ h ty s, exec (mk h ty) s = fireRes s (binary h s.cur (lanes2 ty (f ty))) := by intros; rfl) : BitsAB mk f :=
  fun h ty s hs hf ha hb =>
    ⟨_, (hexec h ty s).trans (fireRes_binary hs hf ha hb _), extended_lanes2 ty _ _ _, fun _ hi => laneOf_lanes2 hi _ _ _⟩

/-- An instruction whose arm of exec computes each lane of a by f with the position of its immediate. -/
theorem amountA_of_exec {mk : Hdr → Ty → Fin 64 → Instr} {f : Ty → Nat → Nat → Nat}
    (hexec : ∀ h ty n s, exec (mk h ty n) s = fireRes s (unary h s.cur (lanes1 ty fun x => f ty x n.val))) :
    AmountA mk f :=
  fun h ty n s _ hs hf ha =>
    ⟨_, (hexec h ty n s).trans (fireRes_unary hs hf ha _), extended_lanes1 ty _ _, fun _ hi => laneOf_lanes1 hi _ _⟩

/-- Functions that agree modulo 2^w on lanes give the same lanes. -/
theorem bitsA_congr {mk : Hdr → Ty → Instr} {f g : Ty → Nat → Nat} (hg : BitsA mk g)
    (hfg : ∀ ty x, x < 2 ^ tyWidth ty → g ty x % 2 ^ tyWidth ty = f ty x % 2 ^ tyWidth ty) : BitsA mk f := by
  intro h ty s hs hf ha
  obtain ⟨v, hnext, hext, hlane⟩ := hg h ty s hs hf ha
  exact ⟨v, hnext, hext, fun i hi => (hlane i hi).trans (hfg ty _ (laneOf_lt _ _ _))⟩

theorem bitsAB_congr {mk : Hdr → Ty → Instr} {f g : Ty → Nat → Nat → Nat} (hg : BitsAB mk g)
    (hfg : ∀ ty x y, x < 2 ^ tyWidth ty → g ty x y % 2 ^ tyWidth ty = f ty x y % 2 ^ tyWidth ty) : BitsAB mk f := by
  intro h ty s hs hf ha hb
  obtain ⟨v, hnext, hext, hlane⟩ := hg h ty s hs hf ha hb
  exact ⟨v, hnext, hext, fun i hi => (hlane i hi).trans (hfg ty _ _ (laneOf_lt _ _ _))⟩

theorem intAB_congr {mk : Hdr → Ty → Instr} {f g : Ty → Int → Int → Int} (hg : IntAB mk g) (hfg : ∀ ty x y, g ty x y = f ty x y) :
    IntAB mk f :=
  bitsAB_congr hg fun ty x y _ => by rw [hfg]

/-! Where the instructions are legal (R106, R114). -/

theorem targetOk_encT (t : Target) : targetOk (encT t) = true := by
  rcases t with _ | ⟨k, n⟩
  · rfl
  · refine decide_eq_true (.inr ?_)
    have hn := n.isLt
    cases k <;> simp only [encT, slotCode] <;> omega

theorem encPm_ne_three (p : Pm) : encPm p ≠ 3 := (encPm_lt p).ne

theorem tyOf_tyCode (ty : Ty) : tyOf (tyCode ty) = ty := by cases ty <;> rfl

/-- The row of an instruction that stands in either container at every level, with any predicate and targets and without modifiers. -/
def freeRow (types : List Nat) (lk : LowKind) : OpInfo := ⟨some types, .none, lk, .both, 0, .free, .free⟩

theorem combosOk_freeRow (cfg : Bool) (types : List Nat) (lk : LowKind) (r : Raw) :
    combosOk cfg (freeRow types lk) r = types.contains r.ty := Bool.and_true _

theorem fieldsOk_freeRow (cfg : Bool) (types : List Nat) (lk : LowKind) (op : Nat) (h : Hdr) (ty low : Nat) :
    fieldsOk cfg (freeRow types lk) (rawOf op h ty 0 low 0) = lowOk cfg op (freeRow types lk) (rawOf op h ty 0 low 0) := by
  simp [fieldsOk, freeRow, rawOf, encPm_ne_three, targetOk_encT]

/-- The checks that a word of a free row can fail: its type is not listed, or its low bits break the limits of their layout. -/
theorem checkRaw_freeRow {op ty low : Nat} {types : List Nat} {lk : LowKind} (cfg : Bool) (lvl : Nat) (h : Hdr)
    (hplace : opPlace op = some .both) (hinfo : opInfo op (low / 2 ^ 20) = some (freeRow types lk))
    (hlevel : levelOf (freeRow types lk) (rawOf op h ty 0 low 0) = 0) :
    checkRaw cfg lvl (rawOf op h ty 0 low 0) =
      if !types.contains ty then some .illegalOp
      else if !lowOk cfg op (freeRow types lk) (rawOf op h ty 0 low 0) then some .reservedField else none := by
  have hop : (rawOf op h ty 0 low 0).op = op := rfl
  have hlow : (rawOf op h ty 0 low 0).low = low := rfl
  simp only [checkRaw, hop, hlow, hplace, hinfo, hlevel, combosOk_freeRow, fieldsOk_freeRow]
  rfl

/-- A word of a free row is legal when its type is listed and its low bits keep the limits of their layout. -/
theorem wordOk_freeRow {i : Instr} {op low : Nat} {h : Hdr} {ty : Ty} {types : List Nat} {lk : LowKind} (cfg : Bool) (lvl : Nat)
    (hraw : toRaw i = some (rawOf op h (tyCode ty) 0 low 0)) (hplace : opPlace op = some .both)
    (hinfo : opInfo op (low / 2 ^ 20) = some (freeRow types lk))
    (hlevel : levelOf (freeRow types lk) (rawOf op h (tyCode ty) 0 low 0) = 0) :
    wordOk cfg lvl i = (types.contains (tyCode ty) && lowOk cfg op (freeRow types lk) (rawOf op h (tyCode ty) 0 low 0)) := by
  rw [wordOk, hraw]
  simp only [checkRaw_freeRow cfg lvl h hplace hinfo hlevel]
  cases types.contains (tyCode ty) <;> cases lowOk cfg op (freeRow types lk) (rawOf op h (tyCode ty) 0 low 0) <;> rfl

theorem contains_allCodes (ty : Ty) : allCodes.contains (tyCode ty) = tyInt ty := by cases ty <;> rfl

theorem contains_signedCodes (ty : Ty) : signedCodes.contains (tyCode ty) = tySigned ty := by cases ty <;> rfl

theorem contains_wideCodes (ty : Ty) : wideCodes.contains (tyCode ty) = wide ty := by cases ty <;> rfl

/-- An instruction whose low bits hold nothing but an extension of its opcode is legal for the types that its row lists. -/
theorem legalFor_of_row {mk : Hdr → Ty → Instr} {types : Ty → Bool} (op low : Nat) {codes : List Nat}
    (hcodes : ∀ ty, codes.contains (tyCode ty) = types ty)
    (hraw : ∀ h ty, toRaw (mk h ty) = some (rawOf op h (tyCode ty) 0 low 0) := by intros; rfl)
    (hplace : opPlace op = some .both := by rfl) (hinfo : opInfo op (low / 2 ^ 20) = some (freeRow codes .zero) := by rfl)
    (hlow : ((decide (low / 2 ^ 20 = 0) || decide (op = 0x29 ∨ op = 0xED)) && decide (low % 2 ^ 20 = 0)) = true := by decide) :
    LegalFor mk types := fun cfg lvl h ty => by
  rw [wordOk_freeRow cfg lvl (hraw h ty) hplace hinfo rfl, hcodes,
    show lowOk cfg op (freeRow codes .zero) (rawOf op h (tyCode ty) 0 low 0) = true from hlow, Bool.and_true]

/-- With a position in the low bits, the position has to be one of the lane's bits as well. -/
theorem legalFor_of_shRow {mk : Hdr → Ty → Instr} (op : Nat) (n : Fin 64)
    (hraw : ∀ h ty, toRaw (mk h ty) = some (rawOf op h (tyCode ty) 0 n.val 0) := by intros; rfl)
    (hplace : opPlace op = some .both := by rfl) (hinfo : opInfo op 0 = some (freeRow allCodes .sh) := by rfl) :
    LegalFor mk fun ty => tyInt ty && decide (n.val < tyWidth ty) := fun cfg lvl h ty => by
  have hzero : n.val / 2 ^ 20 = 0 := by omega
  have hmod : n.val % 2 ^ 20 = n.val := by omega
  have hlow : lowOk cfg op (freeRow allCodes .sh) (rawOf op h (tyCode ty) 0 n.val 0) = decide (n.val < tyWidth ty) := by
    simp only [lowOk, freeRow, rawOf, hzero, hmod, tyOf_tyCode, decide_true, Bool.true_or, Bool.true_and]
  rw [wordOk_freeRow cfg lvl (hraw h ty) hplace (hzero ▸ hinfo) rfl, hlow, contains_allCodes]

/-! Functions of a lane. -/

theorem tyWidth_pos (ty : Ty) : 0 < tyWidth ty := by cases ty <;> decide

theorem pow2_eq (k : Nat) : pow2 k = (2 : Int) ^ k := by rw [pow2, Nat.cast_pow, Nat.cast_ofNat]

theorem lo_le_hi (ty : Ty) : lo ty ≤ hi ty := by
  have h1 : (0 : Int) < 2 ^ tyWidth ty := by positivity
  have h2 : (0 : Int) < 2 ^ (tyWidth ty - 1) := by positivity
  unfold lo hi
  split <;> omega

theorem clampTy_eq_min_max (ty : Ty) (x : Int) : clampTy ty x = min (max x (lo ty)) (hi ty) := by
  have hlo : lo ty = if tySigned ty then -pow2 (tyWidth ty - 1) else 0 := by rw [lo, pow2_eq]
  have hhi : hi ty = if tySigned ty then pow2 (tyWidth ty - 1) - 1 else pow2 (tyWidth ty) - 1 := by rw [hi, pow2_eq, pow2_eq]
  have hclamp : clampTy ty x = if x < lo ty then lo ty else if hi ty < x then hi ty else x := by
    rw [hlo, hhi]
    rfl
  have hbounds := lo_le_hi ty
  rw [hclamp]
  split_ifs <;> omega

theorem divInt_eq_divLane (ty : Ty) (x y : Int) : divInt ty x y = divLane ty x y := by
  cases hs : tySigned ty <;> simp [divInt, divLane, divTrunc, lo, pow2_eq, hs]

theorem remInt_eq_remLane (ty : Ty) (x y : Int) : remInt ty x y = remLane ty x y := by
  cases hs : tySigned ty <;> simp [remInt, remLane, divTrunc, lo, pow2_eq, hs, Int.tmod_def]

/-- The most negative dividend is its own negative modulo 2^w. -/
theorem neg_lo_emod {ty : Ty} (hs : tySigned ty = true) : -lo ty % (2 : Int) ^ tyWidth ty = lo ty % 2 ^ tyWidth ty := by
  have hhalf : (2 : Int) ^ tyWidth ty = 2 * 2 ^ (tyWidth ty - 1) := by
    rw [← pow_succ', Nat.sub_add_cancel (tyWidth_pos ty)]
  have hlo : lo ty = -2 ^ (tyWidth ty - 1) := if_pos hs
  have hdiff : -lo ty - lo ty = 2 ^ tyWidth ty := by
    rw [hlo, hhalf]
    ring
  rw [Int.emod_eq_emod_iff_emod_sub_eq_zero, hdiff, Int.emod_self]

theorem divLane_remLane_identity (ty : Ty) (x y : Int) :
    (y * divLane ty x y + remLane ty x y) % (2 : Int) ^ tyWidth ty = x % (2 : Int) ^ tyWidth ty := by
  unfold divLane remLane
  split_ifs with hzero hmin
  · rw [hzero, zero_mul, zero_add]
  · obtain ⟨hs, rfl, rfl⟩ := hmin
    rw [neg_one_mul, add_zero, neg_lo_emod hs]
  · rw [Int.mul_tdiv_add_tmod]

theorem natCast_wrapInt (w : Nat) (x : Int) : (wrapInt w x : Int) = x % 2 ^ w := by
  rw [wrapInt, pow2_eq, Int.toNat_of_nonneg (Int.emod_nonneg x (by positivity))]

/-- The quotient of a residue modulo m². -/
theorem emod_mul_self_ediv (p : Int) {m : Int} (hm : 0 < m) : p % (m * m) / m = p / m % m := by
  rw [Int.emod_def, mul_assoc, Int.sub_mul_ediv_left _ _ hm.ne', ← Int.ediv_ediv_of_nonneg hm.le, ← Int.emod_def]

/-- The high half of a product modulo 2^2w is the quotient by 2^w modulo 2^w. -/
theorem wrapInt_two_mul_div (w : Nat) (p : Int) : wrapInt (2 * w) p / 2 ^ w = wrapInt w (p / (2 : Int) ^ w) := by
  rw [← Int.natCast_inj, Int.natCast_ediv, natCast_wrapInt, natCast_wrapInt, two_mul, pow_add, Nat.cast_pow, Nat.cast_ofNat]
  exact emod_mul_self_ediv p (by positivity)

theorem sraN_eq_sra {w : Nat} (hw : 0 < w) (x k : Nat) : sraN w x k = sra w x k := by
  have hamount : (if w ≤ k then w - 1 else k) = min k (w - 1) := by split_ifs <;> omega
  rw [sra, ← pow2_eq, ← hamount]
  rfl

theorem shlN_mod (w x k : Nat) : shlN w x k % 2 ^ w = shl w x k % 2 ^ w := by
  unfold shlN shl
  split_ifs
  · exact Nat.mod_mod _ _
  · rfl

/-- The two parts of a rotated lane share no bit. -/
theorem rolN_mod {w x : Nat} (hw : 0 < w) (hx : x < 2 ^ w) (k : Nat) : rolN w x k % 2 ^ w = rol w x k % 2 ^ w := by
  have hr : k % w < w := Nat.mod_lt k hw
  have hsplit : 2 ^ w = 2 ^ (k % w) * 2 ^ (w - k % w) := by rw [← pow_add, Nat.add_sub_cancel' hr.le]
  have hlow : x / 2 ^ (w - k % w) < 2 ^ (k % w) := Nat.div_lt_of_lt_mul (by rwa [mul_comm, ← hsplit])
  have hhigh : x * 2 ^ (k % w) % 2 ^ w = 2 ^ (k % w) * (x % 2 ^ (w - k % w)) := by
    rw [hsplit, mul_comm, Nat.mul_mod_mul_left]
  have hor : rolN w x k = x * 2 ^ (k % w) % 2 ^ w + x / 2 ^ (w - k % w) := by
    rw [hhigh, Nat.two_pow_add_eq_or_of_lt hlow, ← hhigh]
    rfl
  rw [hor, Nat.mod_add_mod]
  rfl

theorem popN_eq_countP (w x : Nat) : popN w x = (List.range w).countP fun i => x.testBit i := by
  induction w generalizing x with
  | zero => rfl
  | succ w ih =>
    have hrest : (List.range w).countP ((fun i => x.testBit i) ∘ Nat.succ) = popN w (x / 2) := by
      rw [ih]
      exact List.countP_congr fun i _ => by rw [Function.comp_apply, Nat.testBit_succ]
    rw [List.range_succ_eq_map, List.countP_cons, List.countP_map, hrest, Nat.testBit_zero, popN, add_comm]
    rcases Nat.mod_two_eq_zero_or_one x with hbit | hbit <;> simp [hbit]

theorem ctzN_eq_find (w x : Nat) : ctzN w x = ((List.range w).find? fun i => x.testBit i).getD w := by
  induction w generalizing x with
  | zero => rfl
  | succ w ih =>
    rw [List.range_succ_eq_map, List.find?_cons, Nat.testBit_zero, ctzN]
    by_cases hbit : x % 2 = 1
    · simp [hbit]
    · have hrest : (fun i => x.testBit i) ∘ Nat.succ = fun i => (x / 2).testBit i := funext (Nat.testBit_succ x)
      simp only [hbit, decide_false, if_false, List.find?_map, hrest, ih]
      cases (List.range w).find? fun i => (x / 2).testBit i <;> rfl

theorem bitsN_zero (x k : Nat) : bitsN x 0 k = x % 2 ^ k := by rw [bitsN, pow_zero, Nat.div_one]

theorem vSext_eq (ty : Ty) (n : Nat) : vSext ty n = lanes1 ty fun x => sext (tyWidth ty) x n := by
  simp only [vSext, bitsN_zero, sext]

theorem vZext_eq (ty : Ty) (n : Nat) : vZext ty n = lanes1 ty fun x => x % 2 ^ (n + 1) := by
  simp only [vZext, bitsN_zero]

/-! The families. -/

/-- Settles O1: every form computes its lanes by the function stated; the clamp of ADDS and SUBS is a minimum of a maximum. -/
theorem addFamily : Obligations.AddFamily :=
  ⟨bitsAB_of_exec, bitsAB_of_exec, intAB_congr bitsAB_of_exec fun ty x y => clampTy_eq_min_max ty (x + y),
    intAB_congr bitsAB_of_exec fun ty x y => clampTy_eq_min_max ty (x - y), bitsA_of_exec, bitsA_of_exec,
    legalFor_of_row 0x10 0 contains_allCodes, legalFor_of_row 0x11 0 contains_allCodes, legalFor_of_row 0x12 0 contains_allCodes,
    legalFor_of_row 0x13 0 contains_allCodes, legalFor_of_row 0x14 0 contains_allCodes, legalFor_of_row 0x15 0 contains_signedCodes⟩

/-- Settles O2: MULH is a quotient of the product, REM the remainder of the truncated quotient of DIV, and the identity is that of
truncated division but for a zero divisor and for the most negative dividend over −1. -/
theorem multiplyFamily : Obligations.MultiplyFamily :=
  ⟨bitsAB_of_exec,
    bitsAB_congr (g := fun ty x y => wrapInt (2 * tyWidth ty) (readInt ty x * readInt ty y) / 2 ^ tyWidth ty) bitsAB_of_exec
      fun ty x y _ => by rw [wrapInt_two_mul_div],
    intAB_congr (g := divInt) bitsAB_of_exec divInt_eq_divLane, intAB_congr (g := remInt) bitsAB_of_exec remInt_eq_remLane,
    divLane_remLane_identity, legalFor_of_row 0x16 0 contains_allCodes, legalFor_of_row 0x17 0 contains_allCodes,
    legalFor_of_row 0x18 0 contains_allCodes, legalFor_of_row 0x19 0 contains_allCodes⟩

/-- Settles O4: the shifts and the rotate act on a lane as R126 states for amounts below the width and from the width on. -/
theorem logicFamily : Obligations.LogicFamily :=
  ⟨bitsAB_of_exec, bitsAB_of_exec, bitsAB_of_exec, bitsAB_of_exec, bitsA_of_exec,
    bitsAB_congr (g := fun ty => shlN (tyWidth ty)) bitsAB_of_exec fun ty x k _ => shlN_mod (tyWidth ty) x k,
    bitsAB_of_exec,
    bitsAB_congr (g := fun ty => sraN (tyWidth ty)) bitsAB_of_exec fun ty x k _ => by rw [sraN_eq_sra (tyWidth_pos ty)],
    bitsAB_congr (g := fun ty => rolN (tyWidth ty)) bitsAB_of_exec fun ty x k hx => rolN_mod (tyWidth_pos ty) hx k,
    legalFor_of_row 0x20 0 contains_allCodes, legalFor_of_row 0x21 0 contains_allCodes, legalFor_of_row 0x22 0 contains_allCodes,
    legalFor_of_row 0x23 0 contains_allCodes, legalFor_of_row 0x24 0 contains_allCodes, legalFor_of_row 0x25 0 contains_allCodes,
    legalFor_of_row 0x26 0 contains_allCodes, legalFor_of_row 0x27 0 contains_allCodes, legalFor_of_row 0x28 0 contains_allCodes⟩

/-- Settles O5: the counts that the model forms bit by bit are a count and a search among the positions of a lane. -/
theorem bitCountFamily : Obligations.BitCountFamily :=
  ⟨amountA_of_exec fun h ty n s => by rw [← vSext_eq]; rfl, amountA_of_exec fun h ty n s => by rw [← vZext_eq]; rfl,
    bitsA_congr (g := fun ty => popN (tyWidth ty)) bitsA_of_exec fun ty x _ => by rw [popN_eq_countP],
    bitsA_of_exec,
    bitsA_congr (g := fun ty => ctzN (tyWidth ty)) bitsA_of_exec fun ty x _ => by rw [ctzN_eq_find],
    bitsA_of_exec,
    legalFor_of_row 0x29 0 contains_allCodes, legalFor_of_row 0x29 (0x01 * 2 ^ 20) contains_allCodes,
    legalFor_of_row 0x29 (0x02 * 2 ^ 20) contains_allCodes, legalFor_of_row 0x29 (0x03 * 2 ^ 20) contains_wideCodes,
    fun n => legalFor_of_shRow 0x1E n, fun n => legalFor_of_shRow 0x1F n⟩

/-! SEL (R124). -/

/-- Every token of a firing is poisoned when one of its operands is, or when its PE fails its check (R46, R477). -/
theorem poison_of_flightOf {s : State} {f : Firing} {x : Send} {fl : Flight} (h : flightOf s f x = some fl) :
    fl.tok.poison = (f.poison || peFails s f) := by
  cases htgt : x.tgt with
  | none => simp [flightOf, htgt] at h
  | some t =>
    simp only [flightOf, htgt, Option.some.injEq] at h
    rw [← h]

/-- The level of R46: one that a stop has and that no stop exceeds. -/
theorem maxStop_eq {l : List Tok} {n : Fin 4} (hmem : ∃ t ∈ l, t.kind = .stop n) (hle : ∀ t ∈ l, ∀ m, t.kind = .stop m → m ≤ n) :
    maxStop l = .stop n := by
  have hmax : (l.map fun t => stopLevel t.kind).max? = some n.val := by
    refine List.max?_eq_some_iff.2 ⟨?_, ?_⟩
    · obtain ⟨t, ht, hk⟩ := hmem
      exact List.mem_map.2 ⟨t, ht, by rw [hk]; rfl⟩
    · intro v hv
      obtain ⟨t, ht, rfl⟩ := List.mem_map.1 hv
      cases hk : t.kind with
      | stop m => exact hle t ht m hk
      | data | null | error | marker | purge => exact Nat.zero_le _
  rw [maxStop, ← List.foldl_map (f := fun t : Tok => stopLevel t.kind), List.foldl_max, hmax]
  simp

section
variable {f : Firing} {a b p : Tok} (h : Hdr) (ty : Ty) (ha : f.a = [a]) (hb : f.b = [b]) (hp : f.p = [p])
include ha hb hp

theorem selRes_of_null (hnull : a.kind = .null ∨ b.kind = .null ∨ p.kind = .null) :
    selRes h ty f = resAll (tgts2 h) .null 0 f.tag := by
  simp [selRes, opTok, ha, hb, hp, hnull]

theorem selRes_of_stop {t : Tok} (ha0 : a.kind ≠ .null) (hb0 : b.kind ≠ .null) (hp0 : p.kind ≠ .null)
    (hstop : [a, b, p].find? (fun t => isStop t.kind) = some t) :
    selRes h ty f = resAll (tgts2 h) (maxStop [a, b, p]) t.value f.tag := by
  simp [selRes, opTok, ha, hb, hp, ha0, hb0, hp0, hstop]

/-- Without NULL and without stops, p decides. -/
theorem selRes_of_plain (ha1 : nullOrStop a = false) (hb1 : nullOrStop b = false) (hp1 : nullOrStop p = false) :
    selRes h ty f =
      if p.kind = .error then resAll (tgts2 h) .error p.value f.tag
      else if (if p.value ≠ 0 then a else b).kind = .error then resAll (tgts2 h) .error (if p.value ≠ 0 then a else b).value f.tag
      else resAll (tgts2 h) .data (vSel ty a.value b.value p.value) f.tag := by
  simp only [nullOrStop, Bool.or_eq_false_iff, decide_eq_false_iff_not] at ha1 hb1 hp1
  simp [selRes, opTok, ha, hb, hp, ha1, hb1, hp1]

end

/-- The lanes of the selected operand, extended from the type. -/
theorem laneOf_vSel {ty : Ty} {i : Nat} (hi : i < tyLanes ty) (a b p : Word) :
    laneOf (tyWidth ty) i (vSel ty a b p) = laneOf (tyWidth ty) i (if p ≠ 0 then a else b) := by
  have hlen := lanesOf_length ty (if p ≠ 0 then a else b)
  rw [vSel, laneOf_fillTy ty _ hlen i (hlen.symm ▸ hi), lanesOf_getElem, Nat.mod_eq_of_lt (laneOf_lt _ _ _)]

theorem nullOrStop_of_plain {t : Tok} (ht : t.kind = .data ∨ t.kind = .error) : nullOrStop t = false := by
  rcases ht with hk | hk <;> rw [nullOrStop, hk] <;> rfl

/-- Settles O58: the cases of R124 in their order, after the poison that every token of the firing takes from its operands. -/
theorem selRule : Obligations.SelRule := by
  intro h ty s a b p hs _ ha hb hp out plain x
  have hout {k : Kind} {v : Word} (hres : selRes h ty s.cur = resAll (tgts2 h) k v s.cur.tag) : out k v :=
    (congrArg (fireRes s) hres).trans (fireRes_resAll hs h k v)
  refine ⟨?_, fun hnull => hout (selRes_of_null h ty ha hb hp hnull), fun ha0 hb0 hp0 => ⟨?_, fun hpa hpb => ?_⟩⟩
  · intro g k v fl hfl
    have hpoison : s.cur.poison = (a.poison || b.poison || p.poison) := by
      simp [Firing.poison, Firing.all, ha, hb, hp, Bool.or_assoc]
    rw [poison_of_flightOf hfl, hs.2, Bool.or_false, hpoison]
  · intro l hmem hle t hfirst
    exact hout (maxStop_eq hmem hle ▸ selRes_of_stop h ty ha hb hp ha0 hb0 hp0 hfirst)
  · have hsel (hpp : plain p) := selRes_of_plain h ty ha hb hp (nullOrStop_of_plain hpa) (nullOrStop_of_plain hpb)
      (nullOrStop_of_plain hpp)
    refine ⟨fun hperr => ?_, fun hpdata hxerr => ?_, fun hpdata hxdata => ?_⟩
    · exact hout ((hsel (.inr hperr)).trans (if_pos hperr))
    · have hp1 : p.kind ≠ .error := by simp [hpdata]
      exact hout ((hsel (.inl hpdata)).trans ((if_neg hp1).trans (if_pos hxerr)))
    · have hp1 : p.kind ≠ .error := by simp [hpdata]
      have hx1 : x.kind ≠ .error := by simp [hxdata]
      refine ⟨_, hout ((hsel (.inl hpdata)).trans ((if_neg hp1).trans (if_neg hx1))), extended_fillTy ty _ (lanesOf_length ty _),
        fun i hi => ?_⟩
      rw [laneOf_vSel hi, ← apply_ite Tok.value]

end Sys2Proof.Machine
end

section
/-! Proofs of the family 24_context: what an instruction that acts at its firing answers when it runs, and the word of OWNQRY (R486). -/

namespace Sys2Proof.Machine

open Sys2Proof Sys2Proof.Claim

/-! An acting instruction whose firing executes. -/

theorem gate_of_fires {h : Hdr} {f : Firing} {ops : List Tok} (hf : Fires h f) (hops : ∀ t ∈ ops, t.kind = .data) :
    gate h f ops = .run := by
  simp only [gate, predRule_of_fires hf, kindRule_data ops hops]

/-- When the firing executes (R45, R46), an acting instruction answers with its body alone. -/
theorem acting_of_runs {h : Hdr} {s : State} {ops : List Tok} (hr : Runs h s) (hops : ∀ t ∈ ops, t.kind = .data)
    (body : R s → R s) : acting s h ops body = (body (R.start s)).done := by
  obtain ⟨⟨-, hpe⟩, hf, hcarry⟩ := hr
  simp only [acting, liftCarry_none _ _ hcarry, gate_of_fires hf hops, hpe, when_false]

theorem firingOf_of_sane {s : State} (hs : Sane s) : firingOf s = s.cur := by
  simp only [firingOf, hs.2, Bool.false_eq_true, if_false]

/-- A reply of one kind and value at the firing itself: the tokens set out, and nothing else changes. -/
theorem reply_done_of_runs {h : Hdr} {s : State} (hr : Runs h s) (k : Kind) (v : Word) :
    (reply (R.start s) (firingOf s) h k v false).done = .next (sent s (both s h k v)) := by
  obtain ⟨hs, hf, -⟩ := hr
  have hpred : predErr h s.cur = none := by simp only [predErr, predRule_of_fires hf]
  rw [firingOf_of_sane hs, reply, reply2, hpred, done_eq, emitSends_s _ _ _ hs.1]
  rfl

/-! The word of OWNQRY (R486). -/

/-- OWNQRY sends the word to both targets. -/
theorem exec_ownqry {h : Hdr} {s : State} (hr : Runs h s) (ha : IsData s.cur.a) :
    exec (.ownqry h) s = .next (sent s (both s h .data (BitVec.ofNat 64 (ownWord s.mgmt)))) :=
  calc exec (.ownqry h) s
    _ = acting s h [opTok s.cur.a] fun r =>
          reply r (firingOf s) h .data (BitVec.ofNat 64 (ownWord s.mgmt)) false := rfl
    _ = (reply (R.start s) (firingOf s) h .data (BitVec.ofNat 64 (ownWord s.mgmt)) false).done :=
          acting_of_runs hr (List.forall_mem_singleton.2 ha) _
    _ = _ := reply_done_of_runs hr _ _

theorem b2n_lt_two (b : Bool) : b2n b < 2 := by cases b <;> decide

theorem decide_b2n_eq_one (b : Bool) : decide (b2n b = 1) = b := by cases b <;> rfl

theorem ownWord_lt (m : Mgmt) : ownWord m < 2 ^ 64 := by
  have howned := b2n_lt_two m.owned
  unfold ownWord
  omega

theorem ownWord_owned (m : Mgmt) : ownWord m / 2 ^ 63 % 2 = b2n m.owned := by
  have howned := b2n_lt_two m.owned
  unfold ownWord
  omega

theorem ownWord_reserved_high (m : Mgmt) : ownWord m / 2 ^ 60 % 2 ^ 3 = 0 := by
  unfold ownWord
  omega

theorem ownWord_owner (m : Mgmt) : ownWord m / 2 ^ 56 % 2 ^ 4 = m.owner.toNat := by
  unfold ownWord
  omega

theorem ownWord_attached (m : Mgmt) : ownWord m / 2 ^ 40 % 2 ^ 16 = m.attached.toNat := by
  unfold ownWord
  omega

theorem ownWord_reserved_low (m : Mgmt) : ownWord m / 2 ^ 32 % 2 ^ 8 = 0 := by
  unfold ownWord
  omega

theorem ownWord_epoch (m : Mgmt) : ownWord m / 2 ^ 0 % 2 ^ 32 = m.epoch.toNat := by
  unfold ownWord
  omega

/-- The field of len bits from bit n of the word. -/
theorem extractLsb'_ownWord {m : Mgmt} {n len : Nat} {v : BitVec len} (hv : ownWord m / 2 ^ n % 2 ^ len = v.toNat) :
    (BitVec.ofNat 64 (ownWord m)).extractLsb' n len = v := by
  apply BitVec.eq_of_toNat_eq
  rw [BitVec.extractLsb'_toNat, BitVec.toNat_ofNat, Nat.mod_eq_of_lt (ownWord_lt m), Nat.shiftRight_eq_div_pow, hv]

/-- Bit 63 of the word. -/
theorem getLsbD_63_ownWord (m : Mgmt) : (BitVec.ofNat 64 (ownWord m)).getLsbD 63 = m.owned := by
  rw [BitVec.getLsbD_ofNat, Nat.testBit_eq_decide_div_mod_eq, ownWord_owned, decide_b2n_eq_one]
  rfl

/-- Settles O60: the firing answers with its tokens alone, and each field of their word is read off the sum that packs it. -/
theorem ownershipWord : Obligations.OwnershipWord := by
  refine ⟨fun h s hr ha => ⟨_, exec_ownqry hr ha, getLsbD_63_ownWord s.mgmt, ?_, ?_, ?_, ?_, ?_⟩, rfl, rfl, rfl, rfl⟩
  · exact extractLsb'_ownWord (ownWord_reserved_high s.mgmt)
  · exact extractLsb'_ownWord (ownWord_owner s.mgmt)
  · exact extractLsb'_ownWord (ownWord_attached s.mgmt)
  · exact extractLsb'_ownWord (ownWord_reserved_low s.mgmt)
  · exact extractLsb'_ownWord (ownWord_epoch s.mgmt)

end Sys2Proof.Machine
end
